-- ==== Sys2Proof/Word.lean ====
section
/-! DEFINITION. The word types of the model and their plainest arithmetic. -/
namespace Sys2Proof

/-- A 64-bit word: a register of the window, an operand word, a memory word (R13). -/
abbrev W64 := BitVec 64
/-- A 32-bit word: a handle (R60), a ring count (R84). -/
abbrev W32 := BitVec 32
/-- A context id (R54). -/
abbrev CtxId := BitVec 16
/-- One byte of memory. -/
abbrev Byte := BitVec 8
/-- A ring count; all count arithmetic is modulo 2^32 (R84). -/
abbrev Count := BitVec 32

/-- The 2-bit error field of every response of the memory system (R20). -/
inductive RespErr where
  | ok | xlat | poison | target
deriving DecidableEq, Repr, Inhabited

/-- What memory answered to the reads a command makes and completes inside its own step:
the bytes in address order, and the first response error, if any. -/
structure MemRead where
  bytes : List Byte
  err : RespErr
deriving DecidableEq, Repr, Inhabited

end Sys2Proof
end

