-- ==== Sys2Proof/Syntax.lean ====
section
/-! DEFINITION. The commands the block takes: one constructor for each row of spec/opcode_table.json, in the table's order.
A control word (R120) is named by the core that executes it: the word itself stands in the core's line buffer. A read that
a command makes and completes inside its own step is an operand of type MemRead: what memory answered. -/
namespace Sys2Proof

/-- One command. Each constructor's text gives its row and the rule the row names. -/
inductive Instr where
  /-- POR_N_ASSERT (R44). -/
  | porNAssert
  /-- POR_N_RELEASE (R412). -/
  | porNRelease
  /-- SELFTEST_DONE (R412). -/
  | selftestDone (failing : List Nat)
  /-- REGISTER_WRITE (R9). -/
  | registerWrite (wide : Bool) (addr : BitVec 25) (data : W64)
  /-- READ_CLEAR (R9). -/
  | readClear (wide : Bool) (addr : BitVec 25)
  /-- CREATE (R57). -/
  | create
  /-- STOP (R57). -/
  | stop
  /-- RESUME (R57). -/
  | resume
  /-- KILL (R57). -/
  | kill
  /-- TEARDOWN (R57). -/
  | teardown
  /-- SET_WEIGHT (R57). -/
  | setWeight
  /-- CONTEXT_FREED (R57). -/
  | contextFreed (slot : Nat)
  /-- OBJECT_REGISTER (R70). -/
  | objectRegister (shared golden : Bool)
  /-- REF_ADD (R63). -/
  | refAdd (handle : W32)
  /-- REF_SUB (R65). -/
  | refSub (handle : W32)
  /-- OBJECT_FREE (R67). -/
  | objectFree (handle : W32)
  /-- FORCE_FREE (R68). -/
  | forceFree (handle : W32)
  /-- OBJECT_QUERY (R70). -/
  | objectQuery (handle : W32)
  /-- HOST_SIGNAL (R79). -/
  | hostSignal (value : BitVec 63)
  /-- HOST_FAIL (R79). -/
  | hostFail (cls : BitVec 7) (code : BitVec 16)
  /-- DOORBELL (R94). -/
  | doorbell (ring : Nat)
  /-- DOORBELL_STORM (R95). -/
  | doorbellStorm (ring : Nat)
  /-- STORM_LOOK (R95). -/
  | stormLook (ring : Nat)
  /-- STORM_END (R95). -/
  | stormEnd (ring : Nat)
  /-- INVALIDATE (R101). -/
  | invalidate (ring : Nat) (since : Count)
  /-- DB_RELEASE (R102). -/
  | dbRelease (ring : Nat)
  /-- ENTRY_FETCHED (R88). -/
  | entryFetched (ring : Nat)
  /-- ENTRY_REREAD (R89). -/
  | entryReread (ring : Nat)
  /-- BIND (R98). -/
  | bind
  /-- UNBIND (R98). -/
  | unbind
  /-- RESTART (R113). -/
  | restart (skip : Bool)
  /-- ABANDON (R114). -/
  | abandon
  /-- PIN (R98). -/
  | pin (seat : Nat)
  /-- UNPIN (R98). -/
  | unpin
  /-- UPDATE (R98). -/
  | update
  /-- SEAT_POLICY (R99). -/
  | seatPolicy
  /-- IRQ_HOLDOFF_END (R109). -/
  | irqHoldoffEnd (ring : Nat)
  /-- ENTRY_TIMEOUT (R111): `posted` is what Foantong's reads of the rings found with OWN 1 beside the cached entries. -/
  | entryTimeout (ring : Nat) (count : Count) (posted : List (Nat × Count × List W64))
  /-- CORE_TAKE_SEAT (R148). -/
  | coreTakeSeat (core : Nat)
  /-- SLICE_YIELD (R148). -/
  | sliceYield (core : Nat)
  /-- SEAT_RESUME (R131). -/
  | seatResume (seat : Nat)
  /-- NOP (R120). -/
  | wNop (core : Nat)
  /-- END (R125). -/
  | wEnd (core : Nat)
  /-- JUMP (R125). -/
  | wJump (core : Nat)
  /-- BRANCH (R125). -/
  | wBranch (core : Nat)
  /-- LOOP (R125). -/
  | wLoop (core : Nat)
  /-- CALLC (R160). -/
  | wCallc (core : Nat)
  /-- RETC (R161). -/
  | wRetc (core : Nat)
  /-- SETC (R121). -/
  | wSetc (core : Nat)
  /-- ADDC (R121). -/
  | wAddc (core : Nat)
  /-- LOADC (R126). -/
  | wLoadc (core : Nat)
  /-- STOREC (R126). -/
  | wStorec (core : Nat)
  /-- ATOMC (R126). -/
  | wAtomc (core : Nat)
  /-- WAITF (R128). -/
  | wWaitf (core : Nat)
  /-- SIGNALF (R132). -/
  | wSignalf (core : Nat)
  /-- SIGNALX (R133). -/
  | wSignalx (core : Nat)
  /-- WAITT (R129). -/
  | wWaitt (core : Nat)
  /-- WAITT_RELEASE (R129). -/
  | waittRelease (seat : Nat)
  /-- WAIT_TIMEOUT (R128). -/
  | waitTimeout (seat : Nat)
  /-- LAUNCH (R134). -/
  | wLaunch (core : Nat)
  /-- CREWLAUNCH (R135). -/
  | wCrewlaunch (core : Nat)
  /-- TREE_ACCEPT (R136). -/
  | treeAccept (core : Nat)
  /-- BARRIER (R138). -/
  | wBarrier (core : Nat)
  /-- SAVECTX (R326). -/
  | wSavectx (core : Nat)
  /-- LOADCTX (R328). -/
  | wLoadctx (core : Nat) (header : MemRead)
  /-- ALLOC (R140). -/
  | wAlloc (core : Nat)
  /-- FREE (R142). -/
  | wFree (core : Nat)
  /-- REFADD (R141). -/
  | wRefadd (core : Nat)
  /-- REFSUB (R142). -/
  | wRefsub (core : Nat)
  /-- KVGROW (R311). -/
  | wKvgrow (core : Nat) (list : MemRead)
  /-- KVTRIM (R312). -/
  | wKvtrim (core : Nat) (list : MemRead)
  /-- JUDGE (R276). -/
  | wJudge (core : Nat)
  /-- ENQUEUE (R167). -/
  | wEnqueue (core : Nat)
  /-- MARK (R144). -/
  | wMark (core : Nat)
  /-- HEATEND (R266). -/
  | wHeatend (core : Nat)
  /-- RECORD (R158). -/
  | courseRecord (course : W32) (body : MemRead)
  /-- PATCH (R158). -/
  | coursePatch (course : W32) (body : MemRead)
  /-- RETIRE (R158). -/
  | courseRetire (course : W32)
  /-- COURSE_QUERY (R158). -/
  | courseQuery (course : W32)
  /-- PIECE (R185). -/
  | piece (tree cluster : Nat)
  /-- CREW_PIECE (R182). -/
  | crewPiece (tree cluster : Nat)
  /-- CANCEL (R203). -/
  | cancel (tree cluster : Nat)
  /-- HOLD (R204). -/
  | hold (tree cluster : Nat)
  /-- RELEASE (R204). -/
  | release (tree cluster : Nat)
  /-- CANCEL_SEND (R202). -/
  | cancelSend
  /-- CHUNK_REQUEST (R186). -/
  | chunkRequest (cluster engine : Nat)
  /-- RP_RESPONSE (R186). -/
  | rpResponse (cluster tag : Nat) (data : List W64) (last : Bool) (err : RespErr)
  /-- PRESENT (R192). -/
  | present (cluster engine : Nat)
  /-- CATCH (R196). -/
  | catchCmd (cluster engine : Nat)
  /-- FINISH (R198). -/
  | finish (cluster engine : Nat) (err : Bool)
  /-- ENGINE_ERROR_REPORT (R200). -/
  | engineErrorReport (cluster engine : Nat) (cls : BitVec 3) (code : BitVec 16) (info : W32)
  /-- PIECE_REPORT (R199). -/
  | pieceReport (cluster : Nat)
  /-- ACTIVE_YIELD (R193). -/
  | activeYield (cluster engine : Nat)
  /-- PRE_ACK_RISE (R204). -/
  | preAckRise (cluster engine : Nat)
  /-- PRE_ACK_FALL (R204). -/
  | preAckFall (cluster engine : Nat)
  /-- HOLD_COMPLETE (R326). -/
  | holdComplete (cluster slot : Nat)
  /-- ALIGNED_START (R184). -/
  | alignedStart (cluster engine : Nat)
  /-- STAGGER_START (R339). -/
  | staggerStart (cluster engine : Nat)
  /-- NM_RESPONSE (R25). -/
  | nmResponse (tag : Nat) (data : List W64) (err : RespErr)
  /-- AT_RESPONSE (R26). -/
  | atResponse (tag : Nat) (old : W64) (err : RespErr)
  /-- HM_RESPONSE (R22). -/
  | hmResponse (tag : Nat) (data : List W64) (err : RespErr)
  /-- MW_RESPONSE (R213). -/
  | mwResponse (idx : Nat) (ok : Bool)
  /-- NOTICE (R214). -/
  | notice (idx : Nat)
  /-- NOTICE_LOST (R215). -/
  | noticeLost
  /-- WD_RESPONSE (R19). -/
  | wdResponse (tag : Nat) (data : List Byte) (last : Bool) (err : RespErr)
  /-- WK_RESPONSE (R362). -/
  | wkResponse (tag : Nat) (err : RespErr)
  /-- POLL_READ (R216). -/
  | pollRead (waiter : Nat)
  /-- LINGER_EXPIRY (R217). -/
  | lingerExpiry (idx : Nat)
  /-- ARRIVAL (R226). -/
  | arrival (cluster : Nat) (ctr : BitVec 6) (inc : BitVec 16) (ctx : CtxId)
  /-- ARRIVAL_STALL (R228). -/
  | arrivalStall (cluster : Nat)
  /-- CROSSING_SIGNAL (R235). -/
  | crossingSignal (src : BitVec 16) (msg : List W64)
  /-- CROSSING_ACK (R235). -/
  | crossingAck (src : BitVec 16) (msg : List W64)
  /-- CROSSING_REJECT (R235). -/
  | crossingReject (src : BitVec 16) (msg : List W64)
  /-- ACK_FLUSH (R236). -/
  | ackFlush (src : BitVec 16) (incarn : BitVec 8)
  /-- RESEND (R237). -/
  | resend (dst : BitVec 16) (seq : W32)
  /-- GIVE_UP (R237). -/
  | giveUp (dst : BitVec 16) (seq : W32)
  /-- LINK_DOWN (R238). -/
  | linkDown
  /-- LINK_RESET (R238). -/
  | linkReset
  /-- LINK_UP (R238). -/
  | linkUp
  /-- LOOP_START (R250). -/
  | loopStart (desc : MemRead)
  /-- LOOP_START_CLEAR (R250). -/
  | loopStartClear (desc : MemRead)
  /-- LOOP_STOP (R250). -/
  | loopStop
  /-- LOOP_DRAIN (R250). -/
  | loopDrain
  /-- RELOAD (R250). -/
  | reload (desc : MemRead)
  /-- RQ_DOORBELL (R252). -/
  | rqDoorbell (ring : BitVec 4)
  /-- REQUEST_POLL (R252). -/
  | requestPoll (loop ring : Nat)
  /-- REQUEST_NEW (R252). -/
  | requestNew (loop ring : Nat)
  /-- REQUEST_CANCEL (R253). -/
  | requestCancel (loop ring : Nat)
  /-- RQ_RING_RESTART (R252). -/
  | rqRingRestart (bits : BitVec 16)
  /-- RESULT_CONSUMED (R256). -/
  | resultConsumed (ring : BitVec 4) (consumed : W32)
  /-- GATE_RELEASE (R254). -/
  | gateRelease (loop seq : Nat)
  /-- GATE_RETRY (R254). -/
  | gateRetry (loop seq : Nat)
  /-- HEAT_PLACE (R259). -/
  | heatPlace
  /-- HEAT_SAVE_DONE (R263). -/
  | heatSaveDone (loop slot : Nat)
  /-- HEAT_SWITCH_DONE (R263). -/
  | heatSwitchDone (loop slot : Nat)
  /-- HEAT_GROW_DONE (R261). -/
  | heatGrowDone (loop slot : Nat)
  /-- HEAT_RUN_DONE (R266). -/
  | heatRunDone (loop slot : Nat)
  /-- HEAT_JUDGE_DONE (R263). -/
  | heatJudgeDone (loop slot : Nat)
  /-- HEAT_COMMIT (R267). -/
  | heatCommit (loop slot : Nat)
  /-- HEAT_TIMEOUT (R263). -/
  | heatTimeout (loop slot : Nat)
  /-- KV_SPILL (R262). -/
  | kvSpill (loop : Nat)
  /-- ACCOUNTING_ITEM (R269). -/
  | accountingItem
  /-- ACCOUNTING_PERIOD (R269). -/
  | accountingPeriod
  /-- JUDGE_JOB_ACCEPT (R277). -/
  | judgeJobAccept
  /-- JUDGE_REQUEST (R295). -/
  | judgeRequest
  /-- POOL_ENABLE (R309). -/
  | poolEnable (data : W64)
  /-- POOL_DISABLE (R309). -/
  | poolDisable (data : W64)
  /-- COPY_PIECE_LAUNCH (R307). -/
  | copyPieceLaunch
  /-- MAP_REGISTER (R317). -/
  | mapRegister (map : MemRead)
  /-- UNREGISTER (R332). -/
  | unregister
  /-- RESTORE_BEGIN (R328). -/
  | restoreBegin (cluster : Nat)
  /-- STROKE_ENABLE (R346). -/
  | strokeEnable (data : W64)
  /-- STROKE_DISABLE (R346). -/
  | strokeDisable (data : W64)
  /-- STROKE_PERIOD (R336). -/
  | strokePeriod
  /-- TELEMETRY_SAMPLE (R337). -/
  | telemetrySample (ch : BitVec 4) (val : BitVec 16)
  /-- ALERT_BEGIN (R343). -/
  | alertBegin (thermal : Bool)
  /-- ALERT_END (R343). -/
  | alertEnd (thermal : Bool)
  /-- STUCK_ALERT (R343). -/
  | stuckAlert (thermal : Bool)
  /-- ALERT_UNSTUCK (R343). -/
  | alertUnstuck (thermal : Bool)
  /-- TELEMETRY_STALE (R345). -/
  | telemetryStale (ch : BitVec 4)
  /-- TS_PULSE (R354). -/
  | tsPulse
  /-- STUCK_INPUT (R355). -/
  | stuckInput (line : BitVec 2)
  /-- INPUT_UNSTUCK (R355). -/
  | inputUnstuck (line : BitVec 2)
  /-- STREAM_ENABLE (R366). -/
  | streamEnable (data : W64)
  /-- STREAM_CONSUMED (R363). -/
  | streamConsumed (consumed : W64)
  /-- TRACE_FLUSH (R362). -/
  | traceFlush (stream : Nat)
  /-- STATUS_LINE_PUBLISH (R362). -/
  | statusLinePublish (stream : Nat)
  /-- TIME_RECORD (R357). -/
  | timeRecord (stream : Nat)
  /-- SAMPLE_INTERVAL (R368). -/
  | sampleInterval
  /-- PUB_ENABLE (R373). -/
  | pubEnable (data : W64)
  /-- FREEZE_START (R372). -/
  | freezeStart (data : W64)
  /-- FREEZE_END (R372). -/
  | freezeEnd (data : W64)
  /-- TRIG_IN (R372). -/
  | trigIn (line : Bool)
  /-- TRIG1_CLEAR (R371). -/
  | trig1Clear (data : W64)
  /-- LOG_FREE (R381). -/
  | logFree (bits : BitVec 16)
  /-- LOG_STATUS_READ (R381). -/
  | logStatusRead
  /-- ENGINE_WATCHDOG (R382). -/
  | engineWatchdog (cluster engine : Nat)
  /-- UNIT_WATCHDOG (R383). -/
  | unitWatchdog (island : Nat)
  /-- FIRMWARE_HEARTBEAT (R384). -/
  | firmwareHeartbeat
  /-- FIRMWARE_WATCHDOG (R384). -/
  | firmwareWatchdog
  /-- RESPONSE_WATCHDOG (R385). -/
  | responseWatchdog (port cluster tag : Nat)
  /-- DRIVER_RESET (R391). -/
  | driverReset
  /-- QUIESCE_DONE (R391). -/
  | quiesceDone
  /-- ROWLOCK_REPORT_TIMEOUT (R392). -/
  | rowlockReportTimeout (cluster : Nat)
  /-- CAPTURE_DONE (R391). -/
  | captureDone
  /-- CLUSTER_RESET_DONE (R48). -/
  | clusterResetDone (cluster : Nat) (image : MemRead)
  /-- CLUSTER_RESET_LATE (R48). -/
  | clusterResetLate (cluster : Nat)
  /-- CLEAR_DONE (R391). -/
  | clearDone
  /-- RECOVER_DONE (R403). -/
  | recoverDone
  /-- DUMP_REQUEST (R389). -/
  | dumpRequest
  /-- REFETCH_START (R406). -/
  | refetchStart (index : Nat)
  /-- LOAD (R417). -/
  | load (image : MemRead)
  /-- STAGE (R423). -/
  | stage (image : MemRead)
  /-- SWAP (R423). -/
  | swap
  /-- RIG_CANCEL (R423). -/
  | rigCancel
  /-- SWAP_OLD_DRAINED (R423). -/
  | swapOldDrained
  /-- SWAP_RETIRED (R423). -/
  | swapRetired
  /-- APPLY_QUIESCED (R428). -/
  | applyQuiesced (image : MemRead)
  /-- LOCK (R429). -/
  | lock (data : W64)
  /-- SEAT_ENABLE (R419). -/
  | seatEnable (data : W64)
  /-- TIME_LOCK (R352). -/
  | timeLock
  /-- FREEZE_INSTANT (R372). -/
  | freezeInstant
deriving DecidableEq, Repr

end Sys2Proof
end

