-- ==== Sys2Proof/Decode.lean ====
section
/-! DEFINITION. Reading a command from a word: no row of the opcode table gives bits. -/
namespace Sys2Proof

/-- The command that a word spells by the table's bits. The table gives no row any field, so no word spells a command. -/
def decodeTableWord (_nbits _w : Nat) : Option Instr := none

end Sys2Proof
end

