-- ==== Sys2Proof/Config.lean ====
section
/-! DEFINITION. The build parameters of the delivery (R49) and the free values: what the spec leaves open. -/
namespace Sys2Proof

/-- The build parameters of R49, with the approved firmware digests that the delivery holds as a build constant (R417).
A field of State holds one, and no command changes it: a statement over all states is about every build. -/
structure Build where
  clusters : Nat
  engines : Nat
  coxCores : Nat
  seats : Nat
  rings : Nat
  crews : Nat
  trees : Nat
  relays : Nat
  watchLog2 : Nat
  objectLog2 : Nat
  kvPools : Nat
  partitions : Nat
  memStacks : Nat
  hasHeat : Bool
  hasJudge : Bool
  hasStroke : Bool
  hasErg : Bool
  hasWake : Bool
  hasBoathouse : Bool
  hasCrossing : Bool
  hasJtag : Bool
  heatLoops : Nat
  heatLiveLog2 : Nat
  heatBatchLog2 : Nat
  judgeLanes : Nat
  approved : List (List Byte)
deriving DecidableEq, Repr

/-- The digest that stands for an approved Foantong release in `Build.largest`: that of 64 bytes of zeros. DESIGN CHOICE
(assumption 31): the delivery's digests are a build constant that the spec does not give. -/
def Build.standInDigest : List Byte := [
  0xf5, 0xa5, 0xfd, 0x42, 0xd1, 0x6a, 0x20, 0x30, 0x27, 0x98, 0xef, 0x6e, 0xd3, 0x09, 0x97, 0x9b,
  0x43, 0x00, 0x3d, 0x23, 0x20, 0xd9, 0xf0, 0xe8, 0xea, 0x98, 0x31, 0xa9, 0x27, 0x59, 0xfb, 0x4b]

/-- The largest build of R49. -/
def Build.largest : Build where
  clusters := 512
  engines := 8
  coxCores := 16
  seats := 64
  rings := 4096
  crews := 64
  trees := 4
  relays := 32
  watchLog2 := 16
  objectLog2 := 20
  kvPools := 16
  partitions := 16
  memStacks := 16
  hasHeat := true
  hasJudge := true
  hasStroke := true
  hasErg := true
  hasWake := true
  hasBoathouse := true
  hasCrossing := true
  hasJtag := true
  heatLoops := 16
  heatLiveLog2 := 16
  heatBatchLog2 := 12
  judgeLanes := 128
  approved := [Build.standInDigest]

/-- The smallest build of R49. -/
def Build.smallest : Build where
  clusters := 1
  engines := 8
  coxCores := 1
  seats := 4
  rings := 256
  crews := 1
  trees := 1
  relays := 0
  watchLog2 := 10
  objectLog2 := 16
  kvPools := 1
  partitions := 1
  memStacks := 1
  hasHeat := false
  hasJudge := false
  hasStroke := false
  hasErg := false
  hasWake := false
  hasBoathouse := false
  hasCrossing := false
  hasJtag := false
  heatLoops := 0
  heatLiveLog2 := 0
  heatBatchLog2 := 0
  judgeLanes := 0
  approved := [Build.standInDigest]

/-- The ranges of R49 and the rules of R2 and R50 that Vavas enforces on a build. -/
def Build.legal (b : Build) : Bool :=
  (1 ≤ b.clusters && b.clusters ≤ 512) && (1 ≤ b.engines && b.engines ≤ 8) &&
  (1 ≤ b.coxCores && b.coxCores ≤ 16) && (4 ≤ b.seats && b.seats ≤ 64 && b.seats % 4 == 0) &&
  (256 ≤ b.rings && b.rings ≤ 4096 && b.rings % 256 == 0) && (1 ≤ b.crews && b.crews ≤ 64) &&
  (b.trees == 1 || b.trees == 2 || b.trees == 4) && b.relays ≤ 32 &&
  (10 ≤ b.watchLog2 && b.watchLog2 ≤ 16) && (16 ≤ b.objectLog2 && b.objectLog2 ≤ 20) &&
  (1 ≤ b.kvPools && b.kvPools ≤ 16) && (1 ≤ b.partitions && b.partitions ≤ 16) &&
  (1 ≤ b.memStacks && b.memStacks ≤ 16) && b.coxCores ≤ b.seats &&
  (!b.hasHeat || (b.hasJudge && b.hasBoathouse && 1 ≤ b.heatLoops && b.heatLoops ≤ 16 &&
    10 ≤ b.heatLiveLog2 && b.heatLiveLog2 ≤ 16 && 6 ≤ b.heatBatchLog2 && b.heatBatchLog2 ≤ 12)) &&
  (b.hasHeat || (b.heatLoops == 0 && b.heatLiveLog2 == 0 && b.heatBatchLog2 == 0)) &&
  (!b.hasJudge || b.judgeLanes == 32 || b.judgeLanes == 64 || b.judgeLanes == 128) &&
  (b.hasJudge || b.judgeLanes == 0) && b.approved.length ≤ 4

namespace Config

/-- FREE VALUE. A number the spec leaves open: the site that asks (a number per use, listed in the assumption log) and the
reading of State's counter of free values. Nothing constrains it. -/
opaque freeNat : Nat → Nat → Nat

/-- FREE VALUE. What memory answers to the reads of an operation that a REGISTER_WRITE starts: that command has no operand for
them (the row of the operation itself has one). The register's address and the reading of State's counter. -/
opaque freeRead : Nat → Nat → MemRead

/-- FREE VALUE. The exponential of R287 and R293, which R299 bounds but does not fix, as a function of the FP32 operand. -/
opaque judgeExp : W32 → W32

/-- FREE VALUE. The error a sum of R287, R288, R291 or R293 may carry (R299): the reading of State's counter and the
sum's site give a number that the use clamps to the bound of R299. -/
opaque judgeSumError : Nat → Nat → Int

/-- FREE VALUE. The numbers in hang events that R387 leaves open (assumption 38): of the machines 0 to 3 of STATE (seat, engine,
heat slot, waiter); of the inputs of REFUSE and ACCEPT, a root's (8), a cluster's arrivals (9) and a Rowlock's tree `t` (16 + t);
the index (32) and the entry (33) of a fill command. -/
opaque hangNumber : Nat → Nat

end Config
end Sys2Proof
end

