-- ==== Sys2Proof/Machine/Tab.lean ====
section
/-! DEFINITION. Sparse tables: the carrier of every array of the block (slots, rings, seats, clusters, registers). -/
namespace Sys2Proof.Machine

/-- A table over natural numbers as plain data: every index reads `dflt` until a cell lists another value.
`cells` is kept with strictly rising indexes. -/
structure Tab (α : Type) where
  dflt : α
  cells : List (Nat × α)
deriving DecidableEq, Repr

/-- The table in which every index reads `a`. -/
def Tab.const {α : Type} (a : α) : Tab α := ⟨a, []⟩

/-- The value listed for index `i`, or `d`. -/
def lookupCell {α : Type} (d : α) (i : Nat) : List (Nat × α) → α
  | [] => d
  | (j, b) :: rest => if i = j then b else lookupCell d i rest

/-- The cells with index `i` listed as `a`, kept in rising order. -/
def setCell {α : Type} (i : Nat) (a : α) : List (Nat × α) → List (Nat × α)
  | [] => [(i, a)]
  | (j, b) :: rest =>
    if i < j then (i, a) :: (j, b) :: rest
    else if i = j then (i, a) :: rest
    else (j, b) :: setCell i a rest

/-- Read index `i`. -/
def Tab.get {α : Type} (t : Tab α) (i : Nat) : α := lookupCell t.dflt i t.cells
/-- Write index `i`. -/
def Tab.set {α : Type} (t : Tab α) (i : Nat) (a : α) : Tab α := { t with cells := setCell i a t.cells }
/-- Change index `i` by `f`. -/
def Tab.upd {α : Type} (t : Tab α) (i : Nat) (f : α → α) : Tab α := t.set i (f (t.get i))

end Sys2Proof.Machine
end

