-- ==== Sys2Proof/Machine/Bits.lean ====
section
/-! DEFINITION. Bit fields, byte order and list helpers that every unit uses. -/
namespace Sys2Proof.Machine

/-- The `len` bits of `n` from bit `lo` up. -/
def nbits (n lo len : Nat) : Nat := (n >>> lo) % 2 ^ len
/-- The field [lo+len-1 : lo] of a word. -/
def fld (w : W64) (lo len : Nat) : Nat := nbits w.toNat lo len
/-- Bit `i` of a word. -/
def bit (w : W64) (i : Nat) : Bool := w.getLsbD i
/-- A number placed at bit `lo`, cut to `len` bits. -/
def put (n lo len : Nat) : Nat := (n % 2 ^ len) <<< lo
/-- A truth value placed at bit `i`. -/
def putb (b : Bool) (i : Nat) : Nat := if b then 2 ^ i else 0
/-- A 64-bit word of a number. -/
def w64 (n : Nat) : W64 := BitVec.ofNat 64 n
/-- A 32-bit word of a number. -/
def w32 (n : Nat) : W32 := BitVec.ofNat 32 n
/-- A 16-bit id of a number. -/
def w16 (n : Nat) : BitVec 16 := BitVec.ofNat 16 n
/-- Word with field [lo+len-1 : lo] replaced. -/
def setFld (w : W64) (lo len n : Nat) : W64 :=
  let m := (w64 (2 ^ len - 1)) <<< lo
  (w &&& ~~~m) ||| (((w64 n) <<< lo) &&& m)
/-- Saturating addition at `2^k - 1`. -/
def satAdd (k a b : Nat) : Nat := min (2 ^ k - 1) (a + b)

/-- The little-endian bytes of a number. -/
def leBytes (n : Nat) : Nat → List Byte
  | 0 => []
  | k + 1 => BitVec.ofNat 8 n :: leBytes (n >>> 8) k
/-- The number little-endian bytes spell. -/
def ofLe : List Byte → Nat
  | [] => 0
  | b :: r => b.toNat + 256 * ofLe r
/-- The bytes of words, lowest address first (R13). -/
def wordsToBytes : List W64 → List Byte
  | [] => []
  | w :: r => leBytes w.toNat 8 ++ wordsToBytes r
/-- The little-endian words of bytes, `k` of them; missing bytes read zero. -/
def bytesToWords (b : List Byte) : Nat → List W64
  | 0 => []
  | k + 1 => w64 (ofLe (b.take 8)) :: bytesToWords (b.drop 8) k
/-- The number in the `len` bytes at offset `off`. -/
def leAt (b : List Byte) (off len : Nat) : Nat := ofLe ((b.drop off).take len)
/-- Word `i` of a list, zero past its end. -/
def wordAt (l : List W64) (i : Nat) : W64 := l.getD i 0

/-- Stable sort by `lt`. -/
def sortBy {α : Type} (lt : α → α → Bool) : List α → List α
  | [] => []
  | a :: r => insertByFront lt a (sortBy lt r)
where
  insertByFront (lt : α → α → Bool) (a : α) : List α → List α
    | [] => [a]
    | b :: r => if lt b a then b :: insertByFront lt a r else a :: b :: r
/-- The best element of a list: the first that no other beats. -/
def best {α : Type} (lt : α → α → Bool) (l : List α) : Option α := (sortBy lt l).head?

/-- The elements that fail `p`, with the first that meets it taken out. -/
def takeOut {α : Type} (p : α → Bool) : List α → Option (α × List α)
  | [] => none
  | a :: r => if p a then some (a, r) else
    match takeOut p r with
    | none => none
    | some (b, r') => some (b, a :: r')
/-- Change the first element that meets `p`. -/
def mapFirst {α : Type} (p : α → Bool) (f : α → α) : List α → List α
  | [] => []
  | a :: r => if p a then f a :: r else a :: mapFirst p f r
/-- The least number from `n` on that is not in the list (`fuel` tries). -/
def leastFree (l : List Nat) : Nat → Nat → Nat
  | 0, n => n
  | fuel + 1, n => if l.contains n then leastFree l fuel (n + 1) else n
/-- Do `f` for each element, threading a state. -/
def each {α σ : Type} (l : List α) (f : σ → α → σ) (s : σ) : σ := l.foldl f s

/-- One step of the check code of R87: eight reflected shifts. -/
def crc16Byte (crc : Nat) : Nat → Nat
  | 0 => crc
  | k + 1 => crc16Byte (if crc % 2 = 1 then (crc >>> 1) ^^^ 0x8408 else crc >>> 1) k
/-- The CRC of R87 over a list of bytes, before inversion. -/
def crc16Run (crc : Nat) : List Byte → Nat
  | [] => crc
  | b :: r => crc16Run (crc16Byte (crc ^^^ b.toNat) 8) r
/-- CRC-16/X.25 (R87). -/
def crc16 (b : List Byte) : Nat := crc16Run 0xFFFF b ^^^ 0xFFFF

/-- Island numbers (R432). -/
def islRow (c : Nat) : Nat := c
def islLnd : Nat := 512
def islMar : Nat := 513
def islCox (core : Nat) : Nat := 514 + core / 2
def islStb : Nat := 522
def islSld : Nat := 523
def islRck : Nat := 524
def islRig : Nat := 525
def islTkp : Nat := 526
def islUmp : Nat := 527
def islLft (t : Nat) : Nat := 528 + t
def islHea : Nat := 532
def islJds : Nat := 533
def islJdl : Nat := 534
def islStk : Nat := 535
def islErg : Nat := 536
def islWak : Nat := 537
def islBhs : Nat := 538
def islXng : Nat := 539
def islNone : Nat := 1023

/-- The keel islands LND, MAR, TKP, UMP and BHS, whose requests survive a compute reset (R39, R46). -/
def isKeel (isl : Nat) : Bool :=
  isl == 512 || isl == 513 || isl == 526 || isl == 527 || isl == 538

/-- 1 µs in tu (a tu is 250 ps). -/
def usTu : Nat := 4000
/-- 1 ms in tu. -/
def msTu : Nat := 4000000

end Sys2Proof.Machine
end

