-- ==== Sys2Proof/Machine/Operands.lean ====
section
/-! DEFINITION. The control word (R118), which of its fields each opcode uses (R119, R120), and its operand values. -/
namespace Sys2Proof.Machine

/-- The fields of a control word (R118). -/
structure CWord where
  op : Nat
  rd : Nat
  ra : Nat
  rb : Nat
  sub : Nat
  ia : Bool
  iv : Bool
  xctx : Bool
  soft : Bool
  opf : Nat
  ctx : CtxId
  imm : Nat
  w1 : W64
  w2 : W64
  w3 : W64
deriving DecidableEq, Repr

/-- Read a control word from its four words (R118). -/
def cword (l : List W64) : CWord :=
  let w0 := wordAt l 0
  { op := fld w0 0 8, rd := fld w0 8 4, ra := fld w0 12 4, rb := fld w0 16 4, sub := fld w0 20 4,
    ia := bit w0 24, iv := bit w0 25, xctx := bit w0 26, soft := bit w0 27, opf := fld w0 28 4,
    ctx := w16 (fld w0 32 16), imm := fld w0 48 16, w1 := wordAt l 1, w2 := wordAt l 2, w3 := wordAt l 3 }

/-- What an opcode uses (R120): register fields, how many sub values, which flags, the bits of opf and imm16, and how many
low bits of each operand word. -/
structure OpUse where
  rd : Bool := false
  ra : Bool := false
  rb : Bool := false
  subs : Nat := 1
  ia : Bool := false
  xctx : Bool := false
  soft : Bool := false
  opf : Nat := 1
  imm : Nat := 1
  w1 : Nat := 0
  w2 : Nat := 0
  w3 : Nat := 0

/-- The rows of R120. `rb` stands for iv and rb, `ia` for ia with ra; `opf` and `imm` are the first value not allowed.
`none`: a reserved opcode. -/
def opUse : Nat → Option OpUse
  | 0x00 => some {}
  | 0x01 => some {}
  | 0x02 => some { ia := true, ra := true, w1 := 24 }
  | 0x03 => some { subs := 8, ra := true, rb := true, w1 := 24, w2 := 64 }
  | 0x04 => some { rd := true, w1 := 24 }
  | 0x05 => some { rb := true, w1 := 48, w2 := 64 }
  | 0x06 => some {}
  | 0x10 => some { subs := 4, rd := true, rb := true, w2 := 64 }
  | 0x11 => some { subs := 8, rd := true, ra := true, rb := true, w2 := 64 }
  | 0x12 => some { subs := 4, rd := true, ia := true, ra := true, xctx := true, w1 := 56 }
  | 0x13 => some { subs := 4, ia := true, ra := true, rb := true, xctx := true, w1 := 56, w2 := 64 }
  | 0x14 => some { subs := 6, rd := true, ia := true, ra := true, rb := true, xctx := true, opf := 2, w1 := 56, w2 := 64, w3 := 64 }
  | 0x20 => some { rd := true, ia := true, ra := true, rb := true, xctx := true, soft := true, imm := 65536, w1 := 56, w2 := 64 }
  | 0x21 => some { ia := true, ra := true, rb := true, xctx := true, w1 := 56, w2 := 64 }
  | 0x22 => some { ia := true, ra := true, rb := true, xctx := true, imm := 65536, w1 := 56, w2 := 64 }
  | 0x23 => some { opf := 2, rb := true, w2 := 64 }
  | 0x30 => some { ia := true, ra := true, rb := true, xctx := true, opf := 4, w1 := 56, w2 := 64 }
  | 0x31 => some { ia := true, ra := true, rb := true, xctx := true, opf := 4, w1 := 56, w2 := 64, w3 := 32 }
  | 0x32 => some { rb := true, imm := 65536, w2 := 64 }
  | 0x40 => some { ia := true, ra := true, rb := true, xctx := true, opf := 4, w1 := 56, w2 := 64 }
  | 0x41 => some { ia := true, ra := true, rb := true, xctx := true, opf := 4, w1 := 56, w2 := 64 }
  | 0x50 => some { rd := true, ra := true, rb := true, soft := true, w2 := 64, w3 := 1 }
  | 0x51 => some { rb := true, opf := 2, w2 := 32 }
  | 0x52 => some { rb := true, imm := 65536, w2 := 32 }
  | 0x53 => some { rb := true, imm := 65536, opf := 2, w2 := 32 }
  | 0x60 => some { ia := true, ra := true, rb := true, soft := true, imm := 16, w1 := 56, w2 := 64 }
  | 0x61 => some { ia := true, ra := true, rb := true, imm := 16, w1 := 56, w2 := 64 }
  | 0x70 => some { ia := true, ra := true, rb := true, opf := 4, w1 := 56, w2 := 64, w3 := 56 }
  | 0x80 => some { ia := true, ra := true, rb := true, xctx := true, soft := true, w1 := 56, w2 := 64 }
  | 0x90 => some { opf := 4, w1 := 48, w2 := 64 }
  | 0xA0 => some {}
  | _ => none

/-- R119's rule on one word: every field its opcode does not list is zero, and its sub value is not reserved. -/
def usesOk (u : OpUse) (w : CWord) : Bool :=
  (u.rd || w.rd == 0) && (u.ra || w.ra == 0) && (u.rb || (w.rb == 0 && !w.iv)) && w.sub < u.subs &&
  (u.ia || !w.ia) && (u.xctx || !w.xctx) && (w.xctx || w.ctx == 0) && (u.soft || !w.soft) && w.opf < u.opf &&
  w.imm < u.imm && w.w1.toNat < 2 ^ u.w1 && w.w2.toNat < 2 ^ u.w2 && w.w3.toNat < 2 ^ u.w3

/-- A word meets R119, its unit being built: JUDGE needs Judge; KVGROW, KVTRIM and HEATEND need Heat; SIGNALX needs the
crossing port. -/
def wordLegal (b : Build) (w : CWord) : Bool :=
  match opUse w.op with
  | none => false
  | some u =>
    usesOk u w &&
    (match w.op with
     | 0x70 => b.hasJudge
     | 0x60 => b.hasHeat
     | 0x61 => b.hasHeat
     | 0xA0 => b.hasHeat
     | 0x22 => b.hasCrossing
     | _ => true)

/-- The address operand A (R118): modulo 2^56. -/
def operandA (c : Tab W64) (w : CWord) : Nat :=
  (fld w.w1 0 56 + (if w.ia then fld (c.get w.ra) 0 56 else 0)) % 2 ^ 56
/-- The value operand V (R118): modulo 2^64. -/
def operandV (c : Tab W64) (w : CWord) : W64 := w.w2 + (if w.iv then c.get w.rb else 0)

/-- The registers a word reads. -/
def readsRegs (w : CWord) : List Nat :=
  (if w.ia then [w.ra] else []) ++ (if w.iv then [w.rb] else []) ++
  (match w.op with
   | 0x03 => if w.sub < 4 then [w.ra] else []
   | 0x04 => [w.rd]
   | 0x05 => [12, 13, 14, 15]
   | 0x11 => [w.ra]
   | 0x14 => if w.opf % 2 == 1 then [w.rd] else []
   | 0xA0 => [12]
   | _ => [])
/-- The registers a word writes. -/
def writesRegs (w : CWord) : List Nat :=
  match w.op with
  | 0x04 => [w.rd]
  | 0x05 => [13, 14, 15]
  | 0x06 => [12, 13, 14, 15]
  | 0x10 => [w.rd]
  | 0x11 => [w.rd]
  | 0x12 => [w.rd]
  | 0x14 => [w.rd]
  | 0x20 => [w.rd]
  | 0x50 => [w.rd, w.ra]
  | _ => []
/-- The word reads flag z. -/
def readsZ (w : CWord) : Bool :=
  (w.op == 0x03 && (w.sub == 4 || w.sub == 5)) || (w.op == 0x10 && w.sub == 2)

/-- The size in bytes that LOADC and STOREC move (R126). -/
def memSize (sub : Nat) : Nat := 8 / 2 ^ sub

end Sys2Proof.Machine
end

