-- ==== Sys2Proof/Machine/Flags.lean ====
section
/-! DEFINITION. The arithmetic of ADDC, the conditions of BRANCH, and the flags each opcode sets (R121, R122, R125). -/
namespace Sys2Proof.Machine

/-- The result of ADDC (R121), modulo 2^64. -/
def addcResult (sub : Nat) (a v : W64) : W64 :=
  match sub with
  | 0 => a + v
  | 1 => a - v
  | 2 => a &&& v
  | 3 => a ||| v
  | 4 => a ^^^ v
  | 5 => a <<< (v.toNat % 64)
  | 6 => a >>> (v.toNat % 64)
  | _ => a * v

/-- The condition of BRANCH (R125). -/
def branchTaken (sub : Nat) (a v : W64) (z f : Bool) : Bool :=
  match sub with
  | 0 => a == v
  | 1 => a != v
  | 2 => a.toNat < v.toNat
  | 3 => v.toNat ≤ a.toNat
  | 4 => z
  | 5 => !z
  | 6 => f
  | _ => !f

/-- Flag z after ADDC and LOADC: the result is 0 (R122). -/
def zOf (v : W64) : Bool := v == 0
/-- Flag z after ATOMC: a CAS succeeded, or the old value is 0 (R122). -/
def zAtomc (cas : Option W64) (old : W64) : Bool :=
  match cas with
  | some cmp => old == cmp
  | none => old == 0
/-- SETC FLAGS (R121). -/
def flagsWord (z f : Bool) : W64 := w64 (putb z 0 + putb f 1)

end Sys2Proof.Machine
end

