-- ==== Sys2Proof/Machine/PartMarshal.lean ====
section
/-! DEFINITION. State of Landing, Marshal, Rack's object and course tables, and the Cox cores: contexts, objects, rings,
seats, entries in their completion windows, and running programs. -/
namespace Sys2Proof.Machine

/-- Context slot states (R55, R57). -/
inductive CtxSt where
  | free | live | stopped | failed | draining
deriving DecidableEq, Repr

/-- One context-table slot (R54, R55, R57) with its MAR_CTX_DESC register. -/
structure Slot where
  desc : W64
  st : CtxSt
  ctxId : CtxId
  tenant : BitVec 16
  weight : BitVec 16
  partition : Nat
  priority : Nat
  privileged : Bool
  cmdErr : Bool
  errClass : BitVec 7
  errCode : BitVec 16
  ringsBound : Nat
deriving DecidableEq, Repr

/-- A slot at reset (R55). -/
def Slot.reset : Slot :=
  ⟨0, .free, 0, 0, 0, 0, 0, false, false, 0, 0, 0⟩

/-- Object-table entry states (R62). -/
inductive ObjSt where
  | free | live | freeing | forced
deriving DecidableEq, Repr

/-- One object-table entry (R62), with whether the owner reference is still held (R63, R67, R68) and the heap block an
ALLOC took for it (partition, stack, address, size), which reclaiming returns to the allocator (R65). -/
structure Obj where
  base : Nat
  size : Nat
  owner : CtxId
  refs : Nat
  gen : Nat
  st : ObjSt
  poisoned : Bool
  shared : Bool
  golden : Bool
  partition : Nat
  spilled : Bool
  goldenAddr : W64
  ownerRef : Bool
  block : Option (Nat × Nat × Nat × Nat)
deriving DecidableEq, Repr

/-- An entry that has never been used (R60, R62). -/
def Obj.reset : Obj :=
  ⟨0, 0, 0, 0, 0, .free, false, false, false, 0, false, 0, false, none⟩

/-- A course descriptor's content (R154), held by the descriptor's object index; only Rack writes it. -/
structure Course where
  isCourse : Bool
  retired : Bool
  body : W32
  version : Nat
  bodyWords : Nat
  paramLayout : Nat
deriving DecidableEq, Repr

/-- No course. -/
def Course.reset : Course := ⟨false, false, 0, 0, 0, 0⟩

/-- Who an entry, a program or a launch belongs to: a ring entry by ring and count, or a heat by loop and heat slot. -/
inductive Owner where
  | entry (ring : Nat) (count : Count)
  | heat (loop slot : Nat)
deriving DecidableEq, Repr

/-- A deferred drop (R142): the handle, how many references, and whether it is the owner reference (FREE). -/
structure Drop where
  handle : W32
  n : Nat
  isFree : Bool
deriving DecidableEq, Repr

/-- A pin of a course body by an entry (R160, R162, R396): the course, the version and the body it chose. -/
structure Pin where
  course : W32
  version : Nat
  body : W32
  words : Nat
  layout : Nat
deriving DecidableEq, Repr

/-- A fetched entry in the entry cache (R103): its eight words, the line of its program that holds word 0 (R123; `none`
while it is being read), and whether it is a MARKER that stands for a hole (R168). -/
structure Cached where
  count : Count
  words : List W64
  line : Option (RespErr × List W64)
  hole : Bool
deriving DecidableEq, Repr

/-- A raw read of an entry that has returned and waits for Marshal's check (R88), or waits to be read again (R89). -/
structure Raw where
  count : Count
  err : RespErr
  words : List W64
  second : Bool
  at_ : Nat
deriving DecidableEq, Repr

/-- The completion-fence step of an entry (R105 item 4). -/
inductive FenceStep where
  | notDue | inFlight | done
deriving DecidableEq, Repr

/-- An entry in its ring's completion window (R85, R103, R105), or a heat's program: what keeps it from being done. `line` is the
first line of its program as it was cached, for a replay (R396). `ringTimeout` is the ring's timeout when it began (R98). -/
structure Work where
  owner : Owner
  seat : Nat
  count : Count
  ctx : CtxId
  words : List W64
  marker : Bool
  hole : Bool
  began : Nat
  timer : Option Nat
  groups : List Nat
  reqs : Nat
  ended : Bool
  failed : Option (Nat × BitVec 16)
  fenceFor : Option (Nat × BitVec 16)
  fence : FenceStep
  fenceErr : Bool
  skipFence : Bool
  onlyHealthy : Bool
  drops : List Drop
  pins : List Pin
  unsafeCaught : Bool
  enqueued : Bool
  nonReplayable : Bool
  line : Option (RespErr × List W64)
  replayed : Nat
  cancelSent : Bool
  done : Bool
  epoch : Bool
  ringTimeout : Nat
deriving DecidableEq, Repr

/-- One write of a publication (R106), in the order Marshal issues them. A record carries the head and the err_count of its own
publication. -/
inductive PubStep where
  | clearOwn (count : Count) (byte0 : Byte)
  | record (head : Count) (errs : Nat)
  | irq
deriving DecidableEq, Repr

/-- Ring states (R97). -/
inductive RingSt where
  | unbound | idle | queued | seated | stopped
deriving DecidableEq, Repr

/-- What Marshal's reading of a ring is for: ordinary fetch, ABANDON (R114, with the entries still allowed and the
count it reads), or the draining of a FAILED context's ring (R115). -/
inductive RingMode where
  | normal
  | abandon (left : Nat)
  | failedCtx
  | dead
deriving DecidableEq, Repr

/-- A ring (R84, R85, R97, R101, R107, R109, R165): its registers, what BIND and UPDATE loaded, its counts and its life. `lookTo`
is the fetch count at the last doorbell that came while reads of entries were out: a read from before it that finds OWN at 0 is
older than that doorbell (R94). -/
structure Ring where
  regBase : W64
  regCmpl : W64
  regCfg : W64
  regStartSeq : W64
  regEnq : W64
  st : RingSt
  base : Nat
  cmpl : Nat
  ctx : CtxId
  log2 : Nat
  ringDev : Bool
  cmplDev : Bool
  priority : Nat
  timeout : Nat
  irqVector : Nat
  irqHoldoff : Nat
  cacheM1 : Nat
  startSeq : W64
  level : Nat
  quota : Nat
  tail : Count
  head : Count
  begun : Count
  fetch : Count
  held : Bool
  holdAt : Count
  invalRefused : Bool
  cmdErr : Bool
  pin : Option Nat
  seat : Option Nat
  reason : Nat
  errCode : BitVec 16
  latched : Count
  latchedWords : List W64
  latchPending : Bool
  errCount : Nat
  mode : RingMode
  cache : List Cached
  reads : List Count
  raws : List Raw
  sawFree : Bool
  lookTo : Option Count
  holes : List Count
  doneQueue : List PubStep
  pubBusy : Bool
  recHead : Count
  irqLast : Option Nat
  irqDue : Bool
  lastDoorbell : Option Nat
  knockRun : Option Nat
  storm : Bool
  lastLook : Nat
  queuedAt : Nat
  seatedAt : Nat
  idleSince : Nat
  draining : Bool
deriving DecidableEq, Repr

/-- A ring at reset (R93, R97, R165). -/
def Ring.reset : Ring where
  regBase := 0
  regCmpl := 0
  regCfg := 0
  regStartSeq := 0
  regEnq := 0
  st := .unbound
  base := 0
  cmpl := 0
  ctx := 0
  log2 := 0
  ringDev := false
  cmplDev := false
  priority := 0
  timeout := 0
  irqVector := 0
  irqHoldoff := 0
  cacheM1 := 0
  startSeq := 0
  level := 0
  quota := 0
  tail := 0
  head := 0
  begun := 0
  fetch := 0
  held := false
  holdAt := 0
  invalRefused := false
  cmdErr := false
  pin := none
  seat := none
  reason := 0
  errCode := 0
  latched := 0
  latchedWords := []
  latchPending := false
  errCount := 0
  mode := .normal
  cache := []
  reads := []
  raws := []
  sawFree := false
  lookTo := none
  holes := []
  doneQueue := []
  pubBusy := false
  recHead := 0
  irqLast := none
  irqDue := false
  lastDoorbell := none
  knockRun := none
  storm := false
  lastLook := 0
  queuedAt := 0
  seatedAt := 0
  idleSince := 0
  draining := false

/-- Seat states (R98, R116). -/
inductive SeatSt where
  | empty | idle | ready | run | wait | drain | stopped
deriving DecidableEq, Repr

/-- A call frame (R160 step 6). -/
structure Frame where
  retPc : Nat
  base : Nat
  len : Nat
  tag : Nat
  c12 : W64
  c13 : W64
  c14 : W64
  c15 : W64
deriving DecidableEq, Repr

/-- Why a seat is parked (R131, R152). -/
inductive Park where
  | none
  | waitf (rd : Nat) (soft : Bool) (addr : Nat)
  | barrier (mask : Nat) (mem : Bool)
  | waitt (target : Nat)
  | slice
deriving DecidableEq, Repr

/-- Why a core holds its word (R136, R137, R143, R146, R149). -/
inductive Stall where
  | none
  | fetch
  | order
  | tree
  | unit
deriving DecidableEq, Repr

/-- Where a word stands that has a request out: its pc, and the current tag when it issued (R144). -/
structure WordPos where
  pc : Nat
  tag : Nat
deriving DecidableEq, Repr

/-- A running program: the state that moves with the seat (R121, R131, R160). -/
structure Prog where
  owner : Owner
  ctx : CtxId
  base : Nat
  len : Nat
  pc : Nat
  regs : Tab W64
  z : Bool
  f : Bool
  frames : List Frame
  tag : Nat
  words : Nat
  sliceWords : Nat
  park : Park
  parkedAt : Nat
  issuedAt : Nat
  deadline : Option Nat
  released : Bool
  origin : Nat
  zown : Option (Nat × Nat)
deriving DecidableEq, Repr

/-- Where a program stands. -/
def Prog.pos (p : Prog) : WordPos := ⟨p.pc, p.tag⟩

/-- A seat (R98, R116): its state, the ring it holds (`none` for EMPTY and for Heat's seats), its program, and when it
became READY (R148). -/
structure Seat where
  st : SeatSt
  ring : Option Nat
  prog : Option Prog
  readyAt : Nat
deriving DecidableEq, Repr

/-- A seat at reset. -/
def Seat.reset : Seat := ⟨.empty, none, none, 0⟩

/-- Cox core states (R149). -/
inductive CoreSt where
  | idle | exec | stall
deriving DecidableEq, Repr

/-- A line of the core's buffer of control words (R123). -/
structure BufLine where
  ctx : CtxId
  line : Nat
  err : RespErr
  words : List W64
deriving DecidableEq, Repr

/-- A Cox core (R148, R149): the seat it runs is the front of `seats`; `buf` holds at most 128 lines (256 words); `since` is
when it last issued a word or went on with one (R383). -/
structure Core where
  st : CoreSt
  since : Nat
  stall : Stall
  seats : List Nat
  buf : List BufLine
deriving DecidableEq, Repr

/-- A core at reset. -/
def Core.reset : Core := ⟨.idle, 0, .none, [], []⟩

/-- Registers of Landing and Marshal that name no slot, ring or seat (R55, R97, R98, R170, R431). -/
structure Mar where
  ctxSel : W64
  ringSel : W64
  dbStray : Nat
  seatCfg : W64
  enqCfg : W64
  seatEnable : W64
  slots : Tab Slot
  rings : Tab Ring
  seats : Tab Seat
  works : List Work
  lastPolicy : Nat
  /-- entry and context failures whose CANCEL has not been sent yet (R202): owner, or a context id -/
  cancels : List (Option Owner × CtxId × Nat × Count)
deriving DecidableEq, Repr

/-- Marshal at reset: quantum_us 200, idle_us 50, heat_seats 0 (R98); enq_seats 4 (R170). -/
def Mar.reset : Mar where
  ctxSel := 0
  ringSel := 0
  dbStray := 0
  seatCfg := 0x3200C8#64
  enqCfg := 4
  seatEnable := 0
  slots := Tab.const Slot.reset
  rings := Tab.const Ring.reset
  seats := Tab.const Seat.reset
  works := []
  lastPolicy := 0
  cancels := []

/-- Cox (R152): COX_CFG, reset slice_words 4,096, and the cores. -/
structure Cox where
  cfg : W64
  cores : Tab Core
deriving DecidableEq, Repr

/-- Cox at reset. -/
def Cox.reset : Cox := ⟨4096, Tab.const Core.reset⟩

/-- Rack's object table, the course descriptors and the registers of R70 and R156. `dirty` lists the entries that Rack holds
changed and has not written back to the table in memory (R61). -/
structure Rack where
  objBase : W64
  arg0 : W64
  arg1 : W64
  arg2 : W64
  result : Nat
  handle : W32
  countRefs : W32
  countSt : ObjSt
  countPoisoned : Bool
  objs : Tab Obj
  dirty : List Nat
  courses : Tab Course
  crsArg : W64
  crsResult : Nat
  crsVersion : Nat
  crsBody : W32
  crsBad : Nat
deriving DecidableEq, Repr

/-- Rack's object part at reset. -/
def Rack.reset : Rack where
  objBase := 0
  arg0 := 0
  arg1 := 0
  arg2 := 0
  result := 0
  handle := 0
  countRefs := 0
  countSt := .free
  countPoisoned := false
  objs := Tab.const Obj.reset
  dirty := []
  courses := Tab.const Course.reset
  crsArg := 0
  crsResult := 0
  crsVersion := 0
  crsBody := 0
  crsBad := 0

end Sys2Proof.Machine
end

