-- ==== Sys2Proof/Machine/PartFabric.lean ====
section
/-! DEFINITION. State of the launch trees and of the Rowlocks: launch messages, pieces, engine channels, sync counters. -/
namespace Sys2Proof.Machine

/-- The five kinds of launch message (R180). -/
inductive MsgKind where
  | piece | crewPiece | cancel | hold | release
deriving DecidableEq, Repr

/-- A launch message (R180), field by field; `piece` is the byte address. `slide` is no field of the message: it names the
copy piece of Slide that the message launches, 0 for none. -/
structure LaunchMsg where
  kind : MsgKind
  epoch : Bool
  replay : Bool
  group : Nat
  workClass : Nat
  engine : Nat
  aligned : Bool
  count : Nat
  origin : Nat
  ctx : CtxId
  target : Nat
  seat : Nat
  piece : Nat
  priority : Nat
  scope : Nat
  byCtx : Bool
  holdId : Nat
  entry : Count
  stride : Nat
  tag : Nat
  start : Nat
  slide : Nat
deriving DecidableEq, Repr

/-- A message that has entered a tree, with the clusters it has still to reach (R177, R179). -/
structure Flight where
  msg : LaunchMsg
  todo : List Nat
deriving DecidableEq, Repr

/-- One launch tree (R176, R179, R209): what it carries, oldest first, what Slide and Marshal have for it that its root has not
accepted, how long its root has refused, in tu, and whether it refused in the last cycle. -/
structure Tree where
  flights : List Flight
  wait : List LaunchMsg
  refusedTu : Nat
  stallSince : Option Nat
  refusing : Bool
deriving DecidableEq, Repr

/-- A tree at reset. -/
def Tree.reset : Tree := ⟨[], [], 0, none, false⟩

/-- What the Rowlock holds for one command of a piece: the eight words of a fetched command, or the error of the chunk
that should have brought it (R187). -/
inductive Fetched where
  | cmd (words : List W64)
  | bad (cls : Nat) (code : BitVec 16)
deriving DecidableEq, Repr

/-- A piece in a launch slot (R185, R186, R191, R193): `first` is the next command to be presented, `fetched` the commands
from there on, `asked` how many commands its chunk requests have asked for. `startAt` is the instant of an aligned crew's start
(R184), and `readySince` since when its first command has waited for that start and its stagger alone. `offset` is its stagger
(R339), which runs from the start, or from the receipt, `recvAt`; `pacedSince` is since when Stroke holds back its next command
(R338). -/
structure Piece where
  id : Nat
  msg : LaunchMsg
  addr : Nat
  active : Bool
  activeAt : Nat
  gaveUp : Bool
  waitSince : Option Nat
  due : Option Nat
  asked : Nat
  first : Nat
  fetched : List (Nat × Fetched)
  caught : Nat
  finished : Nat
  cut : Bool
  err : Option (Nat × BitVec 16)
  unsafeCaught : Bool
  lastCatch : Option Nat
  chainRun : Nat
  started : Bool
  recvAt : Nat
  startAt : Option Nat
  readySince : Option Nat
  offset : Nat
  pacedSince : Option Nat
  dueSince : Option Nat
deriving DecidableEq, Repr

/-- A command presented to an engine or running on it. -/
structure RunCmd where
  piece : Nat
  words : List W64
  index : Nat
  msg : LaunchMsg
  paced : Nat
  fill : Bool
  since : Nat
deriving DecidableEq, Repr

/-- Engine-channel states (R205). -/
inductive EngSt where
  | idle | present | run | runPresent | preempt | unpreempt | reset
deriving DecidableEq, Repr

/-- One engine channel of a Rowlock (R185, R192, R205): its slots in arrival order, the chain, the presented and the
running command, the error the engine has reported for its current command, and the pre-emption lines (R32). -/
structure Engine where
  st : EngSt
  pieces : List Piece
  chain : Option Nat
  presented : Option RunCmd
  running : Option RunCmd
  errSeen : Option (Nat × BitVec 16)
  preReq : Bool
  preAck : Bool
  preSince : Nat
  idleSince : Nat
  yields : List Nat
deriving DecidableEq, Repr

/-- An engine channel at reset (R208). -/
def Engine.reset : Engine := ⟨.idle, [], none, none, none, none, false, false, 0, 0, []⟩

/-- An outstanding chunk request on the piece port (R186): the context it is read in, the index of its first command and of the
next beat. -/
structure ChunkReq where
  tag : Nat
  engine : Nat
  piece : Nat
  ctx : CtxId
  first : Nat
  got : Nat
  len : Nat
  failed : Bool
  addr : Nat
  at_ : Nat
  late : Bool
deriving DecidableEq, Repr

/-- A hold in force on a cluster (R204). -/
structure HoldSlot where
  ctx : CtxId
  complete : Bool
deriving DecidableEq, Repr

/-- A report a Rowlock has sent to Marshal on the return fabric and Marshal has not yet taken (R199). -/
structure Report where
  seat : Nat
  entry : Count
  group : Nat
  origin : Nat
  err : Option (Nat × BitVec 16)
  unsafeCaught : Bool
  slide : Nat
deriving DecidableEq, Repr

/-- The Rowlock of one cluster (R185 to R209, R222, R227, R228). `refusing` are the trees whose input it refused in the last cycle. -/
structure Rowlock where
  engines : Tab Engine
  resident : Option CtxId
  holds : List (Nat × HoldSlot)
  dropped : Nat
  alignLate : Nat
  nextPiece : Nat
  nextDue : Nat
  chunks : List ChunkReq
  reports : List Report
  sync : Tab Nat
  parked : List (CtxId × Nat × Nat)
  arrHeld : Option Nat
  arrWait : List (CtxId × Nat × Nat)
  rstReq : Bool
  rstDone : Bool
  rstAt : Nat
  refusing : List Nat
deriving DecidableEq, Repr

/-- A Rowlock at reset (R208, R222, R232). -/
def Rowlock.reset : Rowlock where
  engines := Tab.const Engine.reset
  resident := none
  holds := []
  dropped := 0
  alignLate := 0
  nextPiece := 0
  nextDue := 0
  chunks := []
  reports := []
  sync := Tab.const 0
  parked := []
  arrHeld := none
  arrWait := []
  rstReq := false
  rstDone := false
  rstAt := 0
  refusing := []

/-- A crew of the image in force (R181). -/
structure Crew where
  defined : Bool
  aligned : Bool
  leadNs : Nat
  members : List Nat
deriving DecidableEq, Repr

/-- No crew. -/
def Crew.reset : Crew := ⟨false, false, 0, []⟩

/-- An accounting item that a Rowlock has sent to Heat at a Finish (R198, R269). -/
structure AcctItem where
  cluster : Nat
  ctx : CtxId
  cls : Nat
  tag : Nat
  tu : Nat
  seat : Nat
deriving DecidableEq, Repr

/-- The launch fabric: its trees and Rowlocks, the accounting items on their way to Heat, and the clusters whose resident or parked
entries have gone and whose Rowlock has not yet acted on it (R194, R228). -/
structure Fabric where
  trees : Tab Tree
  rows : Tab Rowlock
  items : List AcctItem
  vacated : List Nat
deriving DecidableEq, Repr

/-- The fabric at reset. -/
def Fabric.reset : Fabric := ⟨Tab.const Tree.reset, Tab.const Rowlock.reset, [], []⟩
/-- The fabric while a compute reset is in progress: every engine channel is in RESET (R205). -/
def Fabric.inReset : Fabric :=
  { Fabric.reset with rows := Tab.const { Rowlock.reset with engines := Tab.const { Engine.reset with st := .reset } } }

end Sys2Proof.Machine
end

