-- ==== Sys2Proof/Machine/PartMem.lean ====
section
/-! DEFINITION. State of Rack's allocator, its key/value pools and page tables, and of Slide: maps, copies, saves. -/
namespace Sys2Proof.Machine

/-! ### Partitions and pools (R304 to R316) -/

/-- A partition (R304, R307): RCK_PART_HEAP, RCK_PART_REG, the tokens of its regulator in 1/1000 byte as they stood at
`tokAt` (ns), and the next-stack pointer of R305. -/
structure Part where
  heap : W64
  reg : W64
  tokens : Nat
  tokAt : Nat
  nextStack : Nat
deriving DecidableEq, Repr

/-- A partition at reset: burst 32 (R331). -/
def Part.reset : Part := ⟨0, 0x200000, 0, 0, 0⟩

/-- A page of a pool, by stack and index, or, while spilled, its address in the tier area (R310, R315). -/
structure PageEnt where
  stack : Nat
  index : Nat
  tier : Option Nat
deriving DecidableEq, Repr

/-- A page table (R310), held by the index of its root object: its pages in position order and its leaves (leaf number,
stack, address). -/
structure PageTab where
  isTable : Bool
  pool : Nat
  spilled : Bool
  pages : List PageEnt
  leaves : List (Nat × Nat × Nat)
deriving DecidableEq, Repr

/-- No page table. -/
def PageTab.reset : PageTab := ⟨false, 0, false, [], []⟩

/-- A pool (R309): RCK_POOL_CFG without its enable bit, the block base of each stack, and the pages withdrawn (R316). -/
structure Pool where
  cfg : W64
  enabled : Bool
  cmdErr : Bool
  bases : List Nat
  quarantine : List (Nat × Nat)
deriving DecidableEq, Repr

/-- A pool at reset. -/
def Pool.reset : Pool := ⟨0, false, false, [], []⟩

/-- A KVGROW or KVTRIM whose writes are under way (R311): the core that waits, the results still to be written, and how
the word will end. -/
structure KvJob where
  id : Nat
  core : Nat
  owner : Owner
  ctx : CtxId
  results : List (Nat × List Byte)
  soft : Option Bool
  fail : Option (BitVec 16)
deriving DecidableEq, Repr

/-- What a move of pages or of an object is for (R315, R406). -/
inductive MoveKind where
  | spill | fill | refetch
deriving DecidableEq, Repr

/-- A spill, fill or golden refetch in progress: the table or object, the pages' new homes, where a spill took them from (those places
stay reserved until it ends), the copy pieces still out, and when Rack accepted it. -/
structure MoveJob where
  id : Nat
  kind : MoveKind
  obj : Nat
  loop : Nat
  seq : Nat
  homes : List PageEnt
  olds : List PageEnt
  left : Nat
  failed : Option (BitVec 16)
  again : Bool
  since : Nat
deriving DecidableEq, Repr

/-- Rack beside its object table (R306, R331). `poisonSeen` lists objects whose poisoning Heat has still to act on,
`refetchDue` shared objects that wait to be copied from their golden copy once no heat of their loops is in flight (R406). -/
structure Mem where
  partSel : W64
  poolSel : W64
  parts : Tab Part
  pools : Tab Pool
  tabs : Tab PageTab
  tierBase : W64
  tierSize : W64
  crewNear : Tab W64
  lastPart : Nat
  nextId : Nat
  kvJobs : List KvJob
  moves : List MoveJob
  poisonSeen : List Nat
  refetchDue : List Nat
deriving DecidableEq, Repr

/-- Rack's memory part at reset. -/
def Mem.reset : Mem where
  partSel := 0
  poolSel := 0
  parts := Tab.const Part.reset
  pools := Tab.const Pool.reset
  tabs := Tab.const PageTab.reset
  tierBase := 0
  tierSize := 0
  crewNear := Tab.const 0
  lastPart := 0
  nextId := 1
  kvJobs := []
  moves := []
  poisonSeen := []
  refetchDue := []

/-! ### Slide (R317 to R332) -/

/-- A region record of a scratchpad map (R317). -/
structure Region where
  kind : Nat
  banked : Bool
  handle : Nat
  fillCtr : Nat
  drainCtr : Nat
  slotsLog2 : Nat
  base : Nat
  size : Nat
deriving DecidableEq, Repr

/-- What Slide keeps for a context-table slot (R317, R332). `busy` counts handle writes without a response. -/
structure SldCtx where
  map : W64
  area : W64
  cmdErr : Bool
  registered : Bool
  badRegion : Nat
  regions : List Region
  busy : Nat
deriving DecidableEq, Repr

/-- A slot without a map. -/
def SldCtx.reset : SldCtx := ⟨0, 0, false, false, 0, [], 0⟩

/-- A copy command (R323). -/
structure CopyCmd where
  op : Nat
  banked : Bool
  acc : Bool
  length : Nat
  addr : Nat
  addr2 : Nat
  base : Nat
  size : Nat
  start : Nat
deriving DecidableEq, Repr

/-- What a copy piece works for: a cluster of a save or restore, or a page of a move. -/
inductive CopyFor where
  | job (id cluster : Nat)
  | move (id page : Nat)
deriving DecidableEq, Repr

/-- A copy piece (R307, R324): written when its commands' writes are answered, launched, and then reported. -/
structure CopyPiece where
  id : Nat
  for_ : CopyFor
  cluster : Nat
  engine : Nat
  tree : Nat
  part : Nat
  bytes : Nat
  msg : LaunchMsg
  cmds : List CopyCmd
  staging : Option Nat
  asked : Bool
  written : Bool
  launched : Bool
deriving DecidableEq, Repr

/-- What a job of Slide does (R326 to R328). -/
inductive JobKind where
  | save | vacate | restore
deriving DecidableEq, Repr

/-- Who asked for it: a program's word with its group, or Heat for a heat slot, or Heat for a saved context. -/
inductive JobWho where
  | prog (owner : Owner) (seat group : Nat)
  | heat (loop slot : Nat)
  | heatRestore
deriving DecidableEq, Repr

/-- Where one cluster of a job stands. -/
inductive ClSt where
  | hold | fetch | waitRow | write | copy | sync | done
deriving DecidableEq, Repr

/-- One cluster of a job: the captured or saved counters, overflow bits and bytes. -/
structure ClJob where
  cluster : Nat
  st : ClSt
  ctrs : List Nat
  valid : Bool
  overflow : Nat
  bytes : Nat
  since : Nat
deriving DecidableEq, Repr

/-- A save, vacate or restore in progress. -/
structure SaveJob where
  id : Nat
  kind : JobKind
  who : JobWho
  ctx : CtxId
  area : Nat
  holdId : Nat
  clusters : List ClJob
  msg : LaunchMsg
  needKib : Nat
  failed : Bool
deriving DecidableEq, Repr

/-- Slide (R332). `held` lists the clusters a save holds a context on, with the hold slot. -/
structure Sld where
  htab : W64
  stage : W64
  sel : W64
  ctxs : Tab SldCtx
  handles : Tab (Option Nat)
  jobs : List SaveJob
  pieces : List CopyPiece
  held : List (CtxId × Nat × Nat)
  copyBytes : Nat
  nextId : Nat
deriving DecidableEq, Repr

/-- Slide at reset. -/
def Sld.reset : Sld := ⟨0, 0, 0, Tab.const SldCtx.reset, Tab.const none, [], [], [], 0, 1⟩

end Sys2Proof.Machine
end

