-- ==== Sys2Proof/Machine/PartPorts.lean ====
section
/-! DEFINITION. State of the ports: the requests the block has outstanding, and what each response continues. -/
namespace Sys2Proof.Machine

/-- What a narrow-path or host-memory response continues. -/
inductive MemWhy where
  /-- Marshal's read of an entry (R88, R94); `second` after a check-code mismatch (R89). -/
  | entry (ring : Nat) (count : Count) (second : Bool)
  /-- The line that holds word 0 of a cached entry's program (R123). -/
  | firstLine (ring : Nat) (count : Count)
  /-- A program line for a core's buffer (R123). -/
  | progLine (core : Nat) (ctx : CtxId) (line : Nat)
  /-- LOADC (R126). -/
  | loadc (owner : Owner) (seat rd size : Nat) (pos : WordPos)
  /-- STOREC (R126). -/
  | storec (owner : Owner) (seat : Nat) (pos : WordPos)
  /-- The 8-byte header of a parameter table, for the body that the call has chosen (R160 step 5). -/
  | callHdr (core : Nat) (owner : Owner) (pin : Pin)
  /-- The same header, for the course that Heat starts (R163). -/
  | heatHdr (core : Nat) (owner : Owner) (layout : Nat)
  /-- Clearing OWN (R91, R106). -/
  | clearOwn (ring : Nat)
  /-- The completion record (R107). -/
  | record (ring : Nat)
  /-- The image and the entry write of an ENQUEUE (R167 steps 3 and 7). -/
  | enqImage (core : Nat) (owner : Owner)
  | enqWrite (core : Nat) (owner : Owner) (ring : Nat) (count : Count)
  /-- A write of a plan, or a read of a fetch, that a unit has under way. -/
  | plan (id : Nat)
  | fetch (id : Nat) (addr : Nat)
  /-- Erg's publication of a counter (R373); Wake's status line (R362). -/
  | ergPub (counter : Nat)
  | statusLine (stream : Nat)
  /-- Rack's write-back of one entry of the object table (R61). -/
  | objEntry
deriving DecidableEq, Repr

/-- One write of a plan: to host memory, or to device memory in a context. -/
structure MemWrite where
  host : Bool
  addr : Nat
  ctx : CtxId
  bytes : List Byte
deriving DecidableEq, Repr

/-- What the end of a plan of writes continues. -/
inductive PlanWho where
  | none
  /-- Page-table writes, and then result writes, of a KVGROW or KVTRIM (R311, R312). -/
  | kvTable (job : Nat)
  | kvResult (job : Nat)
  /-- Page-table writes that Heat's own grows, trims, spills and fills make. -/
  | table
  /-- Handle-table writes of a map (R322). -/
  | htab (slot : Nat)
  /-- The commands of a copy piece (R324). -/
  | piece (id : Nat)
  /-- The save area's header, a cluster block, and the last header (R325, R326). -/
  | saveHead (job : Nat)
  | saveBlock (job cluster : Nat)
  | saveFinal (job : Nat)
  /-- Heat: parameter table, Judge requests, commit, the pending intent of a loop. -/
  | heatParams (loop slot : Nat)
  | heatRequests (loop slot : Nat)
  | heatCommit (loop slot : Nat)
  | heatIntent (loop : Nat)
  /-- A record of Boathouse's journal (R399, R400). -/
  | journal (loop slot kind : Nat)
  /-- A result record of a Judge job (R297). -/
  | judgeResult (job : Nat)
  /-- The page-table writes of a spill or fill (R315). -/
  | move (job : Nat)
  /-- The dump (R389, R390): its header in state 1 (0), its sections (1), its header in state 2 (2). -/
  | dump (phase : Nat)
deriving DecidableEq, Repr

/-- Writes issued batch by batch: the next batch goes out when every write of the last is answered. `out` counts the writes
without a response and `err` keeps the first response error, after which no further batch is issued. -/
structure Plan where
  id : Nat
  who : PlanWho
  isl : Nat
  oid : Nat
  batches : List (List MemWrite)
  out : Nat
  err : RespErr
  errAddr : Nat
deriving DecidableEq, Repr

/-- What the end of a set of reads continues. -/
inductive FetchWho where
  | judge (job : Nat)
  | restore (job cluster : Nat)
  /-- The header of the save area of a restore of Heat's (R328, R329). -/
  | restoreHead (job : Nat)
  | request (loop ring : Nat)
  /-- What recovery of a loop reads (R403): in the address space of context 0xFFFF (0), of the loop's (1), in host memory (2). -/
  | recover (loop space : Nat)
deriving DecidableEq, Repr

/-- A set of line reads: `got` holds what has come. -/
structure Fetch where
  id : Nat
  who : FetchWho
  out : Nat
  got : List (Nat × List W64)
  err : RespErr
  errAddr : Nat
deriving DecidableEq, Repr

/-- One request on the narrow port (R24) or on the host-memory port (R21's table): a byte address, the bytes of a write,
the length of a read, the ordering id, the island that issued it, its issue time, whether R385 has reported it late, and
whether its response is to be discarded (R46). -/
structure MemReq where
  tag : Nat
  write : Bool
  addr : Nat
  ctx : CtxId
  bytes : List Byte
  len : Nat
  oid : Nat
  why : MemWhy
  isl : Nat
  at_ : Nat
  late : Bool
  stale : Bool
deriving DecidableEq, Repr

/-- Whose fence is being failed (R77, R80). -/
inductive FfWho where
  | work (owner : Owner)
  | posted (ring : Nat) (count : Count)
  | host
  | lost
deriving DecidableEq, Repr

/-- Where the procedure of R77 stands: it has read, tried a CAS for the n-th time, or issued its last MAXU. -/
inductive FfStep where
  | read
  | cas (old : W64) (tries : Nat)
  | maxu
deriving DecidableEq, Repr

/-- What an atomic response continues. -/
inductive AtWhy where
  /-- ATOMC (R126): destination, compare value when the operation is CAS, where the word stands. -/
  | atomc (owner : Owner) (seat rd : Nat) (cas : Option W64) (pos : WordPos)
  /-- A read of a waited fence (R128, R212) for a seat's or a gate's waiter: its first read, a poll read, or its verify read. -/
  | waitRead (waiter gen : Nat) (verify : Bool)
  /-- A re-read of one fence word for a dirty watch entry (R214). -/
  | watchRead (entry addr : Nat)
  /-- A signal by a program (R132), by the host (R79), or into an entry's completion fence (R105). -/
  | signal (owner : Owner) (seat : Nat) (value : W64) (pos : WordPos)
  | hostSignal (value : W64)
  | fence (owner : Owner) (value : W64)
  /-- A step of fail_fence (R77). -/
  | failFence (who : FfWho) (cls : Nat) (code : BitVec 16) (step : FfStep)
  /-- The MAXU a crossing message asks for (R235): source chip, incarnation, sequence number, context, value. -/
  | remote (src : BitVec 16) (incarn : Nat) (seq : W32) (ctx : CtxId) (value : W64)
deriving DecidableEq, Repr

/-- One request on the atomic port (R24, R26). -/
structure AtReq where
  tag : Nat
  op : Nat
  addr : Nat
  ctx : CtxId
  opnd : W64
  cmp : W64
  why : AtWhy
  isl : Nat
  at_ : Nat
  late : Bool
  stale : Bool
deriving DecidableEq, Repr

/-- A request on the wide read port (Judge). `pass` tells apart the reads that one request makes of the same bytes (R300). -/
structure WdReq where
  tag : Nat
  addr : Nat
  pass : Nat
  ctx : CtxId
  len : Nat
  got : List Byte
  err : RespErr
  job : Nat
  at_ : Nat
  late : Bool
  stale : Bool
deriving DecidableEq, Repr

/-- A read on the narrow port whose answer came with the command that made it (the command's operand stands for the data and
the response error): the island, the first address, the context and the number of bytes, read line by line in rising order. -/
structure OwnRead where
  isl : Nat
  addr : Nat
  ctx : CtxId
  len : Nat
  at_ : Nat
deriving DecidableEq, Repr

/-- The ports of the block: outstanding requests, and the outputs in the order issued. -/
structure Ports where
  nm : List MemReq
  hm : List MemReq
  at_ : List AtReq
  wd : List WdReq
  plans : List Plan
  fetches : List Fetch
  nextPlan : Nat
  /-- the reads whose answers came as operands, in the order issued -/
  ownReads : List OwnRead
  /-- fence failures that a compute reset puts off until its engines have completed theirs (R380, R394): whose, the fence,
  its context, class and code -/
  owedFails : List (FfWho × Nat × CtxId × Nat × BitVec 16)
  /-- interrupts raised on irq_vector, in order (R22) -/
  irqs : List Nat
  /-- the answer of the last read of the register window (ht_rsp_rdata, dbg_rsp_rdata) -/
  hostRead : W64
  /-- STB_HSIG_ADDR, STB_HSIG_CTX and the status and old word of the last host signal (R79) -/
  hsigAddr : W64
  hsigCtx : W64
  hsigBusy : Bool
  hsigStale : Bool
  hsigFailed : Bool
  hsigErr : RespErr
  hsigBad : Bool
  hsigOld : W64
  staleSignals : Nat
  failedSignals : Nat
deriving DecidableEq, Repr

/-- The ports at reset. -/
def Ports.reset : Ports where
  nm := []
  hm := []
  at_ := []
  wd := []
  plans := []
  fetches := []
  nextPlan := 1
  ownReads := []
  owedFails := []
  irqs := []
  hostRead := 0
  hsigAddr := 0
  hsigCtx := 0
  hsigBusy := false
  hsigStale := false
  hsigFailed := false
  hsigErr := .ok
  hsigBad := false
  hsigOld := 0
  staleSignals := 0
  failedSignals := 0

end Sys2Proof.Machine
end

