-- ==== Sys2Proof/Machine/PartHeat.lean ====
section
/-! DEFINITION. State of Heat, Judge and Boathouse: serving loops, heats, shares, jobs, the journal. -/
namespace Sys2Proof.Machine

/-! ### Loops (R246 to R258) -/

/-- Loop states (R250), in the order HEA_LOOP_STATUS numbers them. -/
inductive LoopSt where
  | stopped | running | draining | paused | failed
deriving DecidableEq, Repr

/-- A request ring of a loop (R247, R252): `next` is the count Heat reads next, `rec_` the record read and not yet acted on
(its words, whether it is a second read, and when it came); `again` says that a doorbell came while the read was out. -/
structure ReqRing where
  enabled : Bool
  dev : Bool
  log2 : Nat
  base : Nat
  ctx : CtxId
  next : Count
  stopped : Bool
  reading : Bool
  second : Bool
  rec_ : Option (List W64 × Bool × Nat)
  lastLook : Nat
  again : Bool
deriving DecidableEq, Repr

/-- A request ring not in use. -/
def ReqRing.reset : ReqRing := ⟨false, false, 0, 0, 0, 0, false, false, false, none, 0, false⟩

/-- A result ring of a loop (R247, R255, R256): `reserved` slots are held by heats in flight. -/
structure ResRing where
  enabled : Bool
  dev : Bool
  log2 : Nat
  base : Nat
  irq : Bool
  vector : Nat
  holdoff : Nat
  written : Count
  consumed : Count
  reserved : Nat
  irqLast : Option Nat
  irqDue : Bool
deriving DecidableEq, Repr

/-- A result ring not in use. -/
def ResRing.reset : ResRing := ⟨false, false, 0, 0, false, 0, 0, 0, 0, 0, none, false⟩

/-- A model record (R248). -/
structure Model where
  valid : Bool
  pool : Nat
  drafts : Nat
  minChunk : Nat
  weights : W32
  load : W32
  loadVersion : Nat
deriving DecidableEq, Repr

/-- No model. -/
def Model.reset : Model := ⟨false, 0, 0, 0, 0, 0, 0⟩

/-- A shape record (R248). -/
structure Shape where
  valid : Bool
  course : W32
  version : Nat
  model : Nat
  decodeMax : Nat
  seqMax : Nat
  tokenMax : Nat
  chunkMax : Nat
  crews : W64
deriving DecidableEq, Repr

/-- No shape. -/
def Shape.reset : Shape := ⟨false, 0, 0, 0, 0, 0, 0, 0, 0⟩

/-- Sequence states (R257). `leaving` is a sequence being retired (R258): its pages are gone, and the entry becomes FREE once its
final record is written and its line is zero. -/
inductive SeqSt where
  | free | gated | prefill | decode | spilled | leaving
deriving DecidableEq, Repr

/-- A sequence-table entry (R257), with what Heat keeps beside it: the gate, the waiter record it has, when it may next try
for one, how long it has lacked pages, and the last token it was given. -/
structure SeqEnt where
  st : SeqSt
  inHeat : Bool
  stream : Bool
  cancel : Bool
  kvWait : Bool
  model : Nat
  resultRing : Nat
  requestRing : Nat
  fails : Nat
  chargeCtx : CtxId
  requestId : W64
  promptAddr : Nat
  promptLen : Nat
  maxNew : Nat
  pos : Nat
  generated : Nat
  outputAddr : Nat
  judgeParams : Nat
  kv : W32
  admitted : Nat
  gateFence : Nat
  gateValue : Nat
  waiter : Option Nat
  retryAt : Nat
  starvedSince : Option Nat
  ctxFailed : Option (BitVec 16)
deriving DecidableEq, Repr

/-- A FREE entry. -/
def SeqEnt.reset : SeqEnt where
  st := .free
  inHeat := false
  stream := false
  cancel := false
  kvWait := false
  model := 0
  resultRing := 0
  requestRing := 0
  fails := 0
  chargeCtx := 0
  requestId := 0
  promptAddr := 0
  promptLen := 0
  maxNew := 0
  pos := 0
  generated := 0
  outputAddr := 0
  judgeParams := 0
  kv := 0
  admitted := 0
  gateFence := 0
  gateValue := 0
  waiter := none
  retryAt := 0
  starvedSince := none
  ctxFailed := none

/-- What Judge decided for one request (R297). -/
structure JudgeResult where
  error : BitVec 16
  tokens : List Nat
  stop : Nat
  cut : Bool
  accepted : Nat
  nonfinite : Nat
  kept : Nat
  prob : W32
deriving DecidableEq, Repr

/-- A member of a heat (R260): its sequence, charge context, tokens, and what it had at COMPOSE; `grown` is false when its grow failed. -/
structure Member where
  seq : Nat
  charge : CtxId
  prefill : Bool
  sample : Bool
  drafts : Nat
  count : Nat
  pos : Nat
  generated : Nat
  slots : Nat
  grown : Bool
  result : Option JudgeResult
deriving DecidableEq, Repr

/-- Heat-slot states (R263). -/
inductive SlotSt where
  | free | save | switch | compose | grow | run | judge | commit
deriving DecidableEq, Repr

/-- A heat slot (R263). `waiting` says that a plan or the journal still has to answer before the slot goes on; `acked` that
Boathouse has acknowledged its outcome record; `rerun` that the heat is a re-run (R403). `writes` are the writes of its commit, and
`frees` the sequences that they leave FREE (R267). -/
structure HeatSlot where
  st : SlotSt
  crew : Nat
  seat : Nat
  model : Nat
  shape : Nat
  step : Nat
  members : List Member
  began : Nat
  since : Nat
  time : Nat
  course : W32
  version : Nat
  layout : Nat
  waiting : Bool
  acked : Bool
  composed : Bool
  rings : Nat
  rerun : Bool
  epoch : Bool
  writes : List (List MemWrite)
  frees : List Nat
deriving DecidableEq, Repr

/-- A free slot. -/
def HeatSlot.reset : HeatSlot where
  st := .free
  crew := 0
  seat := 0
  model := 0
  shape := 0
  step := 0
  members := []
  began := 0
  since := 0
  time := 0
  course := 0
  version := 0
  layout := 0
  waiting := false
  acked := false
  composed := false
  rings := 0
  rerun := false
  epoch := false
  writes := []
  frees := []

/-- What a pending intent is for. R398 names the first four; the others are the writes that Heat queues behind them: a CANCEL's
OWN, one entry, a heat's rollback, step 3 of R403, the entries and tables of a composition, START with clear = 1 (assumption 106). -/
inductive IntentKind where
  | admission | retirement | rejection | gateFailure | cancel | entry | rollback | trim
  | grow (slot : Nat)
  | clear
deriving DecidableEq, Repr

/-- A pending intent (R398): the request ring and its count, the sequence, its page-table handle, the slot (ring and count) of its
result record; the result rings it writes, the sequences it leaves FREE, its writes, and the plan that makes them. -/
structure Intent where
  kind : IntentKind
  ring : Nat := 0
  count : Count := 0
  seq : Nat := 0
  kv : W32 := 0
  result : Option (Nat × Count) := none
  rings : Nat := 0
  frees : List Nat := []
  writes : List (List MemWrite)
  plan : Option Nat := none
deriving DecidableEq, Repr

/-- A serving loop (R246, R247, R250, R274). `intent` holds the pending intent of R398, and behind it those that wait for it.
`ending` is what the loop becomes, with its code, once its last heat has been rolled back (R268); `barren` says that the last
composition found no members, and that nothing has happened since that lets placement run for the loop again (R260). -/
structure Loop where
  st : LoopSt
  stopping : Bool
  starting : Bool
  cmdErr : Bool
  badOffset : Nat
  errCode : BitVec 16
  desc : W64
  ctx : CtxId
  slotsM1 : Nat
  liveLog2 : Nat
  seqTable : Nat
  paramArea : Nat
  judgeArea : Nat
  logitsArea : Nat
  judgeStride : Nat
  logitsStride : Nat
  tag : Nat
  timeout : Nat
  kvWaitMs : Nat
  reqs : Tab ReqRing
  ress : Tab ResRing
  models : Tab Model
  shapes : Tab Shape
  seqs : Tab SeqEnt
  slots : Tab HeatSlot
  step : Nat
  nextAdmit : Nat
  committed : Nat
  residue : Nat
  lastSpill : Nat
  paused : Option LoopSt
  barren : Bool
  ending : Option (LoopSt × BitVec 16)
  intent : List Intent
deriving DecidableEq, Repr

/-- A loop at reset. -/
def Loop.reset : Loop where
  st := .stopped
  stopping := false
  starting := false
  cmdErr := false
  badOffset := 0
  errCode := 0
  desc := 0
  ctx := 0
  slotsM1 := 0
  liveLog2 := 0
  seqTable := 0
  paramArea := 0
  judgeArea := 0
  logitsArea := 0
  judgeStride := 0
  logitsStride := 0
  tag := 0
  timeout := 0
  kvWaitMs := 0
  reqs := Tab.const ReqRing.reset
  ress := Tab.const ResRing.reset
  models := Tab.const Model.reset
  shapes := Tab.const Shape.reset
  seqs := Tab.const SeqEnt.reset
  slots := Tab.const HeatSlot.reset
  step := 0
  nextAdmit := 0
  committed := 0
  residue := 0
  lastSpill := 0
  paused := none
  barren := false
  ending := none
  intent := []

/-- What Heat keeps for a context-table slot (R269). -/
structure Share where
  used : Nat
  vtime : Nat
  weight : Nat
deriving DecidableEq, Repr

/-- A context saved from a crew's clusters for a heat, and its restore (R271, R272). -/
structure SavedCtx where
  ctx : CtxId
  clusters : List Nat
  area : Nat
  restoring : Bool
deriving DecidableEq, Repr

/-- Heat (R259, R269, R274): HEA_CFG, reset period_us 100. `owed` lists the vacates (loop, crew, seat, epoch) that wait for
a hold slot of Slide's. -/
structure Heat where
  cfg : W64
  loopSel : W64
  ctxSel : W64
  loops : Tab Loop
  shares : Tab Share
  floor : Nat
  residency : Tab (Option (Nat × Nat))
  saved : List SavedCtx
  owed : List (Nat × Nat × Nat × Bool)
  lastPeriod : Nat
  lastPlace : Nat
deriving DecidableEq, Repr

/-- Heat at reset. -/
def Heat.reset : Heat :=
  ⟨100, 0, 0, Tab.const Loop.reset, Tab.const ⟨0, 0, 0⟩, 0, Tab.const none, [], [], 0, 0⟩

/-! ### Judge (R276 to R302) -/

/-- Who submitted a job. -/
inductive JobOf where
  | prog (owner : Owner) (seat group : Nat)
  | heat (loop slot : Nat)
deriving DecidableEq, Repr

/-- A job (R277): `at_` is the request processed next, `got` and `wide` the bytes read for it (by 64-byte line or by wide
block), `out` the reads and `writes` the result writes without a response, and `seed` the reading of State's counter of free
values that the request under way takes. `tag` is the current tag at submission (R144), and `replay` the replay bit (R396). -/
structure JudgeJob where
  id : Nat
  of_ : JobOf
  ctx : CtxId
  n : Nat
  table : Nat
  results : Nat
  at_ : Nat
  started : Bool
  got : List (Nat × List Byte)
  wide : List (Nat × List Byte)
  out : Nat
  writes : Nat
  err : Option (BitVec 16)
  answers : List JudgeResult
  since : Nat
  seed : Nat
  tag : Nat
  replay : Bool
deriving DecidableEq, Repr

/-- Judge (R302): accepted jobs in order, submissions that wait for a place, finished Heat jobs, and the counters. -/
structure Judge where
  jobs : List JudgeJob
  waiting : List JudgeJob
  done : List (Nat × Nat × Option (BitVec 16) × List JudgeResult)
  nextId : Nat
  nJobs : Nat
  nRequests : Nat
  nRows : Nat
  nElements : Nat
  nErrors : Nat
  nNonfinite : Nat
  nCut : Nat
deriving DecidableEq, Repr

/-- Judge at reset. -/
def Judge.reset : Judge := ⟨[], [], [], 1, 0, 0, 0, 0, 0, 0, 0⟩

/-! ### Boathouse (R398 to R411) -/

/-- A journal record (R398 to R400): its heat, kind, journal offset and length in lines, and whether every write of it is answered. -/
structure JRec where
  loop : Nat
  slot : Nat
  step : Nat
  kind : Nat
  off : Nat
  lines : Nat
  acked : Bool
deriving DecidableEq, Repr

/-- Boathouse: BHS_CFG, the journal's records oldest first, where the next goes (in lines), the records that wait for room (loop,
slot, step, kind, words), and what a compute reset has left to do (R392, R403): entries to replay, heats to re-run (loop, slot,
heat, course pins), and the loops that recover, with the step each is in: 0 reads, 1 the intents, 2 the commits, 3 the trims. -/
structure Bhs where
  cfg : W64
  degraded : Bool
  recs : List JRec
  pos : Nat
  waiting : List (Nat × Nat × Nat × Nat × List W64)
  replays : List Owner
  reruns : List (Nat × Nat × HeatSlot × List Pin)
  recovering : List (Nat × Nat)
  replayed : Nat
  failed : Nat
  rerunCount : Nat
deriving DecidableEq, Repr

/-- Boathouse at reset. -/
def Bhs.reset : Bhs := ⟨0, false, [], 0, [], [], [], [], 0, 0, 0⟩

end Sys2Proof.Machine
end

