-- ==== Sys2Proof/Machine/PartStb.lean ====
section
/-! DEFINITION. State of Stakeboat: the watch table, the waiters, and the crossing port. -/
namespace Sys2Proof.Machine

/-- Watch-entry states (R211). -/
inductive WatchSt where
  | free | arming | armed | disarming
deriving DecidableEq, Repr

/-- A watch-table entry (R211, R214, R217): `reads` counts the fence reads in flight that its dirty bit caused. `owed` says
that a compute reset discarded its answer, so a disarm is owed when the reset ends (R215); `asked` is when its request
went out. -/
structure Watch where
  st : WatchSt
  line : Nat
  ctx : CtxId
  dirty : Bool
  linger : Option Nat
  reads : Nat
  owed : Bool
  asked : Nat
  late : Bool
deriving DecidableEq, Repr

/-- A FREE entry. -/
def Watch.reset : Watch := ⟨.free, 0, 0, false, none, 0, false, 0, false⟩

/-- Waiter states (R220, R221). -/
inductive WaitSt where
  | idle | read | arming | verify | watched | polled
deriving DecidableEq, Repr

/-- A waiter record (R212): `entry` is the watch entry it is attached to, has armed or waits on; `gen` tells the reads of
one wait from those of the next; `timedOut` is a timeout that waits for a read in flight (R218); `order` tells which of
the waiters on one answer came first (R213). -/
structure Waiter where
  st : WaitSt
  addr : Nat
  ctx : CtxId
  value : W64
  gate : Option (Nat × Nat)
  entry : Option Nat
  gen : Nat
  reads : Nat
  since : Nat
  lastPoll : Nat
  wasPolled : Bool
  timedOut : Bool
  order : Nat
deriving DecidableEq, Repr

/-- An IDLE waiter. -/
def Waiter.reset : Waiter := ⟨.idle, 0, 0, 0, none, none, 0, 0, 0, 0, false, false, 0⟩

/-- Link states (R238, R240). -/
inductive LinkSt where
  | up | hold | resetSent
deriving DecidableEq, Repr

/-- An outstanding record of a SIGNALX (R233, R237). -/
structure OutRec where
  dst : BitVec 16
  seq : W32
  owner : Owner
  seat : Nat
  ctx : CtxId
  addr : Nat
  value : W64
  pos : WordPos
  sentOnce : Bool
  firstSent : Nat
  lastSent : Nat
deriving DecidableEq, Repr

/-- A run of performed SIGNALs that is not acknowledged yet (R236). -/
structure RxRun where
  src : BitVec 16
  incarn : Nat
  first : W32
  last : W32
  since : Nat
deriving DecidableEq, Repr

/-- Stakeboat (R211 to R221, R233 to R240). `txq` holds the messages queued in XNG, and `tx` those that have transferred on cx_tx, in
order (destination, four words);
`gateDone` holds the released waits of Heat's gates that Heat has not yet acted on;
`owedAcks` those held back while the link is down. Registers: poll_ns 2,000, linger_us 10; resend_us 200,
give_up_ms 100, loss_hold_us 1,000. -/
structure Stb where
  cfg : W64
  watch : Tab Watch
  waiters : Tab Waiter
  nextOrder : Nat
  gateDone : List (Nat × Nat × RespErr × W64)
  armRefused : Nat
  noticesLost : Nat
  rereads : Nat
  xngCfg : W64
  link : LinkSt
  linkOk : Bool
  linkAt : Nat
  nextSeq : Tab Nat
  outs : List OutRec
  runs : List RxRun
  txq : List (BitVec 16 × List W64)
  tx : List (BitVec 16 × List W64)
  owedAcks : List (BitVec 16 × List W64)
  sent : Nat
  received : Nat
  resent : Nat
  rejected : Nat
deriving DecidableEq, Repr

/-- Stakeboat at reset. -/
def Stb.reset : Stb where
  cfg := 0xA07D0
  watch := Tab.const Watch.reset
  waiters := Tab.const Waiter.reset
  nextOrder := 0
  gateDone := []
  armRefused := 0
  noticesLost := 0
  rereads := 0
  xngCfg := 0x03E8006400C80000#64
  link := .up
  linkOk := false
  linkAt := 0
  nextSeq := Tab.const 0
  outs := []
  runs := []
  txq := []
  tx := []
  owedAcks := []
  sent := 0
  received := 0
  resent := 0
  rejected := 0

end Sys2Proof.Machine
end

