-- ==== Sys2Proof/Machine/PartObs.lean ====
section
/-! DEFINITION. State of the units that observe: Umpire's error log and hang rings, Wake's streams, Erg's counters. -/
namespace Sys2Proof.Machine

/-- An error-log record (R378), field by field. -/
structure LogRec where
  cls : Nat
  nested : Bool
  code : BitVec 16
  island : Nat
  seat : Nat
  engine : Nat
  cluster : Nat
  loop : Nat
  time : Nat
  ctx : CtxId
  ring : Nat
  count : Count
  tag : Nat
  pc : Nat
  info : Nat
  addr : Nat
  aux : W64
  step : Nat
deriving DecidableEq, Repr

/-- The empty record. -/
def LogRec.zero : LogRec := ⟨0, false, 0, 0, 0, 0, 0, 0, 0, 0, 0, 0, 0, 0, 0, 0, 0, 0⟩

/-- What the block still has to do about a logged error (R380): a record stays pending until it is done. `works` are the commands
of a context that were in flight when it failed. -/
inductive PendWhy where
  | nothing
  | work (owner : Owner)
  | ring (ring : Nat)
  | works (owners : List Owner)
  | loop (loop : Nat)
  | reset
  | dead
deriving DecidableEq, Repr

/-- One slot of the error log (R379, R380). -/
structure LogSlot where
  entry : LogRec
  valid : Bool
  why : PendWhy
deriving DecidableEq, Repr

/-- A trace record on its way to a stream (R357): the island that stamped it, its stamp, and its words (two or four). `id` is the
same for the copies of one record in several streams, which its island buffers once (R364); Wake's own LOSS records have 0. -/
structure TraceRec where
  id : Nat
  island : Nat
  stamp : Nat
  words : List W64
deriving DecidableEq, Repr

/-- A trace block issued (R362): the stamp and the source of each record in it, and the number of bytes the stream has issued with
it. A stale block is one whose response is to be discarded (R46, R366). -/
structure TraceBlock where
  tag : Nat
  addr : Nat
  words : List W64
  upTo : Nat
  srcs : List (Nat × Nat)
  answered : Bool
  stale : Bool
  at_ : Nat
  late : Bool
deriving DecidableEq, Repr

/-- A Wake stream (R360 to R366). `issued` is the bytes issued since enable and `written` those answered; `recs` are the records
not in a block yet, in the order they will be written; `lossAt` are the losses that have no LOSS record yet (the stamp of the
first, the source, the number), one for each source. -/
structure Stream where
  ring : W64
  filter : W64
  clusters : W64
  statusLine : W64
  enabled : Bool
  written : Nat
  issued : Nat
  consumed : Nat
  lost : Nat
  recs : List TraceRec
  blocks : List TraceBlock
  lossAt : List (Nat × Nat × Nat)
  lastStamp : Nat
  lastTime : Nat
  lastPub : Nat
  stopped : Bool
  samples : Tab Nat
deriving DecidableEq, Repr

/-- A stream at reset (R366): clu_hi reads 0x1FF. -/
def Stream.reset : Stream where
  ring := 0
  filter := 0
  clusters := 0x1FF0000
  statusLine := 0
  enabled := false
  written := 0
  issued := 0
  consumed := 0
  lost := 0
  recs := []
  blocks := []
  lossAt := []
  lastStamp := 0
  lastTime := 0
  lastPub := 0
  stopped := false
  samples := Tab.const 0

/-- An Erg counter (R367, R368, R374). -/
structure Counter where
  cfg : W64
  tag : W64
  value : Nat
  min : Nat
  max : Nat
  fresh : Bool
  atStart : Nat
  thr : W64
  pub : W64
  crossed : Bool
deriving DecidableEq, Repr

/-- A counter at reset. -/
def Counter.reset : Counter := ⟨0, 0, 0, 0, 0, true, 0, 0, 0, false⟩

/-- An Erg histogram (R369, R374). -/
structure Hist where
  cfg : W64
  bins : Tab Nat
deriving DecidableEq, Repr

/-- A histogram at reset. -/
def Hist.reset : Hist := ⟨0, Tab.const 0⟩

/-- Wake (R366): WAK_CFG, reset flush_ns 2,000 and pub_us 10. -/
structure Wake where
  cfg : W64
  sel : W64
  streams : Tab Stream
deriving DecidableEq, Repr

/-- Wake at reset. -/
def Wake.reset : Wake := ⟨0xA07D0, 0, Tab.const Stream.reset⟩

/-- Erg (R372, R374): ERG_CFG, reset sample_100ns 10, record_every 1; ERG_FREEZE, reset err_min 4. -/
structure Erg where
  cfg : W64
  freeze : W64
  freezeTime : Nat
  frozen : Bool
  resumeAt : Nat
  ctrSel : W64
  counters : Tab Counter
  hists : Tab Hist
  trigOut0 : Bool
  trigOut1 : Bool
  trig0Stuck : Bool
  trig1Stuck : Bool
  trig0Last : Option Nat
  trig1Last : Option Nat
  lastSample : Nat
  intervals : Nat
  thrPending : Bool
deriving DecidableEq, Repr

/-- Erg at reset. -/
def Erg.reset : Erg where
  cfg := 0x010000A#64
  freeze := 0x40
  freezeTime := 0
  frozen := false
  resumeAt := 0
  ctrSel := 0
  counters := Tab.const Counter.reset
  hists := Tab.const Hist.reset
  trigOut0 := false
  trigOut1 := false
  trig0Stuck := false
  trig1Stuck := false
  trig0Last := none
  trig1Last := none
  lastSample := 0
  intervals := 0
  thrPending := false

end Sys2Proof.Machine
end

