-- ==== Sys2Proof/Machine/PartPower.lean ====
section
/-! DEFINITION. State of Stroke: exact rationals, the Stroke section of an image, and what the governor holds (R334 to R349). -/
namespace Sys2Proof.Machine

/-- A rational number in lowest terms, `den` at least 1. Stroke's formulas are exact (assumption 30). -/
structure Q where
  num : Int
  den : Nat
deriving DecidableEq, Repr

/-- The quotient `n / d`, in lowest terms; `d` is not 0. -/
def Q.mk' (n : Int) (d : Nat) : Q :=
  let g := Nat.gcd n.natAbs d
  if g = 0 then ⟨n, 1⟩ else ⟨n / g, d / g⟩
/-- The rational of a natural number. -/
def Q.ofNat (n : Nat) : Q := ⟨n, 1⟩
def Q.zero : Q := ⟨0, 1⟩
def Q.one : Q := ⟨1, 1⟩
def Q.add (a b : Q) : Q := Q.mk' (a.num * b.den + b.num * a.den) (a.den * b.den)
def Q.sub (a b : Q) : Q := Q.mk' (a.num * b.den - b.num * a.den) (a.den * b.den)
def Q.mul (a b : Q) : Q := Q.mk' (a.num * b.num) (a.den * b.den)
/-- `a / b`; the caller handles `b = 0`, here 0. -/
def Q.div (a b : Q) : Q :=
  if b.num = 0 then Q.zero
  else if 0 < b.num then Q.mk' (a.num * b.den) (a.den * b.num.natAbs)
  else Q.mk' (-(a.num * b.den)) (a.den * b.num.natAbs)
def Q.le (a b : Q) : Bool := a.num * b.den ≤ b.num * a.den
def Q.lt (a b : Q) : Bool := a.num * b.den < b.num * a.den
def Q.min (a b : Q) : Q := if Q.le a b then a else b
def Q.max (a b : Q) : Q := if Q.le a b then b else a
/-- The greatest whole number not above a rational; a negative rational answers 0. -/
def Q.floorNat (a : Q) : Nat := (a.num / (a.den : Int)).toNat
/-- The least whole number not below a rational; a negative rational answers 0. -/
def Q.ceilNat (a : Q) : Nat := (-((-a.num) / (a.den : Int))).toNat

/-- A thermal node of the Stroke section (R348). -/
structure NodeImg where
  tLim : Nat
  parent : Nat
  rn : Nat
  tau : Nat
  floor : Nat
  members : List Nat
deriving DecidableEq, Repr

/-- The Stroke section of an image (R348), field by field. -/
structure StkImg where
  iPerWu : Nat
  sUp : Nat
  sDn : Nat
  iIdle : Nat
  iLsb : Nat
  vLsb : Nat
  fillNs : Nat
  tAmb : Nat
  burst : Nat
  crewStep : Nat
  horizon : Nat
  gainShift : Nat
  nodes : Nat
  weights : Tab Nat
  node : Tab NodeImg
  fills : Tab (List W64)
deriving DecidableEq, Repr

/-- No Stroke section: every weight is 0. -/
def StkImg.none : StkImg :=
  ⟨0, 0, 0, 0, 0, 0, 0, 0, 0, 0, 0, 0, 0, Tab.const 0, Tab.const ⟨0, 15, 0, 0, 0, []⟩, Tab.const []⟩

/-- The values Stroke distributes in a period (R336, table *Values distributed each period*), before R344 and R345;
`codes` are the caps in whole wu, as STK_NODE shows them. -/
structure StkVals where
  a : Q
  up : Q
  dn : Q
  caps : Tab Q
  codes : Tab Nat
deriving DecidableEq, Repr

/-- Values of a governor that is off. -/
def StkVals.none : StkVals := ⟨Q.zero, Q.zero, Q.zero, Tab.const Q.zero, Tab.const 0⟩

/-- The buckets of one Rowlock (R338, R340), as they stood at `at_`. -/
structure Bucket where
  up : Q
  down : Q
  at_ : Nat
deriving DecidableEq, Repr

/-- One alert line (R343): `event` is an event that lasts (or a stuck line that reads 1), `since` when it began, `low`
since when the line reads 0, `effect` whether R344 still applies (it ends with the period). -/
structure Alert where
  event : Bool
  since : Nat
  low : Nat
  stuck : Bool
  effect : Bool
deriving DecidableEq, Repr

/-- A quiet line. -/
def Alert.reset : Alert := ⟨false, 0, 0, false, false⟩

/-- One telemetry channel (R336, R345): the sum and the number of the period's samples, the last samples (64 at most), and
when the last came. -/
structure Chan where
  sum : Nat
  n : Nat
  last : List Nat
  at_ : Nat
deriving DecidableEq, Repr

/-- A silent channel. -/
def Chan.reset : Chan := ⟨0, 0, [], 0⟩

/-- Stroke. `img` is the Stroke section in effect; `force` are the values the Rowlocks apply, `sent` those delivered for the
next period. `held` is the load cap that an over-current event fixed for each cluster, before w_min. `fullStart` says that a
compute reset found Stroke off, or that it was enabled during the reset: the buckets are full when it enters TRACK (R346). -/
structure Stk where
  cfg : W64
  img : StkImg
  g : Q
  gainCode : Nat
  force : StkVals
  sent : StkVals
  loads : Nat
  lTotal : Nat
  allowCode : Nat
  buckets : Tab Bucket
  oc : Alert
  th : Alert
  held : Tab Nat
  chans : Tab Chan
  stale : List Nat
  period : Nat
  since : Nat
  delayed : Nat
  delayTu : Nat
  fillCount : Nat
  downOver : Nat
  ocEvents : Nat
  thEvents : Nat
  late : Nat
  fullStart : Bool
deriving DecidableEq, Repr

/-- Stroke at reset (R349): stagger 1, up_derate 255, therm_margin 8, oc_shed 1, th_shed 2, disabled. -/
def Stk.reset : Stk where
  cfg := 0x8847FC
  img := StkImg.none
  g := Q.one
  gainCode := 0
  force := StkVals.none
  sent := StkVals.none
  loads := 0
  lTotal := 0
  allowCode := 0
  buckets := Tab.const ⟨Q.zero, Q.zero, 0⟩
  oc := Alert.reset
  th := Alert.reset
  held := Tab.const 0
  chans := Tab.const Chan.reset
  stale := []
  period := 0
  since := 0
  delayed := 0
  delayTu := 0
  fillCount := 0
  downOver := 0
  ocEvents := 0
  thEvents := 0
  late := 0
  fullStart := true

end Sys2Proof.Machine
end

