-- ==== Sys2Proof/Machine/PartUmp.lean ====
section
/-! DEFINITION. State of Timekeeper, Umpire and Rigger: time, the error log, the compute reset, the image in force. -/
namespace Sys2Proof.Machine

/-- Timekeeper (R351 to R356). `frac` is the fraction of a tu, in units of 10^-9 tu, that the trimmed rate has gained and
`now` does not show yet. -/
structure Tkp where
  now : Nat
  frac : Nat
  locked : Bool
  loadRefused : Bool
  pulseStuck : Bool
  pulseCount : W32
  cfg : W64
  load : W64
  pulse : Nat
  lastPulse : Option Nat
deriving DecidableEq, Repr

/-- Timekeeper at reset: time 0, pulse_mode 1 (R351, R356). -/
def Tkp.reset : Tkp := ⟨0, 0, false, false, false, 0, 1, 0, 0, none⟩

/-- States of the compute reset (R391). -/
inductive RstSt where
  | run | quiesce | capture | engReset | clear | recover | dead
deriving DecidableEq, Repr

/-- A node of a wait-for record (R388). -/
structure WfgNode where
  ring : Nat
  seat : Nat
  edge : Nat
  parked : Bool
  count : Count
  fence : Nat
deriving DecidableEq, Repr

/-- A wait-for record (R388). -/
structure WfgRec where
  number : Nat
  time : Nat
  truncated : Bool
  failed : Nat
  nodes : List WfgNode
deriving DecidableEq, Repr

/-- Umpire (R378 to R410). `ends` are the ends of the last two compute resets, the newest first (R405); `dumpHead` is the
header of the dump being written, and `dumpNext` the dumps that wait for it (class, code, time, requested); `lastBeat` is Foantong's last signal; `lateRows` are the Rowlocks that did not report and
`stateful` the contexts that the collection of R392 found stateful; `capturedAt` is when the collection
began. -/
structure Ump where
  cfg : W64
  wd : W64
  log : Tab LogSlot
  logLost : Nat
  irqWaiting : Bool
  rst : RstSt
  incarn : Nat
  cause : BitVec 16
  resets : Nat
  resetUs : Nat
  recoverUs : Nat
  detectedAt : Nat
  ends : List Nat
  dumpBase : W64
  dumpArmed : Bool
  dumpBusy : Bool
  dumpHead : List W64
  dumpNext : List (Nat × BitVec 16 × Nat × Bool)
  hang : Tab (List (W64 × W64))
  hangFrozen : Bool
  wfg : List WfgRec
  wfgCount : Nat
  lastBeat : Nat
  porN : Bool
  capturedAt : Nat
  lateRows : List Nat
  stateful : List CtxId
deriving DecidableEq, Repr

/-- Umpire at reset: irq_class 1, cmd_ms 5, unit_ms 50, fw_ms 10 (R410). -/
def Ump.reset : Ump where
  cfg := 0x1000
  wd := 0xA3205
  log := Tab.const ⟨LogRec.zero, false, .nothing⟩
  logLost := 0
  irqWaiting := false
  rst := .run
  incarn := 0
  cause := 0
  resets := 0
  resetUs := 0
  recoverUs := 0
  detectedAt := 0
  ends := []
  dumpBase := 0
  dumpArmed := false
  dumpBusy := false
  dumpHead := []
  dumpNext := []
  hang := Tab.const []
  hangFrozen := false
  wfg := []
  wfgCount := 0
  lastBeat := 0
  porN := true
  capturedAt := 0
  lateRows := []
  stateful := []

/-- Rigger's states (R430). -/
inductive RigSt where
  | blank | applied | staged | switched | retiring
deriving DecidableEq, Repr

/-- What an applied image says (R181, R206, R322, R332, R348, R415 to R417): its bytes as they lie in memory from the base
address it was read at, and what the block decodes from them. -/
structure Image where
  base : Nat
  bytes : List Byte
  crews : Tab Crew
  classes : Tab Nat
  copyClass : Nat
  spadKib : Nat
  accKib : Nat
  stroke : StkImg
deriving DecidableEq, Repr

/-- No image. -/
def Image.none : Image := ⟨0, [], Tab.const Crew.reset, Tab.const 0, 0, 0, 0, StkImg.none⟩

/-- Rigger (R415 to R431). `now` is the image in force and `old` the one an epoch swap is retiring. -/
structure Rig where
  stage : W64
  st : RigSt
  busy : Bool
  result : Nat
  badSection : Nat
  badOffset : Nat
  image : W64
  now : Image
  old : Option Image
  staged : Option Image
  epoch : Nat
  switchedAt : Nat
  testDone : Bool
  testPass : Bool
  firstIsland : Nat
  failedCount : Nat
  lock : Bool
  swapOk : Bool
  fwVersion : Nat
  digestSlot : Nat
  fwRunning : Bool
deriving DecidableEq, Repr

/-- Rigger at reset (R430). -/
def Rig.reset : Rig where
  stage := 0
  st := .blank
  busy := false
  result := 0
  badSection := 0
  badOffset := 0
  image := 0
  now := Image.none
  old := none
  staged := none
  epoch := 0
  switchedAt := 0
  testDone := false
  testPass := false
  firstIsland := 0
  failedCount := 0
  lock := false
  swapOk := true
  fwVersion := 0
  digestSlot := 0
  fwRunning := false

end Sys2Proof.Machine
end

