-- ==== Sys2Proof/Machine/State.lean ====
section
/-! DEFINITION. The state of the block as plain data, its reset, and the reasons a command can stop. -/
namespace Sys2Proof.Machine

/-- Why a command stops the model. -/
inductive Fault where
  /-- Raised by the meanings of the environment's inputs (responses, engine lines, crossing acknowledgements, pins) when
  the input breaks the rules of its port: a response that carries no outstanding tag, a Finish with no command running.
  R1: the behaviour is not defined. Safe: the model stops where the spec gives no behaviour. -/
  | portProtocol (port : String)
  /-- Raised by the meanings of inputs that name a unit the build lacks (a cluster, an engine, a line number): the block
  has no such port. Safe: no such input exists. -/
  | notBuilt (unit : String)
deriving DecidableEq, Repr

/-- Why the model refuses a command. -/
inductive Refusal where
  /-- Raised by an arm of the dispatch whose instruction has no meaning in the model yet. Safe: the model stops. -/
  | notModelled (mnemonic : String)
deriving DecidableEq, Repr

/-- The whole state of the block. `pending` is the queue of commands that wait, first in, first out; `fresh` counts the
free values taken (the model's own field). `build` holds the build parameters; no command changes it. -/
structure State where
  build : Build
  tkp : Tkp
  ump : Ump
  rig : Rig
  mar : Mar
  cox : Cox
  rack : Rack
  mem : Mem
  sld : Sld
  heat : Heat
  judge : Judge
  stk : Stk
  bhs : Bhs
  fab : Fabric
  stb : Stb
  ports : Ports
  wake : Wake
  erg : Erg
  fresh : Nat
  pending : List Instr
deriving DecidableEq, Repr

/-- The block right after reset, before any command. -/
def State.reset : State where
  build := Build.largest
  tkp := Tkp.reset
  ump := Ump.reset
  rig := Rig.reset
  mar := Mar.reset
  cox := Cox.reset
  rack := Rack.reset
  mem := Mem.reset
  sld := Sld.reset
  heat := Heat.reset
  judge := Judge.reset
  stk := Stk.reset
  bhs := Bhs.reset
  fab := Fabric.reset
  stb := Stb.reset
  ports := Ports.reset
  wake := Wake.reset
  erg := Erg.reset
  fresh := 0
  pending := []

end Sys2Proof.Machine
end

