-- ==== Sys2Proof/Machine/Observe.lean ====
section
/-! DEFINITION. What every unit does beside its work: stamps, trace records, counters, hang rings, the error log. -/
namespace Sys2Proof.Machine

/-- The time every island's copy shows. DESIGN CHOICE (assumption 3): the copies agree exactly with the master. -/
def State.now (s : State) : Nat := s.tkp.now

/-- A compute reset is in progress from QUIESCE to the end of CLEAR (R380). -/
def inReset (s : State) : Bool :=
  s.ump.rst == .quiesce || s.ump.rst == .capture || s.ump.rst == .engReset || s.ump.rst == .clear

/-- Compute islands do work: neither a compute reset in progress (R46) nor DEAD (R408), and por_n is 1 (R44). -/
def computeUp (s : State) : Bool := !(inReset s) && s.ump.rst != .dead && s.ump.porN
/-- Fences may be written: compute islands do work, or every engine has completed its reset (R46, R394). -/
def fencesUp (s : State) : Bool := computeUp s || s.ump.rst == .clear

/-- A free value: the spec leaves the number open. `site` tells the uses apart (the assumption log lists them). -/
def State.freeValue (s : State) (site : Nat) : Nat := Config.freeNat site s.fresh
/-- Step past a free value. -/
def State.nextFree (s : State) : State := { s with fresh := s.fresh + 1 }

/-- Raise an interrupt on irq_vector. -/
def raiseIrq (v : Nat) (s : State) : State := { s with ports := { s.ports with irqs := s.ports.irqs ++ [v] } }

/-- A hang event of an island (R387): the last 64 are kept, and none while the rings are frozen. -/
def hangEv (isl code : Nat) (detail : Nat) (s : State) : State :=
  if s.ump.hangFrozen then s else
    let e : W64 × W64 := (w64 (put s.now 0 48 + put code 48 8), w64 detail)
    { s with ump := { s.ump with hang := s.ump.hang.upd isl fun l => (l ++ [e]).drop (l.length + 1 - 64) } }

/-- A STATE event (R387): a machine's instance goes from one state to another, as registers number them. -/
def stateEv (isl machine inst old new : Nat) (s : State) : State :=
  if old == new then s else hangEv isl 0x05 (put (Config.hangNumber machine) 0 8 + put old 8 8 + put new 16 8 + put inst 32 32) s
/-- A REFUSE or ACCEPT event (R387): an input is refused, or its refusal has ended. -/
def refuseEv (isl input : Nat) (was is : Bool) (s : State) : State :=
  if was == is then s else hangEv isl (if is then 0x0B else 0x0C) (put (Config.hangNumber input) 0 8) s

/-! ### Erg -/

/-- The qualifiers an event carries (R367). -/
structure Qual where
  ctx : Option CtxId := none
  cluster : Option Nat := none
  engine : Option Nat := none
  cls : Option Nat := none
  tag : Option Nat := none

/-- Erg counts events stamped now: not while frozen from F on, nor before a freeze's end instant (R372). -/
def ergActive (s : State) : Bool :=
  s.build.hasErg && computeUp s &&
  (s.now < s.erg.freezeTime || (!s.erg.frozen && s.erg.resumeAt ≤ s.now))
/-- The sources whose events happen at keel islands: ENTRY_DONE, DOORBELL and ENTRY_NS, Marshal's (R39, R367). -/
def keelSource (id : Nat) : Bool := id == 9 || id == 10 || id == 49
/-- Erg counts an event of a source now: in a compute reset the sources of compute islands count nothing (R374). -/
def ergCounts (id : Nat) (s : State) : Bool :=
  ergActive s || (keelSource id && s.build.hasErg && inReset s && s.ump.porN &&
    (decide (s.now < s.erg.freezeTime) || (!s.erg.frozen && decide (s.erg.resumeAt ≤ s.now))))

/-- Start a freeze (R372): F is 800 tu from now; a second trigger has no effect. -/
def freezeStart (s : State) : State :=
  if s.build.hasErg && !s.erg.frozen && s.erg.resumeAt ≤ s.now then
    { s with erg := { s.erg with frozen := true, freezeTime := s.now + 800 } }
  else s

/-- A demanded qualifier matches (R367): a counter that demands a qualifier the event does not list never matches it. -/
def qualOk (want : Bool) (v : Nat) (have_ : Option Nat) : Bool := !want || have_ == some v

/-- An event passes a counter's qualifiers (R367, R368). -/
def ctrMatch (c : Counter) (id : Nat) (q : Qual) : Bool :=
  fld c.cfg 0 8 == id &&
  qualOk (bit c.cfg 8) (fld c.cfg 9 16) (q.ctx.map BitVec.toNat) &&
  qualOk (bit c.cfg 25) (fld c.cfg 26 9) q.cluster &&
  qualOk (bit c.cfg 35) (fld c.cfg 36 3) q.engine &&
  qualOk (bit c.cfg 39) (fld c.cfg 40 4) q.cls &&
  (match fld c.cfg 44 2 with
   | 1 => q.tag.map (· / 2 ^ 32) == some (fld c.tag 32 16)
   | 2 => q.tag == some (fld c.tag 0 48)
   | _ => true)

/-- A counter takes a value and R371 is applied: reaching the threshold with thr_en sets trig_out[1]. -/
def ctrTake (i : Nat) (v : Nat) (s : State) : State :=
  let c := s.erg.counters.get i
  let c' : Counter := { c with value := v % 2 ^ 64 }
  let reached := bit c.cfg 46 && fld c.thr 0 64 ≤ v % 2 ^ 64 && !(fld c.thr 0 64 ≤ c.value && c.crossed)
  let s1 : State := { s with erg := { s.erg with
    counters := s.erg.counters.set i { c' with crossed := bit c.cfg 46 && fld c.thr 0 64 ≤ v % 2 ^ 64 } } }
  if reached then
    let s2 : State := { s1 with erg := { s1.erg with trigOut1 := true } }
    if bit c.cfg 47 then freezeStart s2 else s2
  else s1

/-- Apply one event to counter `i`. -/
def ergOne (id amount : Nat) (q : Qual) (s : State) (i : Nat) : State :=
  let c := s.erg.counters.get i
  if ctrMatch c id q then ctrTake i (c.value + amount) s else s

/-- A count event with an amount (R367, R368). -/
def ergCount (id amount : Nat) (q : Qual) (s : State) : State :=
  if ergCounts id s then each (List.range 64) (ergOne id amount q) s else s

/-- The bin of a value (R369). -/
def histBin (cfg : W64) (v : Nat) : Nat :=
  let sh := fld cfg 9 5
  if bit cfg 8 then (if v < 2 ^ sh then 0 else min 31 (Nat.log2 v - sh + 1)) else min 31 (v / 2 ^ sh)

/-- Bin a value in histogram `h` (R369); bins are 32-bit and saturate. -/
def histOne (id v : Nat) (ctx : Option CtxId) (s : State) (h : Nat) : State :=
  let hi := s.erg.hists.get h
  if bit hi.cfg 31 && fld hi.cfg 0 8 == id && qualOk (bit hi.cfg 14) (fld hi.cfg 15 16) (ctx.map BitVec.toNat) then
    { s with erg := { s.erg with
      hists := s.erg.hists.set h { hi with bins := hi.bins.upd (histBin hi.cfg v) fun n => satAdd 32 n 1 } } }
  else s

/-- A value event (R367): histograms bin the value, and a counter that names the source counts 1. -/
def ergValue (id v : Nat) (q : Qual) (s : State) : State :=
  if ergCounts id s then ergCount id 1 q (each (List.range 4) (histOne id v q.ctx) s) else s

/-! ### Wake -/

/-- Word 0 of a trace record (R357). -/
def recWord0 (kind : Nat) (long : Bool) (stamp : Nat) : W64 :=
  w64 (put kind 0 6 + putb long 6 + put stamp 8 56)

/-- A record is lost to a stream (R364): counted, and the first loss of its source is remembered for the LOSS record. -/
def loseRec (st : Stream) (r : Nat × Nat) : Stream :=
  { st with
    lost := satAdd 64 st.lost 1
    lossAt := if st.lossAt.any fun x => x.2.1 == r.2 then
        st.lossAt.map fun x => if x.2.1 == r.2 then (min x.1 r.1, r.2, satAdd 32 x.2.2 1) else x
      else st.lossAt ++ [(r.1, r.2, 1)] }
/-- Records are lost to a stream, each with its stamp and its source. -/
def loseRecs (rs : List (Nat × Nat)) (st : Stream) : Stream := rs.foldl loseRec st
/-- The stamp and the source of a record. -/
def TraceRec.src (r : TraceRec) : Nat × Nat := (r.stamp, r.island)

/-- A stream's ring size in bytes. -/
def traceSize (st : Stream) : Nat := 2 ^ fld st.ring 0 6
/-- The ring can take a block (R363): always in mode WRAP. -/
def traceRoom (st : Stream) : Bool := bit st.filter 1 || st.written + 128 - st.consumed ≤ traceSize st

/-- The LOSS records that a stream owes, once it can take a record again (R364): one for each source that lost records
(assumption 68). -/
def lossRec (st : Stream) : List TraceRec :=
  st.lossAt.map fun x => ⟨0, islWak, x.1, [recWord0 12 false x.1, w64 (put x.2.2 0 32 + put x.2.1 32 10)]⟩

/-- The records that Wake's streams hold. -/
def heldRecs (s : State) : List TraceRec := (List.range 8).flatMap fun i => (s.wake.streams.get i).recs
/-- The number that tells a new record from those held. -/
def nextRec (s : State) : Nat := ((heldRecs s).map TraceRec.id).foldl max 0 + 1
/-- A record that an island stamps now is lost (R364, R365): the island already buffers 64 records, or a compute reset has
stopped it. -/
def recLost (s : State) (isl : Nat) : Bool :=
  !(computeUp s || isKeel isl) || decide (64 ≤ (((heldRecs s).filter fun r => r.island == isl).map TraceRec.id).eraseDups.length)

/-- A record reaches one stream (R361, R364), or is lost to it. -/
def streamTake (gone : Bool) (r : TraceRec) (st : Stream) : Stream :=
  if gone then loseRecs [r.src] st
  else if traceRoom st then { st with recs := st.recs ++ lossRec st ++ [r], lossAt := [] }
  else { st with recs := st.recs ++ [r] }

/-- Records packed into a block of 16 words (R361, R362): the words, the records that are left, and how many were packed. A long
record starts on a 32-byte boundary, after a PAD. -/
def packBlock (words : List W64) (n : Nat) : List TraceRec → List W64 × List TraceRec × Nat
  | [] => (words, [], n)
  | r :: rest =>
    if 16 ≤ words.length then (words, r :: rest, n)
    else
      let w := if r.words.length = 4 && words.length % 4 = 2 then words ++ [0, 0] else words
      if 16 ≤ w.length then (w, r :: rest, n) else packBlock (w ++ r.words) (n + 1) rest

/-- Tags of the trace port in use. -/
def traceTags (s : State) : List Nat := (List.range 8).flatMap fun i => (s.wake.streams.get i).blocks.map (·.tag)

/-- Write the first block of a stream's records (R362), completed with PAD records; in mode STOP without room its records are
lost, with source 1,023 (R363, R364). Nothing while the port's 64 tags are in use, nor while compute islands are stopped (R46). -/
def writeBlock (i : Nat) (s : State) : State :=
  let st := s.wake.streams.get i
  let tags := traceTags s
  if st.recs.isEmpty || 64 ≤ tags.length || !(computeUp s) then s else
  let (w, rest, n) := packBlock [] 0 st.recs
  let srcs := (st.recs.take n).map TraceRec.src
  if !(traceRoom st) then
    { s with wake := { s.wake with
      streams := s.wake.streams.set i (loseRecs (srcs.map fun x => (x.1, islNone)) { st with recs := rest }) } }
  else
    let tag := leastFree tags 64 0
    let addr := fld st.ring 12 44 * 4096 + st.issued % traceSize st
    let last := match (st.recs.take n).getLast? with | some r => r.stamp | none => st.lastStamp
    hangEv islWak 0x01 (4 + put tag 4 10 + put (addr / 256) 16 48) { s with wake := { s.wake with
      streams := s.wake.streams.set i { st with
        recs := rest, issued := st.issued + 128, lastStamp := last
        blocks := st.blocks ++ [⟨tag, addr, w ++ List.replicate (16 - w.length) 0, st.issued + 128, srcs, false, false, s.now, false⟩] } } }

/-- Write blocks while the records fill whole ones. -/
def writeFull (i : Nat) : Nat → State → State
  | 0, s => s
  | fuel + 1, s =>
    if (packBlock [] 0 (s.wake.streams.get i).recs).1.length < 16 || 64 ≤ (traceTags s).length || !(computeUp s) then s
    else writeFull i fuel (writeBlock i s)

/-- The filters of R360 on one stream. `sample` is the running number of the sampled event. -/
def streamWants (st : Stream) (kind : Nat) (ctx : Option CtxId) (cluster : Option Nat) (sample : Option Nat) : Bool :=
  bit st.filter (8 + kind) &&
  (match ctx with
   | some c => !(bit st.filter 3) || c.toNat == fld st.filter 24 16
   | none => true) &&
  (match cluster with
   | some c => fld st.clusters 0 9 ≤ c && c ≤ fld st.clusters 16 9
   | none => true) &&
  (match sample with
   | some n => n % 2 ^ fld st.filter 4 4 == 0
   | none => true)

/-- How a record is sampled (R360): not at all, as a new event of a source, or following the source's last event. -/
inductive Sampling where
  | none | fresh (key : Nat) | follow (key : Nat)

/-- A stream with freeze_stop accepts no record from F on, until it resumes (R372). -/
def streamStopped (s : State) (st : Stream) : Bool :=
  st.stopped || (s.erg.frozen && bit st.filter 2 && decide (s.erg.freezeTime ≤ s.now))

/-- Test one event against stream `i` and place its record, number `id`, or lose it (R360, R364). -/
def wakeOne (gone : Bool) (id isl kind : Nat) (long : Bool) (ctx : Option CtxId) (cluster : Option Nat) (smp : Sampling) (forced : Bool)
    (words : List W64) (s : State) (i : Nat) : State :=
  let st := s.wake.streams.get i
  if !st.enabled || streamStopped s st then s else
    let (n, st1) : Option Nat × Stream := match smp with
      | .none => (none, st)
      | .fresh k => (some (st.samples.get k), { st with samples := st.samples.upd k (· + 1) })
      | .follow k => (some (st.samples.get k - 1), st)
    let always := kind == 0 || kind == 11 || kind == 12 || kind == 13
    let st2 := if always || forced || streamWants st1 kind ctx cluster n then
        streamTake gone ⟨id, isl, s.now, recWord0 kind long s.now :: words⟩ st1
      else st1
    writeFull i 8 { s with wake := { s.wake with streams := s.wake.streams.set i st2 } }

/-- An event for Wake: its record goes to each stream whose filter accepts it (R360). -/
def wakeRec (isl kind : Nat) (long : Bool) (ctx : Option CtxId) (cluster : Option Nat) (smp : Sampling) (forced : Bool)
    (words : List W64) (s : State) : State :=
  if s.build.hasWake then each (List.range 8) (wakeOne (recLost s isl) (nextRec s) isl kind long ctx cluster smp forced words) s else s

/-- A record without cluster or sampling. -/
def wakeEv (isl kind : Nat) (long : Bool) (ctx : Option CtxId) (words : List W64) (s : State) : State :=
  wakeRec isl kind long ctx none .none false words s

/-! ### The error log -/

/-- The fence of the entry at a ring's latched count is still to be failed: the entry is in the window, or is posted. -/
def latchOpen (s : State) (r : Nat) : Bool :=
  let c := (s.mar.rings.get r).latched
  (s.mar.works.any fun w => w.owner == .entry r c && w.failed.isSome && w.fence != .done) ||
  (s.ports.at_.any fun q => match q.why with | .failFence w _ _ _ => w == .posted r c && !q.stale | _ => false) ||
  s.ports.owedFails.any fun f => f.1 == .posted r c
/-- Whether the action on a logged error is unfinished (R380). A class-2 error is acted on under R80 once the ring has
stopped and the failing entry's work has stopped with its fence failed (the seat table's action, R116). -/
def pendNow (s : State) : PendWhy → Bool
  | .nothing => false
  | .work o => s.mar.works.any fun w => w.owner == o && w.failed.isSome && w.fence != .done
  | .ring r => (s.mar.rings.get r).st != .unbound && (s.mar.rings.get r).latchPending &&
      ((s.mar.rings.get r).st != .stopped || latchOpen s r)
  | .works os => s.mar.works.any fun w => os.contains w.owner && w.fence != .done
  | .loop l => (s.heat.loops.get l).ending.isSome
  | .reset => s.ump.rst != .run && s.ump.rst != .dead
  | .dead => s.ump.rst != .dead

/-- What a class-3 error of a context leaves pending (R380): its commands in flight. -/
def ctxWhy (s : State) (c : CtxId) : PendWhy :=
  .works ((s.mar.works.filter fun w => w.ctx == c && w.fence != .done).map (·.owner))

/-- Records whose action is finished are pending no more, whatever comes later (R380). -/
def settleLog (s : State) : Tab LogSlot :=
  let one (l : LogSlot) : LogSlot := if pendNow s l.why then l else { l with why := .nothing }
  ⟨one s.ump.log.dflt, s.ump.log.cells.map fun p => (p.1, one p.2)⟩

/-- Slot `i` of the error log is pending. -/
def slotPending (s : State) (i : Nat) : Bool :=
  let l := s.ump.log.get i
  l.valid && pendNow s l.why

/-- The slot a record takes (R379): the lowest free one of 0 to 14, or 15 for class 5. -/
def logSlotFor (s : State) (cls : Nat) : Option Nat :=
  match (List.range 15).find? fun i => !(s.ump.log.get i).valid with
  | some i => some i
  | none => if cls == 5 && !(s.ump.log.get 15).valid then some 15 else none

/-- Umpire writes one error-log record (R378 to R381), lets Erg freeze on it (R372), and raises its interrupt. -/
def logRec (why : PendWhy) (r : LogRec) (s : State) : State :=
  let nested := (List.range 16).any (slotPending s)
  let rec_ : LogRec := { r with time := s.now, nested := nested }
  let s1 := hangEv r.island 0x0A (put r.cls 0 7 + put r.code.toNat 7 16 + put r.info 32 32) s
  let s2 : State := match logSlotFor s1 r.cls with
    | none => { s1 with ump := { s1.ump with logLost := satAdd 64 s1.ump.logLost 1 } }
    | some i =>
      let s3 : State := { s1 with ump := { s1.ump with log := (settleLog s1).set i ⟨rec_, true, why⟩ } }
      if bit s3.ump.cfg 11 && fld s3.ump.cfg 12 3 ≤ r.cls && !s3.ump.irqWaiting then
        raiseIrq (fld s3.ump.cfg 0 11) { s3 with ump := { s3.ump with irqWaiting := true } }
      else s3
  if bit s2.erg.freeze 3 && fld s2.erg.freeze 4 3 ≤ r.cls then freezeStart s2 else s2

end Sys2Proof.Machine
end

