-- ==== Sys2Proof/Machine/Ops.lean ====
section
/-! DEFINITION. The shared operations: access to the parts of State, requests on the ports, contexts, objects, fences. -/
namespace Sys2Proof.Machine

/-! ### Error codes -/

def eFenceValue : BitVec 16 := 0x20
def eUpstreamFence : BitVec 16 := 0x21
def eStaleHandle : BitVec 16 := 0x40
def eObjectAccess : BitVec 16 := 0x41
def eObjectFreed : BitVec 16 := 0x42
def eRefUnderflow : BitVec 16 := 0x43
def eRefOverflow : BitVec 16 := 0x44
def eObjectTableFull : BitVec 16 := 0x45
def eXlatFault : BitVec 16 := 0x46
def ePoisonedObject : BitVec 16 := 0x47
def eContextKilled : BitVec 16 := 0x60
def eMalformedEntry : BitVec 16 := 0x80
def eRingFetch : BitVec 16 := 0x81
def eEntryTimeout : BitVec 16 := 0x82
def eRingAbandoned : BitVec 16 := 0x83
def eDoorbellStorm : BitVec 16 := 0x84
def eCompletionWrite : BitVec 16 := 0x85
def eBadOpcode : BitVec 16 := 0xA0
def eProgramBounds : BitVec 16 := 0xA1
def eProgramFetch : BitVec 16 := 0xA2
def eBadOperand : BitVec 16 := 0xA3
def ePrivilege : BitVec 16 := 0xA4
def eWaitTimeout : BitVec 16 := 0xA5
def eDeferLimit : BitVec 16 := 0xA6
def eStaleCourse : BitVec 16 := 0xC0
def eCourseInvalid : BitVec 16 := 0xC1
def eCourseParams : BitVec 16 := 0xC2
def eCallDepth : BitVec 16 := 0xC3
def eCoursePinLimit : BitVec 16 := 0xC4
def eEnqueueRing : BitVec 16 := 0xC5
def eEnqueueLevel : BitVec 16 := 0xC6
def eEnqueueFull : BitVec 16 := 0xC7
def eEnqueueWrite : BitVec 16 := 0xC8
def eEngineClass : BitVec 16 := 0xE0
def eBadHeader : BitVec 16 := 0xE1
def eEngineReport : BitVec 16 := 0xE2
def eDeadlock : BitVec 16 := 0x100
def eSyncOverflow : BitVec 16 := 0x101
def eCrossingLost : BitVec 16 := 0x102
def eCrossingRejected : BitVec 16 := 0x103
def eLinkLost : BitVec 16 := 0x104
def eBadArrival : BitVec 16 := 0x105
def eArrivalStall : BitVec 16 := 0x106
def eHeatCourseStatus : BitVec 16 := 0x120
def eHeatTimeout : BitVec 16 := 0x121
def eBadRequest : BitVec 16 := 0x122
def eRequestRead : BitVec 16 := 0x123
def eResultWrite : BitVec 16 := 0x124
def eJudgeParams : BitVec 16 := 0x140
def eJudgeHeader : BitVec 16 := 0x141
def eJudgeEmpty : BitVec 16 := 0x142
def eJudgePartial : BitVec 16 := 0x143
def eJudgeDrafts : BitVec 16 := 0x144
def eJudgeRequest : BitVec 16 := 0x145
def ePartitionFull : BitVec 16 := 0x160
def eKvExhausted : BitVec 16 := 0x161
def eKvList : BitVec 16 := 0x162
def eKvLimit : BitVec 16 := 0x163
def eKvSpilled : BitVec 16 := 0x164
def eSaveMap : BitVec 16 := 0x165
def eSaveState : BitVec 16 := 0x166
def eTierFull : BitVec 16 := 0x167
def eStuckAlert : BitVec 16 := 0x180
def eTelemetryStale : BitVec 16 := 0x181
def eStuckInput : BitVec 16 := 0x1A0
def eTimeLoad : BitVec 16 := 0x1A1
def eTraceWrite : BitVec 16 := 0x1A2
def eCounterPublish : BitVec 16 := 0x1A3
def eTargetLost : BitVec 16 := 0x1C0
def eResponseTimeout : BitVec 16 := 0x1C1
def eResponseLost : BitVec 16 := 0x1C2
def eEngineHang : BitVec 16 := 0x1C3
def eUnitHang : BitVec 16 := 0x1C4
def eFirmwareHang : BitVec 16 := 0x1C5
def eClusterReset : BitVec 16 := 0x1C6
def eComputeReset : BitVec 16 := 0x1C7
def eReplayUnsafe : BitVec 16 := 0x1C8
def eReplayLimit : BitVec 16 := 0x1C9
def eResetLoop : BitVec 16 := 0x1CA
def eDriverReset : BitVec 16 := 0x1CB
def eBlockAccess : BitVec 16 := 0x1CC
def eLoopState : BitVec 16 := 0x1CD
def eJournalWrite : BitVec 16 := 0x1CE
def eRefetchFailed : BitVec 16 := 0x1CF
def eDumpWrite : BitVec 16 := 0x1D0

/-- The class-1 code of an xlat or poison response (R126, R187). -/
def respCode : RespErr → BitVec 16
  | .poison => ePoisonedObject
  | _ => eXlatFault

/-! ### Access to the parts of State -/

def State.ring (s : State) (r : Nat) : Ring := s.mar.rings.get r
def State.seat (s : State) (i : Nat) : Seat := s.mar.seats.get i
def State.slot (s : State) (i : Nat) : Slot := s.mar.slots.get i
def State.core (s : State) (k : Nat) : Core := s.cox.cores.get k
def State.row (s : State) (c : Nat) : Rowlock := s.fab.rows.get c
def State.tree (s : State) (t : Nat) : Tree := s.fab.trees.get t

def updMar (f : Mar → Mar) (s : State) : State := { s with mar := f s.mar }
def updRing (r : Nat) (f : Ring → Ring) (s : State) : State :=
  { s with mar := { s.mar with rings := s.mar.rings.upd r f } }
def updSeat (i : Nat) (f : Seat → Seat) (s : State) : State :=
  { s with mar := { s.mar with seats := s.mar.seats.upd i f } }
/-- The numbers that MAR_SEAT_STATE and ROW_ENG_STATUS give the states. -/
def seatStNum : SeatSt → Nat | .empty => 0 | .idle => 1 | .ready => 2 | .run => 3 | .wait => 4 | .drain => 5 | .stopped => 6
def engStNum : EngSt → Nat
  | .idle => 0 | .present => 1 | .run => 2 | .runPresent => 3 | .preempt => 4 | .unpreempt => 5 | .reset => 6
/-- A seat whose state may change (R387). -/
def moveSeat (i : Nat) (f : Seat → Seat) (s : State) : State :=
  let t := updSeat i f s
  stateEv islMar 0 i (seatStNum (s.seat i).st) (seatStNum (t.seat i).st) t
def updSlot (i : Nat) (f : Slot → Slot) (s : State) : State :=
  { s with mar := { s.mar with slots := s.mar.slots.upd i f } }
def updCore (k : Nat) (f : Core → Core) (s : State) : State :=
  { s with cox := { s.cox with cores := s.cox.cores.upd k f } }
def updRow (c : Nat) (f : Rowlock → Rowlock) (s : State) : State :=
  { s with fab := { s.fab with rows := s.fab.rows.upd c f } }
def updTree (t : Nat) (f : Tree → Tree) (s : State) : State :=
  { s with fab := { s.fab with trees := s.fab.trees.upd t f } }
def updEng (c e : Nat) (f : Engine → Engine) (s : State) : State :=
  updRow c (fun r => { r with engines := r.engines.upd e f }) s
/-- An engine channel whose state may change (R387). -/
def moveEng (c e : Nat) (f : Engine → Engine) (s : State) : State :=
  let t := updEng c e f s
  let st (x : State) : Nat := engStNum ((x.row c).engines.get e).st
  stateEv (islRow c) 1 e (st s) (st t) t
def updRack (f : Rack → Rack) (s : State) : State := { s with rack := f s.rack }
def updObj (i : Nat) (f : Obj → Obj) (s : State) : State :=
  { s with rack := { s.rack with
    objs := s.rack.objs.upd i f, dirty := if s.rack.dirty.contains i then s.rack.dirty else s.rack.dirty ++ [i] } }
def updPorts (f : Ports → Ports) (s : State) : State := { s with ports := f s.ports }
def updUmp (f : Ump → Ump) (s : State) : State := { s with ump := f s.ump }

/-- The work of an owner, if it is in a window. -/
def State.work? (s : State) (o : Owner) : Option Work := s.mar.works.find? fun w => w.owner == o
/-- Change the work of an owner. -/
def updWork (o : Owner) (f : Work → Work) (s : State) : State :=
  updMar (fun m => { m with works := mapFirst (fun w => w.owner == o) f m.works }) s
/-- The work that launches and reports of a seat and an entry field belong to (R180, R199). -/
def State.workAt (s : State) (seat : Nat) (entry : Count) : Option Work :=
  s.mar.works.find? fun w => w.seat == seat && w.count == entry
/-- The program running on a seat. -/
def State.prog? (s : State) (seat : Nat) : Option Prog := (s.seat seat).prog
/-- Change the program of a seat. -/
def updProg (seat : Nat) (f : Prog → Prog) (s : State) : State :=
  updSeat seat (fun st => { st with prog := st.prog.map f }) s

/-! ### Contexts -/

/-- The slot that holds a context id (R54): live in any state but FREE. -/
def slotOf (s : State) (c : CtxId) : Option Nat :=
  (s.mar.slots.cells.find? fun p => p.1 < 1024 && p.2.st != .free && p.2.ctxId == c).map Prod.fst
/-- A context's state; FREE when no slot holds the id. -/
def ctxSt (s : State) (c : CtxId) : CtxSt :=
  match slotOf s c with
  | some i => (s.slot i).st
  | none => .free
/-- A context is live (R54) when a slot holds its id in a state other than FREE. -/
def ctxLive (s : State) (c : CtxId) : Bool := (slotOf s c).isSome && c != 0xFFFF
/-- The privileged bit (R59). -/
def ctxPriv (s : State) (c : CtxId) : Bool :=
  match slotOf s c with
  | some i => (s.slot i).privileged
  | none => false
/-- The priority of a context (R55). -/
def ctxPriority (s : State) (c : CtxId) : Nat :=
  match slotOf s c with
  | some i => (s.slot i).priority
  | none => 0
/-- The partition of a context (R55). -/
def ctxPartition (s : State) (c : CtxId) : Nat :=
  match slotOf s c with
  | some i => (s.slot i).partition
  | none => 0
/-- The rings bound to a context. -/
def ringsOf (s : State) (c : CtxId) : List Nat :=
  (s.mar.rings.cells.filter fun p => p.2.st != .unbound && p.2.ctx == c).map Prod.fst
/-- Commands of a context in flight (R55): fetched, and their completion fence not yet written; saturating. -/
def inflight (s : State) (c : CtxId) : Nat :=
  let cached := (s.mar.rings.cells.filter fun p => p.2.st != .unbound && p.2.ctx == c).foldl
    (fun n p => n + p.2.cache.length) 0
  min 65535 (cached + (s.mar.works.filter fun w => w.ctx == c && w.fence != .done).length)

/-! ### Requests on the ports -/

/-- Tags of the narrow, host-memory and atomic ports. A request that finds them all in use has a tag beyond them and is not
issued yet; it takes the first tag that is answered (R19). -/
def portTags : Nat := 1024
/-- The hang event of a request that goes out on a port (R385, R387). -/
def reqEv (isl port tag addr : Nat) (s : State) : State :=
  if portTags ≤ tag then s else hangEv isl 0x01 (put port 0 4 + put tag 4 10 + put (addr / 256) 16 48) s

/-- How the response errors are numbered (R20). -/
def respNum : RespErr → Nat | .ok => 0 | .xlat => 1 | .poison => 2 | .target => 3
/-- The hang event of a response on a port (R385, R387). -/
def rspEv (isl port tag : Nat) (err : RespErr) (s : State) : State :=
  hangEv isl 0x02 (put port 0 4 + put tag 4 10 + put (respNum err) 14 2) s

/-- Issue a narrow-path request (R24, R127). -/
def issueNm (write : Bool) (addr : Nat) (ctx : CtxId) (bytes : List Byte) (len oid : Nat) (why : MemWhy) (isl : Nat)
    (s : State) : State :=
  let tag := leastFree (s.ports.nm.map (·.tag)) s.ports.nm.length 0
  reqEv isl 0 tag addr
    (updPorts (fun p => { p with nm := p.nm ++ [⟨tag, write, addr, ctx, bytes, len, oid, why, isl, s.now, false, false⟩] }) s)
/-- Issue a host-memory request (R21's port table). -/
def issueHm (write : Bool) (addr : Nat) (bytes : List Byte) (len : Nat) (why : MemWhy) (isl : Nat) (s : State) : State :=
  let tag := leastFree (s.ports.hm.map (·.tag)) s.ports.hm.length 0
  reqEv isl 2 tag addr
    (updPorts (fun p => { p with hm := p.hm ++ [⟨tag, write, addr, 0xFFFF, bytes, len, 0, why, isl, s.now, false, false⟩] }) s)
/-- Issue an atomic request (R26). -/
def issueAt (op addr : Nat) (ctx : CtxId) (opnd cmp : W64) (why : AtWhy) (isl : Nat) (s : State) : State :=
  let tag := leastFree (s.ports.at_.map (·.tag)) s.ports.at_.length 0
  reqEv isl 1 tag addr
    (updPorts (fun p => { p with at_ := p.at_ ++ [⟨tag, op, addr, ctx, opnd, cmp, why, isl, s.now, false, false⟩] }) s)

/-- A read on the narrow port whose answer comes with the command that makes it (R24). -/
def ownRead (isl addr : Nat) (ctx : CtxId) (len : Nat) (s : State) : State :=
  updPorts (fun p => { p with ownReads := p.ownReads ++ [⟨isl, addr, ctx, len, s.now⟩] }) s

/-- A request of a list that waits for a tag takes the tag just answered. -/
def reuseTag {α : Type} (tagOf : α → Nat) (give : α → α) : List α → List α
  | [] => []
  | a :: r => if portTags ≤ tagOf a then give a :: r else a :: reuseTag tagOf give r
/-- The narrow or host-memory requests after the answer of one tag. -/
def dropMem (now tag : Nat) (l : List MemReq) : List MemReq :=
  reuseTag (·.tag) (fun q => { q with tag := tag, at_ := now }) (l.filter fun q => q.tag != tag)
/-- The atomic requests after the answer of one tag. -/
def dropAt (now tag : Nat) (l : List AtReq) : List AtReq :=
  reuseTag (·.tag) (fun q => { q with tag := tag, at_ := now }) (l.filter fun q => q.tag != tag)

/-- The operations of the atomic port (R26). -/
def opMaxu : Nat := 0
def opAdd : Nat := 1
def opSwap : Nat := 2
def opCas : Nat := 3
def opOr : Nat := 4
def opAnd : Nat := 5

/-! ### Fences -/

/-- A signal's returned old value is counted and recorded (R74, R358, R359). `seat` is 63 when no seat signalled. -/
def noteSignal (seat : Nat) (ctx : CtxId) (addr : Nat) (value old : W64) (s : State) : State :=
  let failed := bit old 63
  let stale := !failed && value.toNat ≤ old.toNat
  let s1 := updPorts (fun p => { p with
    staleSignals := if stale then satAdd 64 p.staleSignals 1 else p.staleSignals,
    failedSignals := if failed then satAdd 64 p.failedSignals 1 else p.failedSignals }) s
  let s2 := ergCount 12 1 { ctx := some ctx } s1
  let s3 := if stale then ergCount 13 1 { ctx := some ctx } s2 else s2
  wakeEv islStb 5 false (some ctx)
    [w64 (put seat 0 6 + putb stale 6 + putb failed 7 + put (addr / 8) 8 24 + put value.toNat 32 32)] s3

/-- The word the error path writes (R77). -/
def failWord (cls : Nat) (code : BitVec 16) (old : W64) : W64 :=
  w64 (2 ^ 63 + put cls 56 7 + put code.toNat 40 16 + put old.toNat 0 40)

/-- Begin fail_fence(cls, code) on a fence (R77): the atomic OR of 0 that reads the word. During a compute reset it waits
until every engine has completed its reset (R46, R394). -/
def failFenceStart (who : FfWho) (addr : Nat) (ctx : CtxId) (cls : Nat) (code : BitVec 16) (s : State) : State :=
  if inReset s && s.ump.rst != .clear then updPorts (fun p => { p with owedFails := p.owedFails ++ [(who, addr, ctx, cls, code)] }) s
  else issueAt opOr addr ctx 0 0 (.failFence who cls code .read) islStb s

/-- One turn of the loop of R77 on the word `old` after `tries` tries: `true` when the procedure has returned. -/
def failFenceTurn (who : FfWho) (addr : Nat) (ctx : CtxId) (cls : Nat) (code : BitVec 16) (old : W64) (tries : Nat)
    (s : State) : State × Bool :=
  let new := failWord cls code old
  if new.toNat ≤ old.toNat then (s, true)
  else if tries = 16 then (issueAt opMaxu addr ctx new 0 (.failFence who cls code .maxu) islStb s, false)
  else (issueAt opCas addr ctx new old (.failFence who cls code (.cas old tries)) islStb s, false)

/-- The response to a step of R77: `true` when the procedure has returned. ABANDON fails a fence only where it is not
already failed (R114), so its procedure returns on a failed word. -/
def failFenceStep (q : AtReq) (who : FfWho) (cls : Nat) (code : BitVec 16) (step : FfStep) (seen : W64) (s : State) :
    State × Bool :=
  match step with
  | .read => if code = eRingAbandoned ∧ bit seen 63 then (s, true) else failFenceTurn who q.addr q.ctx cls code seen 0 s
  | .cas old tries =>
    if seen = old then (s, true) else failFenceTurn who q.addr q.ctx cls code seen (tries + 1) s
  | .maxu => (s, true)

/-! ### Objects -/

/-- A handle's index and generation (R60). -/
def hIdx (h : W32) : Nat := h.toNat % 2 ^ 20
def hGen (h : W32) : Nat := h.toNat / 2 ^ 20
/-- The handle of an index and a generation. -/
def mkHandle (idx gen : Nat) : W32 := w32 (idx % 2 ^ 20 + (gen % 4096) * 2 ^ 20)

/-- A handle names an entry that its generation matches (R60). -/
def handleOk (s : State) (h : W32) : Bool :=
  hIdx h != 0 && hIdx h < 2 ^ s.build.objectLog2 && (s.rack.objs.get (hIdx h)).gen == hGen h
/-- A stale handle or a FREE entry (R63). -/
def objStale (s : State) (h : W32) : Bool :=
  !(handleOk s h) || (s.rack.objs.get (hIdx h)).st == .free
/-- The object a handle names. -/
def objOf (s : State) (h : W32) : Obj := s.rack.objs.get (hIdx h)
/-- A reference from a context that neither owns the object nor may share it (R65). The host is `none`. -/
def objDenied (o : Obj) : Option CtxId → Bool
  | none => false
  | some c => !o.shared && o.owner != c

/-- Pages have returned to a pool: placement may run again for loops that found no members (R260). -/
def pagesFreed (s : State) : State :=
  { s with heat := { s.heat with loops := { s.heat.loops with
    cells := s.heat.loops.cells.map fun p => (p.1, { p.2 with barren := false }) } } }

/-- Rack reclaims an entry whose count has reached zero (R65): FREE, next generation, range back to the allocator. -/
def reclaim (i : Nat) (s : State) : State :=
  let s1 := updObj i (fun o => { Obj.reset with gen := (o.gen + 1) % 4096 }) s
  let s2 := if (s.mem.tabs.get i).isTable then pagesFreed s1 else s1
  { s2 with rack := { s2.rack with courses := s2.rack.courses.set i Course.reset },
            mem := { s2.mem with tabs := s2.mem.tabs.set i PageTab.reset } }
/-- Set an entry's count and reclaim it at zero. -/
def setRefs (i n : Nat) (s : State) : State :=
  let s1 := updObj i (fun o => { o with refs := n }) s
  if n = 0 then reclaim i s1 else s1

/-- Add `n` references (R63, R65), or the code of the first check that fails. -/
def refAddOp (who : Option CtxId) (h : W32) (n : Nat) (s : State) : Except (BitVec 16) State :=
  let o := objOf s h
  if objStale s h then .error eStaleHandle
  else if objDenied o who then .error eObjectAccess
  else if o.st == .forced then .error eObjectFreed
  else if 0xFFFFFFFF < o.refs + n then .error eRefOverflow
  else .ok (setRefs (hIdx h) (o.refs + n) s)

/-- Drop `n` references (R65). -/
def refSubOp (who : Option CtxId) (h : W32) (n : Nat) (s : State) : Except (BitVec 16) State :=
  let o := objOf s h
  if objStale s h then .error eStaleHandle
  else if objDenied o who then .error eObjectAccess
  else if o.refs < n then .error eRefUnderflow
  else .ok (setRefs (hIdx h) (o.refs - n) s)

/-- FREE (R67): drop the owner reference of a LIVE object, which becomes FREEING. -/
def freeOp (who : Option CtxId) (h : W32) (s : State) : Except (BitVec 16) State :=
  let o := objOf s h
  if objStale s h then .error eStaleHandle
  else if (match who with | some c => o.owner != c | none => false) then .error eObjectAccess
  else if o.st == .freeing || o.st == .forced then .error eObjectFreed
  else .ok (setRefs (hIdx h) (o.refs - 1)
    (updObj (hIdx h) (fun o => { o with st := .freeing, ownerRef := false }) s))

/-- FORCE_FREE (R68). -/
def forceFreeOp (h : W32) (s : State) : Except (BitVec 16) State :=
  let o := objOf s h
  if objStale s h then .error eStaleHandle
  else if o.st == .forced then .error eObjectFreed
  else .ok (setRefs (hIdx h) (if o.ownerRef then o.refs - 1 else o.refs)
    (updObj (hIdx h) (fun o => { o with st := .forced, ownerRef := false }) s))

/-- How object states are numbered (R62). -/
def objStNum : ObjSt → Nat | .free => 0 | .live => 1 | .freeing => 2 | .forced => 3
/-- The four words of an object-table entry (R62); its reserved bits are zero. -/
def objWords (o : Obj) : List W64 :=
  [w64 (put o.base 0 56), w64 (put o.size 0 48 + put o.owner.toNat 48 16),
   w64 (put o.refs 0 32 + put o.gen 32 12 + put (objStNum o.st) 44 3 + putb o.poisoned 47 + putb o.shared 48 +
        putb o.golden 49 + put o.partition 50 4 + putb o.spilled 54),
   if o.golden then o.goldenAddr else 0]
/-- The address of an entry in the table, in the address space of context 0xFFFF (R61). -/
def objEntryAddr (s : State) (i : Nat) : Nat := fld s.rack.objBase 0 56 + 32 * i
/-- Rack writes one entry back to the table (R61). -/
def writeBackObj (i : Nat) (s : State) : State :=
  issueNm true (objEntryAddr s i) 0xFFFF (wordsToBytes (objWords (s.rack.objs.get i))) 32 63 .objEntry islRck
    (updRack (fun k => { k with dirty := k.dirty.filter (· != i) }) s)
/-- Rack's lazy write-back (R61): a free value says which changed entry goes out now, or that none does. -/
def lazyWriteBack (s : State) : State :=
  if s.rack.dirty.isEmpty || !(computeUp s) then s
  else match s.rack.dirty[s.freeValue 30 % (s.rack.dirty.length + 1)]? with
    | some i => writeBackObj i s.nextFree
    | none => s.nextFree

/-- A free object-table index: which one the block takes is not defined (R305), so a free value chooses among the free
entries that hold no state; `none` when the table is full. The indexes tried are those after the chosen start. -/
def freeIndex (s : State) : Option Nat :=
  let n := 2 ^ s.build.objectLog2 - 1
  let used := (s.rack.objs.cells.filter fun p => p.2.st != .free).map Prod.fst
  if n ≤ used.length then none
  else
    let i := leastFree used (used.length + 1) (1 + s.freeValue 1 % n)
    some (if i ≤ n then i else leastFree used (used.length + 1) 1)

/-- Make a new LIVE object at an index (R63): count 1, the owner reference. -/
def newObject (i : Nat) (o : Obj) (s : State) : State :=
  updObj i (fun e => { o with gen := e.gen, refs := 1, st := .live, ownerRef := true }) s

def updMem (f : Mem → Mem) (s : State) : State := { s with mem := f s.mem }
def updSld (f : Sld → Sld) (s : State) : State := { s with sld := f s.sld }

/-- Bytes of a pool's page (R331). -/
def pageBytes (p : Pool) : Nat := fld p.cfg 0 16 * 4096
/-- Positions per page. -/
def pageTokens (p : Pool) : Nat := fld p.cfg 16 16
/-- Pages a pool reserves from each stack slice. -/
def perStack (p : Pool) : Nat := fld p.cfg 32 24
/-- The partition of a pool. -/
def poolPart (p : Pool) : Nat := fld p.cfg 56 4
/-- The pool page that holds an address, by pool, stack and index. -/
def pageAt (s : State) (addr : Nat) : Option (Nat × Nat × Nat) :=
  (List.range s.build.kvPools).findSome? fun q =>
    let p := s.mem.pools.get q
    if !p.enabled then none else
      (p.bases.zipIdx.find? fun b => b.1 ≤ addr && addr < b.1 + perStack p * pageBytes p).map
        fun b => (q, b.2, (addr - b.1) / pageBytes p)
/-- Some of the bytes at an address lie in a poisoned object: a command that reads them fails with E_POISONED_OBJECT (R69). -/
def poisonedAt (s : State) (addr len : Nat) : Bool :=
  s.rack.objs.cells.any fun p =>
    p.2.st != .free && p.2.poisoned && p.2.base < addr + len && addr < p.2.base + p.2.size

/-- The page table that holds a pool page. -/
def tabOfPage (s : State) (q stack index : Nat) : Option Nat :=
  (s.mem.tabs.cells.find? fun t => t.2.isTable && t.2.pool == q &&
    t.2.pages.any fun e => e.stack == stack && e.index == index && e.tier.isNone).map Prod.fst

/-- A refetch of an object is in progress (R406). -/
def refetching (s : State) (i : Nat) : Bool := s.mem.moves.any fun m => m.kind == .refetch && m.obj == i
/-- Set an object's poisoned bit; Heat acts on it later (R69, R316, R406). A shared object that is marked already is acted on again
only while its refetch is in progress (R407). -/
def poisonObj (i : Nat) (s : State) : State :=
  let o := s.rack.objs.get i
  if o.poisoned && o.shared && !(refetching s i) then s
  else updMem (fun m => { m with poisonSeen := if m.poisonSeen.contains i then m.poisonSeen else m.poisonSeen ++ [i] })
    (updObj i (fun o => { o with poisoned := true }) s)

/-- Mark what a poison response falls in: the object whose range holds the address (R69), or the page table whose page holds
it, the page being withdrawn from its pool (R316). -/
def poisonMark (addr : Nat) (s : State) : State :=
  let hit := s.rack.objs.cells.filter fun p => p.2.st != .free && p.2.base ≤ addr && addr < p.2.base + p.2.size
  let s1 := each hit (fun s p => poisonObj p.1 s) s
  match pageAt s addr with
  | some (q, st, ix) =>
    let s2 := updMem (fun m => { m with
      pools := m.pools.upd q fun p => if p.quarantine.contains (st, ix) then p else { p with quarantine := p.quarantine ++ [(st, ix)] } }) s1
    match tabOfPage s q st ix with
    | some i => poisonObj i s2
    | none => s2
  | none => s1

/-! ### Plans of writes and sets of reads -/

/-- Issue one write of a plan. -/
def issueWrite (isl oid id : Nat) (w : MemWrite) (s : State) : State :=
  if w.host then issueHm true w.addr w.bytes w.bytes.length (.plan id) isl s
  else issueNm true w.addr w.ctx w.bytes w.bytes.length oid (.plan id) isl s

/-- A list cut into chunks of `n`. -/
def chunks {α : Type} (n : Nat) : Nat → List α → List (List α)
  | 0, _ => []
  | fuel + 1, l => if l.isEmpty then [] else l.take n :: chunks n fuel (l.drop n)
/-- Start a plan; at most 256 writes of one are out at a time. A caller gives at least one write. A plan of a compute island
that begins while a compute reset is in progress waits for its end (R46); such a plan has no write out. -/
def startPlan (who : PlanWho) (isl oid : Nat) (batches : List (List MemWrite)) (s : State) : State :=
  match batches.flatMap fun b => chunks 256 b.length b with
  | [] => s
  | b :: rest =>
    let id := s.ports.nextPlan
    if inReset s && !(isKeel isl) then updPorts (fun p => { p with
      nextPlan := id + 1, plans := p.plans ++ [⟨id, who, isl, oid, b :: rest, 0, .ok, 0⟩] }) s else
    let s1 := updPorts (fun p => { p with
      nextPlan := id + 1, plans := p.plans ++ [⟨id, who, isl, oid, rest, b.length, .ok, 0⟩] }) s
    each b (fun s w => issueWrite isl oid id w s) s1

/-- A plan that has waited goes on with its first batch. -/
def kickPlan (s : State) (p : Plan) : State :=
  match p.batches with
  | [] => s
  | b :: rest =>
    let s1 := updPorts (fun q => { q with
      plans := q.plans.map fun x => if x.id == p.id then { x with batches := rest, out := b.length } else x }) s
    each b (fun s w => issueWrite p.isl p.oid p.id w s) s1
/-- Every plan that has waited goes on. -/
def kickPlans (s : State) : State := each (s.ports.plans.filter fun p => p.out == 0) kickPlan s

/-- A write of a plan is answered: the plan that has ended by it, if it has. -/
def planAnswer (id : Nat) (err : RespErr) (addr : Nat) (s : State) : State × Option Plan :=
  match s.ports.plans.find? fun p => p.id == id with
  | none => (s, none)
  | some p =>
    let p1 : Plan := { p with
      out := p.out - 1, err := if p.err == .ok then err else p.err, errAddr := if p.err == .ok then addr else p.errAddr }
    if p1.out != 0 then
      (updPorts (fun q => { q with plans := q.plans.map fun x => if x.id == id then p1 else x }) s, none)
    else match (if p1.err == .ok then p1.batches else []) with
      | [] => (updPorts (fun q => { q with plans := q.plans.filter fun x => x.id != id }) s, some p1)
      | b :: rest =>
        let s1 := updPorts (fun q => { q with
          plans := q.plans.map fun x => if x.id == id then { p1 with batches := rest, out := b.length } else x }) s
        (each b (fun s w => issueWrite p.isl p.oid id w s) s1, none)

/-- Start a set of reads of whole lines, from device memory in a context or from host memory. -/
def startFetch (who : FetchWho) (isl oid : Nat) (host : Bool) (ctx : CtxId) (lines : List Nat) (s : State) : State :=
  if lines.isEmpty then s else
    let id := s.ports.nextPlan
    let s1 := updPorts (fun p => { p with
      nextPlan := id + 1, fetches := p.fetches ++ [⟨id, who, lines.length, [], .ok, 0⟩] }) s
    each lines (fun s a => if host then issueHm false a [] 64 (.fetch id a) isl s
      else issueNm false a ctx [] 64 oid (.fetch id a) isl s) s1

/-- A read of a fetch is answered: the fetch that has ended by it, if it has. -/
def fetchAnswer (id : Nat) (addr : Nat) (data : List W64) (err : RespErr) (s : State) : State × Option Fetch :=
  match s.ports.fetches.find? fun p => p.id == id with
  | none => (s, none)
  | some p =>
    let p1 : Fetch := { p with
      out := p.out - 1, got := p.got ++ [(addr, data)], err := if p.err == .ok then err else p.err,
      errAddr := if p.err == .ok then addr else p.errAddr }
    if p1.out != 0 then (updPorts (fun q => { q with fetches := q.fetches.map fun x => if x.id == id then p1 else x }) s, none)
    else (updPorts (fun q => { q with fetches := q.fetches.filter fun x => x.id != id }) s, some p1)

/-- The writes of words at an address, line by line. -/
def lineWrites (ctx : CtxId) (addr : Nat) (words : List W64) : List MemWrite :=
  ((chunks 8 words.length words).zipIdx.map fun p => ⟨false, addr + 64 * p.2, ctx, wordsToBytes p.1⟩)

end Sys2Proof.Machine
end

