-- ==== Sys2Proof/Machine/Entries.lean ====
section
/-! DEFINITION. Marshal: reading and checking ring entries, entries in the completion window, publication, seats. -/
namespace Sys2Proof.Machine

/-! ### Fields of a ring entry (R86) -/

def enOwn (w : List W64) : Bool := bit (wordAt w 0) 0
def enKind (w : List W64) : Nat := fld (wordAt w 0) 1 3
def enIrq (w : List W64) : Bool := bit (wordAt w 0) 4
def enSerial (w : List W64) : Bool := bit (wordAt w 0) 5
def enNoFence (w : List W64) : Bool := bit (wordAt w 0) 6
def enCtx (w : List W64) : CtxId := w16 (fld (wordAt w 0) 32 16)
def enProgAddr (w : List W64) : Nat := fld (wordAt w 1) 0 56
def enProgLen (w : List W64) : Nat := fld (wordAt w 2) 0 24
def enWorkClass (w : List W64) : Nat := fld (wordAt w 2) 24 4
def enSeq (w : List W64) : W64 := wordAt w 3
def enFenceAddr (w : List W64) : Nat := fld (wordAt w 4) 0 56
def enFenceValue (w : List W64) : W64 := wordAt w 5
def enTag (w : List W64) : Nat := fld (wordAt w 6) 0 48
def enTimeout (w : List W64) : Nat := fld (wordAt w 6) 48 16
def enCheck (w : List W64) : Nat := fld (wordAt w 7) 0 16

/-- The check code over bytes 0x00 to 0x37 with OWN taken as 1 (R87). -/
def entryCrc (w : List W64) : Nat :=
  crc16 (wordsToBytes ((wordAt w 0 ||| 1) :: (w.drop 1).take 6))

/-- A count comes before another, modulo 2^32 (R84). -/
def cntLt (a b : Count) : Bool := 2 ^ 31 ≤ (a - b).toNat
/-- The sequence number of a count (R86). -/
def seqOf (r : Ring) (c : Count) : W64 := r.startSeq + w64 c.toNat
/-- Address of the entry with a count (R84). -/
def entryAddr (r : Ring) (c : Count) : Nat := r.base + 64 * (c.toNat % 2 ^ r.log2)

/-- Reason 2: a reserved kind or a reserved bit set (R86, R88). -/
def entryReserved (w : List W64) : Bool :=
  2 ≤ enKind w || fld (wordAt w 0) 7 25 != 0 || fld (wordAt w 0) 48 16 != 0 || fld (wordAt w 1) 56 8 != 0 ||
  fld (wordAt w 2) 28 36 != 0 || fld (wordAt w 4) 56 8 != 0 || fld (wordAt w 7) 16 48 != 0
/-- Reason 4: a wrong program address or length for the kind. -/
def entryBadProgram (w : List W64) : Bool :=
  if enKind w == 0 then enProgAddr w % 32 != 0 || enProgLen w == 0
  else wordAt w 1 != 0 || enProgLen w != 0
/-- Reason 5: a wrong fence. -/
def entryBadFence (w : List W64) : Bool :=
  if enNoFence w then wordAt w 4 != 0 || wordAt w 5 != 0
  else enFenceAddr w % 8 != 0 || bit (wordAt w 5) 63

/-- The reason of the first check that fails, in the order 7, 1, 3, 6, 2, 4, 5; 0 when all pass (R88). -/
def entryReason (r : Ring) (c : Count) (err : RespErr) (w : List W64) : Nat :=
  if err != .ok then 7
  else if enCheck w != entryCrc w then 1
  else if enCtx w != r.ctx then 3
  else if enSeq w != seqOf r c then 6
  else if entryReserved w then 2
  else if entryBadProgram w then 4
  else if entryBadFence w then 5
  else 0

/-- Whether a malformed entry's fence is failed (R88). -/
def malformedFence (reason : Nat) (w : List W64) : Bool :=
  (reason == 2 || reason == 4 || reason == 5) && !(enNoFence w) && enFenceAddr w % 8 == 0

/-- The code of a fetch stop (R88). -/
def fetchCode (reason : Nat) : BitVec 16 := if reason == 7 then eRingFetch else eMalformedEntry

/-! ### Reading entries -/

/-- Issue a read of one entry (R96): one line, from host memory or from device memory with the ring's context. -/
def readEntry (r : Nat) (c : Count) (second : Bool) (s : State) : State :=
  let g := s.ring r
  let s1 := updRing r (fun g => { g with reads := g.reads ++ [c] }) s
  if g.ringDev then issueNm false (entryAddr g c) g.ctx [] 64 63 (.entry r c second) islMar s1
  else issueHm false (entryAddr g c) [] 64 (.entry r c second) islMar s1

/-- The ring's seat is in a state in which fetching goes on (R116). -/
def seatFetches (s : State) (g : Ring) : Bool :=
  match g.seat with
  | some i => (s.seat i).st == .idle || (s.seat i).st == .ready || (s.seat i).st == .run || (s.seat i).st == .wait
  | none => false

/-- Marshal may read the entry at `fetch` now (R94, R101, R112, R114 to R116). A ring's entries are read only while the
next one's slot cannot hold an entry that is not yet published (assumption 12). -/
def mayRead (s : State) (g : Ring) : Bool :=
  let room := g.cache.length + g.reads.length + g.raws.length
  let space := (g.fetch - g.head).toNat < 2 ^ g.log2
  let holdOk := !g.held || cntLt g.fetch g.holdAt
  match g.mode with
  | .dead => false
  | .abandon left => !g.sawFree && room == 0 && 0 < left && space && holdOk
  | .failedCtx => !g.sawFree && room == 0 && space && holdOk
  | .normal => seatFetches s g && g.st == .seated && !g.latchPending && !g.sawFree && ctxSt s g.ctx == .live &&
      room < g.cacheM1 + 1 && space && holdOk

/-- Read entries from `fetch` on while Marshal may. -/
def pullEntries (r : Nat) : Nat → State → State
  | 0, s => s
  | fuel + 1, s =>
    let g := s.ring r
    if g.holes.contains g.fetch && g.mode == .normal then
      pullEntries r fuel (updRing r (fun g => { g with
        fetch := g.fetch + 1, holes := g.holes.filter (· != g.fetch), sawFree := false,
        cache := g.cache ++ [⟨g.fetch, [], none, true⟩] }) s)
    else if mayRead s g then
      pullEntries r fuel (updRing r (fun g => { g with
        fetch := g.fetch + 1,
        mode := match g.mode with | .abandon n => .abandon (n - 1) | m => m }) (readEntry r g.fetch false s))
    else s

/-- Marshal looks at a ring (R94): a seated ring is read from `fetch`; a bound unseated ring is queued for a seat. Where reads are
already out, what they find of a free slot is older than the look, and Marshal will read there again. -/
def lookRing (r : Nat) (s : State) : State :=
  let quiet : Bool := match (s.ring r).mode with
    | .abandon _ => true
    | _ => false
  let s1 := updRing r (fun g => { g with
    sawFree := quiet && g.sawFree, lastLook := s.now,
    lookTo := if quiet || (g.reads.isEmpty && g.raws.isEmpty) then none else some g.fetch }) s
  let g := s1.ring r
  match g.mode with
  | .failedCtx => pullEntries r 9 s1
  | .normal =>
    if g.st == .seated then pullEntries r 9 s1
    else if g.st == .idle && ctxSt s g.ctx == .live then
      updRing r (fun g => { g with st := .queued, queuedAt := s.now }) s1
    else s1
  | _ => s1

/-! ### Publication (R106, R107, R109) -/

/-- The completion record of a ring for a head and an err_count (R107). -/
def recordBytes (g : Ring) (head : Count) (errs : Nat) : List Byte :=
  wordsToBytes [w64 (head.toNat + put errs 32 16 + putb (g.st == .stopped) 48), g.startSeq + w64 head.toNat - 1]
/-- The record write of a ring for what it has published so far. -/
def recordStep (g : Ring) : PubStep := .record g.recHead g.errCount
/-- A record write is among the steps. -/
def hasRecord (l : List PubStep) : Bool := l.any fun p => match p with | .record _ _ => true | _ => false

/-- Raise the ring's interrupt, or note that it is due within the holdoff (R109). -/
def ringIrq (r : Nat) (s : State) : State :=
  let g := s.ring r
  let quiet : Bool := match g.irqLast with
    | some t => decide (s.now < t + g.irqHoldoff * usTu)
    | none => false
  if quiet then updRing r (fun g => { g with irqDue := true }) s
  else raiseIrq g.irqVector (updRing r (fun g => { g with irqLast := some s.now, irqDue := false }) s)

/-- A write of a publication to a ring or record: narrow path or host memory. -/
def pubWrite (dev : Bool) (addr : Nat) (ctx : CtxId) (b : List Byte) (why : MemWhy) (s : State) : State :=
  if dev then issueNm true addr ctx b b.length 63 why islMar s else issueHm true addr b b.length why islMar s

/-- Issue one write of a publication. The record carries its publication's head, which the ring shows from then on. -/
def pubOne (r : Nat) (p : PubStep) (s : State) : State :=
  let g := s.ring r
  match p with
  | .clearOwn c b => pubWrite g.ringDev (entryAddr g c) g.ctx [b &&& 0xFE#8] (.clearOwn r) s
  | .record head errs =>
    pubWrite g.cmplDev g.cmpl g.ctx (recordBytes g head errs) (.record r) (updRing r (fun g => { g with head := head }) s)
  | .irq => ringIrq r s

/-- Issue a ring's publication writes in order (R106). With a device-memory ring or record, each write waits for the
response to the one before (R27). -/
def pumpPub (r : Nat) : List PubStep → State → State
  | [], s => updRing r (fun g => { g with doneQueue := [] }) s
  | p :: rest, s =>
    let g := s.ring r
    let waits := (g.ringDev || g.cmplDev) && p != .irq
    let s1 := pubOne r p s
    if waits then updRing r (fun g => { g with doneQueue := rest, pubBusy := true }) s1
    else pumpPub r rest s1

/-- Add publication steps to a ring and issue what can be issued. -/
def queuePub (r : Nat) (l : List PubStep) (s : State) : State :=
  let g := s.ring r
  if g.pubBusy then updRing r (fun g => { g with doneQueue := g.doneQueue ++ l }) s else pumpPub r (g.doneQueue ++ l) s

/-! ### Entries in the window -/

/-- The works of a ring. -/
def ringWorks (s : State) (r : Nat) : List Work :=
  s.mar.works.filter fun w => match w.owner with | .entry r' _ => r' == r | _ => false

/-- An entry's published outcome counts in err_count (R107). -/
def countsErr (w : Work) : Bool := w.fenceErr || w.failed.isSome

/-- A new window entry for a fetched one. -/
def mkWork (r : Nat) (seat : Nat) (g : Ring) (c : Cached) (now : Nat) (epoch : Bool) : Work where
  owner := .entry r c.count
  seat := seat
  count := c.count
  ctx := g.ctx
  words := c.words
  marker := enKind c.words == 1 || c.hole
  hole := c.hole
  began := now
  timer := some now
  groups := [0, 0, 0, 0]
  reqs := 0
  ended := false
  failed := none
  fenceFor := none
  fence := .notDue
  fenceErr := c.hole
  skipFence := c.hole || enNoFence c.words
  onlyHealthy := false
  drops := []
  pins := []
  unsafeCaught := false
  enqueued := false
  nonReplayable := false
  line := c.line
  replayed := 0
  cancelSent := false
  done := false
  epoch := epoch
  ringTimeout := g.timeout

/-- What a record of a failed deferred drop says of a work beside the code and the handle (R142). -/
def dropRec (w : Work) : LogRec :=
  match w.owner with
  | .entry r c => { LogRec.zero with cls := 1, island := islRck, seat := w.seat, ctx := w.ctx, ring := r, count := c }
  | .heat l _ => { LogRec.zero with cls := 1, island := islRck, seat := w.seat, ctx := w.ctx, loop := l, step := w.count.toNat }
/-- The outcome of a deferred drop (R142): a failed one is logged and changes nothing else. -/
def dropped (base : LogRec) (h : W32) (res : Except (BitVec 16) State) (s : State) : State :=
  match res with
  | .ok s' => s'
  | .error code => logRec .nothing { base with code := code, info := h.toNat } s

/-- Apply one deferred drop (R142). -/
def applyDrop (w : Work) (s : State) (d : Drop) : State :=
  dropped (dropRec w) d.handle
    (if d.isFree then freeOp (some w.ctx) d.handle s else refSubOp (some w.ctx) d.handle d.n s) s

/-- Drop one course pin, a reference on the body, in the way of a deferred drop (R142, R162). -/
def dropPin (base : LogRec) (s : State) (p : Pin) : State := dropped base p.body (refSubOp none p.body 1 s) s

/-- After an entry's completion fence is written: deferred drops in program order, then the pins (R142, R162). -/
def afterFence (w : Work) (s : State) : State :=
  let s1 := each w.drops (applyDrop w) s
  updWork w.owner (fun w => { w with drops := [], pins := [] }) (each w.pins (dropPin (dropRec w)) s1)

/-- Items 1 to 3 of R105 hold: for a MARKER, every entry with a lower count is done. -/
def workQuiet (s : State) (w : Work) : Bool :=
  match w.owner with
  | .heat _ _ => false
  | .entry r c =>
    if w.marker then (ringWorks s r).all fun v => !(cntLt v.count c) || v.done
    else w.ended && w.reqs == 0 && w.groups.all (· == 0)

/-- Item 4 of R105 begins: the completion fence is signalled or failed, or there is none. -/
def startFence (w : Work) (s : State) : State :=
  if w.skipFence then updWork w.owner (fun w => { w with fence := .done }) s
  else match w.failed with
    | some (k, c) =>
      failFenceStart (.work w.owner) (enFenceAddr w.words) w.ctx k c
        (updWork w.owner (fun w => { w with fence := .inFlight, fenceFor := some (k, c) }) s)
    | none =>
      issueAt opMaxu (enFenceAddr w.words) w.ctx (enFenceValue w.words) 0 (.fence w.owner (enFenceValue w.words)) islStb
        (updWork w.owner (fun w => { w with fence := .inFlight }) s)

/-- The consecutive done works from the head on, in count order. -/
def donePrefix (l : List Work) (c : Count) : Nat → List Work
  | 0 => []
  | fuel + 1 => match l.find? fun w => w.count == c && w.done with
    | some w => w :: donePrefix l (c + 1) fuel
    | none => []

/-- Publish the done entries at the head (R106): OWN cleared in count order, the record, the interrupt. -/
def publish (r : Nat) (l : List Work) (s : State) : State :=
  let n := l.length
  let errs := (l.filter countsErr).length
  let s1 := updRing r (fun g => { g with
    recHead := g.recHead + BitVec.ofNat 32 n, errCount := satAdd 16 g.errCount errs, idleSince := s.now }) s
  let s2 := updMar (fun m => { m with works := m.works.filter fun w => !(l.any fun v => v.owner == w.owner) }) s1
  let steps := ((l.filter fun w => !w.hole).map fun w => PubStep.clearOwn w.count ((wordAt w.words 0).setWidth 8)) ++
    [recordStep (s1.ring r)] ++ (if l.any fun w => enIrq w.words && !w.hole then [.irq] else [])
  queuePub r steps (each l (fun s w => ergCount 9 1 { ctx := some w.ctx } s) s2)

/-- No work of the ring is in its window and nothing is left to publish. -/
def windowEmpty (s : State) (r : Nat) : Bool :=
  let g := s.ring r
  g.begun == g.recHead && g.doneQueue.isEmpty

/-- A program is running or waiting on the ring's seat. -/
def ringRunning (s : State) (g : Ring) : Bool :=
  match g.seat with
  | some i => (s.seat i).prog.isSome
  | none => false

/-! ### Stops (R112) -/

/-- Stop a ring: latch a count, begin nothing further. Reasons 8 to 10 make it STOPPED at once, and its seat too unless a program
of another entry that has begun is on it, which goes on to its end; the completion record's stopped bit goes out with the next
record, or at once when none is due. After reason 10 the write that failed is the one due: RESTART repeats it (R113). -/
def stopRing (r : Nat) (reason : Nat) (code : BitVec 16) (c : Count) (words : List W64) (s : State) : State :=
  let s1 := updRing r (fun g => { g with
    reason := reason, errCode := code, latched := c, latchedWords := words, latchPending := true,
    st := if reason ≤ 7 then g.st else .stopped }) s
  if reason ≤ 7 then s1 else
    let s2 := match (s.ring r).seat with
      | some i => moveSeat i (fun st => { st with st := if st.prog.isSome then st.st else .stopped }) s1
      | none => s1
    if hasRecord (s2.ring r).doneQueue || reason == 10 then s2 else queuePub r [recordStep (s2.ring r)] s2

/-! ### What a ring does next -/

/-- The entry at `begun`, when it is cached. -/
def nextCached (g : Ring) : Option Cached := g.cache.find? fun c => c.count == g.begun

/-- R103 without the seat, for the entry at `begun`. -/
def mayBegin (s : State) (g : Ring) (c : Cached) : Bool :=
  (ctxSt s g.ctx == .live || ctxSt s g.ctx == .stopped) && (g.begun - g.head).toNat < 16 &&
  (!(enSerial c.words) || g.head == g.begun) && (!g.held || cntLt g.begun g.holdAt) &&
  !(g.latchPending && (8 ≤ g.reason || g.begun == g.latched))

/-- The entries of a ring that a compute reset has left to be replayed, in count order (R396). -/
def ringReplays (s : State) (r : Nat) : List Owner :=
  s.bhs.replays.filter fun o => match o with | .entry r' _ => r' == r | .heat _ _ => false

/-- Put an entry into the window: begun rises by one and the entry leaves the cache. -/
def enterWindow (r : Nat) (w : Work) (s : State) : State :=
  let s1 := updRing r (fun g => { g with
    begun := g.begun + 1, cache := g.cache.filter fun c => c.count != g.begun }) s
  updMar (fun m => { m with works := m.works ++ [w] }) s1

/-- The epoch bit a new entry carries. -/
def epochBit (s : State) : Bool := s.rig.epoch % 2 == 1

/-- The code a FAILED context fails fences with (R57). -/
def ctxFailCode (s : State) (c : CtxId) : BitVec 16 :=
  match slotOf s c with
  | some i => (s.slot i).errCode
  | none => 0

/-- On a ring of a FAILED context, or under ABANDON, an entry is published without running (R114, R115). -/
def drainEntry (r : Nat) (g : Ring) (c : Cached) (s : State) : State :=
  let why := entryReason g c.count .ok c.words
  let fenceable := !c.hole && !(enNoFence c.words) &&
    (match g.mode with
     | .abandon _ => why == 0
     | _ => why == 0 || malformedFence why c.words)
  let base := mkWork r 0 g c s.now (epochBit s)
  let (k, code) : Nat × BitVec 16 := match g.mode with
    | .abandon _ => (2, eRingAbandoned)
    | _ => (3, ctxFailCode s g.ctx)
  let w : Work := { base with
    marker := false, ended := true, skipFence := !fenceable,
    failed := if fenceable then some (k, code) else none, fenceErr := true,
    onlyHealthy := match g.mode with | .abandon _ => true | _ => false }
  enterWindow r w s

/-- Release the ring of an emptied DRAIN or STOPPED seat (R99, R116). -/
def releaseSeat (i r : Nat) (s : State) : State :=
  let g := s.ring r
  let back : RingSt :=
    if g.st == .stopped then .stopped
    else if ctxSt s g.ctx == .live && (!g.cache.isEmpty || !g.raws.isEmpty || !g.reads.isEmpty || !g.sawFree)
    then .queued else .idle
  updRing r (fun g => { g with seat := none, st := back, draining := false, queuedAt := s.now })
    (moveSeat i (fun _ => Seat.reset) s)

/-- A seated ring's seat moves on (R116), or `none` when nothing is due. -/
def seatMove (i r : Nat) (s : State) : Option State :=
  let st := s.seat i
  let g := s.ring r
  let latchDue := g.latchPending && g.reason ≤ 7 && g.begun == g.latched
  let replay := !(ringReplays s r).isEmpty
  match st.st with
  | .idle =>
    if replay && computeUp s then some (moveSeat i (fun x => { x with st := .ready, readyAt := s.now }) s)
    else if g.st == .stopped then some (moveSeat i (fun x => { x with st := .stopped }) s)
    else if latchDue && g.st == .seated then
      let s1 := updRing r (fun g => { g with st := .stopped }) (moveSeat i (fun x => { x with st := .stopped }) s)
      some (if hasRecord g.doneQueue then s1 else queuePub r [recordStep g] s1)
    else if g.draining then some (moveSeat i (fun x => { x with st := .drain }) s)
    else if ctxSt s g.ctx == .failed then
      some (updRing r (fun g => { g with draining := true }) (moveSeat i (fun x => { x with st := .drain }) s))
    else if ctxSt s g.ctx == .stopped && g.cache.isEmpty && g.reads.isEmpty && g.raws.isEmpty then
      some (updRing r (fun g => { g with draining := true }) (moveSeat i (fun x => { x with st := .drain }) s))
    else match nextCached g with
      | some c =>
        if mayBegin s g c && !(enKind c.words == 1 || c.hole) && computeUp s then
          some (moveSeat i (fun x => { x with st := .ready, readyAt := s.now }) s)
        else none
      | none => none
  | .ready =>
    if !replay && (g.draining || ctxSt s g.ctx == .failed) then
      some (updRing r (fun g => { g with draining := true }) (moveSeat i (fun x => { x with st := .drain }) s))
    else none
  | .drain =>
    if replay then some (moveSeat i (fun x => { x with st := .idle }) s)
    else if windowEmpty s r && st.prog.isNone then some (releaseSeat i r s) else none
  | .stopped =>
    if replay then some (moveSeat i (fun x => { x with st := .idle }) s)
    else if g.pin != some i && windowEmpty s r && st.prog.isNone then some (releaseSeat i r s) else none
  | _ => none

/-- Begin the MARKER, hole or undone-without-running entry at `begun`, when due. -/
def beginQuiet (r : Nat) (s : State) : Option State :=
  let g := s.ring r
  match nextCached g with
  | none => none
  | some c =>
    match g.mode with
    | .normal =>
      let seatedIdle := match g.seat with
        | some i => (s.seat i).st == .idle && !g.draining
        | none => false
      if computeUp s && (ringReplays s r).isEmpty && seatedIdle && (enKind c.words == 1 || c.hole) && mayBegin s g c then
        some (enterWindow r (mkWork r (g.seat.getD 0) g c s.now (epochBit s)) s)
      else none
    | .dead => none
    | _ => if (g.begun - g.head).toNat < 16 then some (drainEntry r g c s) else none

/-- ABANDON ends when OWN read 0, or its entries are used up, and all it read is published: the ring is IDLE (R114). -/
def abandonEnd (r : Nat) (s : State) : Option State :=
  let g := s.ring r
  match g.mode with
  | .abandon left =>
    if (g.sawFree || left == 0) && g.cache.isEmpty && g.reads.isEmpty && g.raws.isEmpty && windowEmpty s r then
      let s1 := updRing r (fun g => { g with
        mode := .normal, latchPending := false, reason := 0, errCode := 0, st := if g.seat.isSome then .seated else .idle }) s
      let s2 := match g.seat with
        | some i => moveSeat i (fun x => { x with st := .idle }) s1
        | none => s1
      some (lookRing r s2)
    else none
  | _ => none

/-- One thing a ring has due, or `none`: a fence step, an entry done, a publication, a beginning, a seat's move. -/
def ringStep (r : Nat) (s : State) : Option State :=
  let g := s.ring r
  let ws := ringWorks s r
  match (if fencesUp s then ws.find? fun w => w.fence == .notDue && workQuiet s w else none) with
  | some w => some (startFence w s)
  | none =>
  match ws.find? fun w => w.fence == .done && !w.done with
  | some w =>
    let s1 := ergValue 49 ((s.now - w.began) / 4) { ctx := some w.ctx } (afterFence w s)
    some (updWork w.owner (fun w => { w with done := true }) s1)
  | none =>
  match donePrefix ws g.recHead 16 with
  | l@(_ :: _) => some (publish r l s)
  | [] =>
  match beginQuiet r s with
  | some s' => some s'
  | none =>
  match abandonEnd r s with
  | some s' => some s'
  | none =>
  match g.seat with
  | some i => seatMove i r s
  | none => none

/-- Do everything a ring has due, and read on where there is room again. -/
def settleRing (r : Nat) : Nat → State → State
  | 0, s => s
  | fuel + 1, s =>
    match ringStep r s with
    | some s' => settleRing r fuel s'
    | none => pullEntries r 9 s

/-! ### Foantong's seat policy (R99, R171) -/

/-- Seats reserved for Heat: the highest-numbered `heat_seats` (R98). -/
def heatSeat (s : State) (i : Nat) : Bool := s.build.seats - fld s.mar.seatCfg 32 6 ≤ i && i < s.build.seats
/-- The ring pinned to a seat. -/
def pinnedRing (s : State) (i : Nat) : Option Nat :=
  (s.mar.rings.cells.find? fun p => p.2.st != .unbound && p.2.pin == some i).map Prod.fst
/-- The largest number of seats that rings of level 1 to 3 may hold (R170). DESIGN CHOICE (assumption 101): enq_seats written 0,
which R170 does not list, is a cap of 0. -/
def enqCap (s : State) : Nat := min (fld s.mar.enqCfg 0 6) (s.build.seats - 4)
/-- Seats that rings of level 1 to 3 hold. -/
def enqHeld (s : State) : Nat :=
  (s.mar.rings.cells.filter fun p => p.2.seat.isSome && 0 < p.2.level).length

/-- Put a ring on a seat (R116): IDLE, and look as for a doorbell. -/
def seatRing (i r : Nat) (s : State) : State :=
  let s1 := moveSeat i (fun _ => { Seat.reset with st := .idle, ring := some r }) s
  let s2 := updRing r (fun g => { g with
    seat := some i, st := .seated, draining := false, seatedAt := s.now, idleSince := s.now }) s1
  settleRing r 100 (lookRing r s2)

/-- The queued ring Foantong seats first: priority, level 0 before others, queued longest, lowest id. -/
def queuedBefore (a b : Nat × Ring) : Bool :=
  if a.2.priority != b.2.priority then b.2.priority < a.2.priority
  else if (a.2.level == 0) != (b.2.level == 0) then a.2.level == 0
  else if a.2.queuedAt != b.2.queuedAt then a.2.queuedAt < b.2.queuedAt
  else a.1 < b.1

/-- The unpinned rings that are QUEUED (R99); one that the cap of R171 holds back stays among them. -/
def queuedRings (s : State) : List (Nat × Ring) :=
  s.mar.rings.cells.filter fun p =>
    p.2.st == .queued && p.2.pin.isNone
/-- The seat cap lets a ring of a level be seated (R171). DEDUCED (assumption 102): a pinned ring counts and waits as any other. -/
def capFree (s : State) (level : Nat) : Bool := level == 0 || enqHeld s < enqCap s

/-- A ring pinned to the seat may be seated there: bound, unseated, not stopped, its context not STOPPED or FAILED. -/
def pinReady (s : State) (r : Nat) : Bool :=
  let g := s.ring r
  g.seat.isNone && (g.st == .queued || g.st == .idle) && ctxSt s g.ctx == .live

/-- Fill one EMPTY seat. -/
def fillSeat (s : State) (i : Nat) : State :=
  if (s.seat i).st != .empty || heatSeat s i || !(bit s.mar.seatEnable i) then s
  else match pinnedRing s i with
    | some r => if pinReady s r && capFree s (s.ring r).level then seatRing i r s else s
    | none => match best queuedBefore ((queuedRings s).filter fun p => capFree s p.2.level) with
      | some (r, _) => seatRing i r s
      | none => s

/-- Drain a seated ring (R99). -/
def drainRing (r : Nat) (s : State) : State :=
  settleRing r 100 (updRing r (fun g => { g with draining := true }) s)

/-- Drain one ring for a waiting one if it has used its quantum (R99); the number of unmatched rings goes with it. -/
def quantumDrain (acc : Nat × State) (r : Nat) : Nat × State :=
  let (n, s) := acc
  let g := s.ring r
  let q := max 1 (fld s.mar.seatCfg 0 16) * usTu
  if 0 < n && !g.draining && q ≤ s.now - g.seatedAt &&
     ((queuedRings s).any fun p => g.priority ≤ p.2.priority) then (n - 1, drainRing r s)
  else (n, s)

/-- Drain a ring that has been idle for idle_us (R99). -/
def idleDrain (s : State) (r : Nat) : State :=
  let g := s.ring r
  let t := max 1 (fld s.mar.seatCfg 16 16) * usTu
  if g.st == .seated && !g.draining && g.cache.isEmpty && windowEmpty s r && g.sawFree && t ≤ s.now - g.idleSince
  then drainRing r s else s

/-- Seated, unpinned rings, longest seated first, then by seat. -/
def seatedRings (s : State) : List Nat :=
  (sortBy (fun a b => if a.2.seatedAt != b.2.seatedAt then a.2.seatedAt < b.2.seatedAt else a.2.seat.getD 0 < b.2.seat.getD 0)
    (s.mar.rings.cells.filter fun p => p.2.st == .seated && p.2.pin.isNone)).map Prod.fst

/-- A seat is in DRAIN, or its ring has been told to drain while a program of it runs or waits (R99, R116). -/
def seatDrains (s : State) (i : Nat) : Bool :=
  (s.seat i).st == .drain || (match (s.seat i).ring with | some r => (s.ring r).draining | none => false)

/-- The policy of R99 with the additions of R171. -/
def policy (s : State) : State :=
  let s1 := each (List.range s.build.seats) fillSeat s
  let draining := ((List.range s.build.seats).filter (seatDrains s1)).length
  let s2 := ((seatedRings s1).foldl quantumDrain ((queuedRings s1).length - draining, s1)).2
  each (List.range s.build.seats) fillSeat (each (seatedRings s2) idleDrain s2)

/-- A ring has changed: settle it, then let Foantong fill seats that have become empty. -/
def settle (r : Nat) (s : State) : State :=
  let s1 := settleRing r 100 s
  each (List.range s1.build.seats) fillSeat s1

end Sys2Proof.Machine
end

