-- ==== Sys2Proof/Machine/Launch.lean ====
section
/-! DEFINITION. The launch trees: which clusters a message reaches, when a root refuses, and entering a tree. -/
namespace Sys2Proof.Machine

/-- The image a launch of an epoch bit goes by (R206): the one in force, or during a swap the one being retired. -/
def imageFor (s : State) (epoch : Bool) : Image :=
  if epoch == epochBit s then s.rig.now else s.rig.old.getD s.rig.now
/-- A crew in the image of an epoch. -/
def crewFor (s : State) (epoch : Bool) (k : Nat) : Crew := (imageFor s epoch).crews.get k

/-- The clusters a message reaches (R177, R180), in ascending order. -/
def msgClusters (s : State) (m : LaunchMsg) : List Nat :=
  match m.kind with
  | .piece => [m.target]
  | .crewPiece => (crewFor s m.epoch m.target).members
  | _ => match m.scope with
    | 0 => [m.target]
    | 1 => (crewFor s m.epoch (m.target % 64)).members
    | _ => List.range s.build.clusters

/-- An engine's launch slots are all in use (R185). -/
def slotsFull (s : State) (c e : Nat) : Bool := 64 ≤ ((s.row c).engines.get e).pieces.length

/-- The next message a tree has for a cluster (R177). -/
def nextFlight (s : State) (t c : Nat) : Option Flight := (s.tree t).flights.find? fun f => f.todo.contains c

/-- The next message of a tree for a cluster is a piece that finds its engine's slots full (R185). -/
def nextRefused (s : State) (t c : Nat) : Bool :=
  match nextFlight s t c with
  | some f => (f.msg.kind == .piece || f.msg.kind == .crewPiece) && slotsFull s c f.msg.engine
  | none => false

/-! The nodes of a tree (R179): below the root one first-level node, then a second-level node for every 64 clusters and a third-level
node for every 8. DEDUCED (assumption 13): the nodes that messages hold, as the messages are taken oldest first. -/

/-- The nodes held: third-level ones, second-level ones, and the first-level one. -/
abbrev HeldNodes := List Nat × List Nat × Bool

/-- A message joins those ahead of it: where it finds a link refusing it holds the node before that link; its copies for other links
go on. -/
def holdNodes (s : State) (t : Nat) (h : HeldNodes) (f : Flight) : HeldNodes :=
  if h.2.2 then h else
  let past1 := f.todo.filter fun c => !(h.2.1.contains (c / 64))
  let past2 := past1.filter fun c => !(h.1.contains (c / 8))
  ((past2.filter (nextRefused s t)).map (· / 8) ++ h.1,
   (past1.filter fun c => h.1.contains (c / 8)).map (· / 64) ++ h.2.1,
   f.todo.any fun c => h.2.1.contains (c / 64))

/-- A held node lies on the path to a cluster. -/
def pathHeld (h : HeldNodes) (c : Nat) : Bool := h.2.2 || h.2.1.contains (c / 64) || h.1.contains (c / 8)

/-- The first message for a cluster among `l`, behind messages that hold `h`, unless a held node keeps it back. -/
def firstPassing (s : State) (t c : Nat) : HeldNodes → List Flight → Option Flight
  | _, [] => none
  | h, f :: r =>
    if f.todo.contains c then (if pathHeld h c then none else some f) else firstPassing s t c (holdNodes s t h f) r

/-- The message that has come through the nodes of a tree to a cluster's link. -/
def atRow (s : State) (t c : Nat) : Option Flight := firstPassing s t c ([], [], false) (s.tree t).flights

/-- A cluster refuses its input from a tree (R179, R185). -/
def rowRefuses (s : State) (t c : Nat) : Bool := (atRow s t c).isSome && nextRefused s t c

/-- A root refuses messages while its outgoing link is held (R179). -/
def treeRefuses (s : State) (t : Nat) : Bool := ((s.tree t).flights.foldl (holdNodes s t) ([], [], false)).2.2

/-- The tree a seat launches on (R176). -/
def seatTree (s : State) (seat : Nat) : Nat := seat % s.build.trees

/-- A message kind's number (R180). -/
def kindNum : MsgKind → Nat
  | .piece => 1 | .crewPiece => 2 | .cancel => 3 | .hold => 4 | .release => 5

/-- What a hang event of a message shows (R387): the tree, the kind, and the bits of the message's word 0 above bit 11 (R180). -/
def msgDetail (t : Nat) (m : LaunchMsg) : Nat :=
  put t 0 8 + put (kindNum m.kind) 8 4 + put m.engine 12 3 + putb m.aligned 15 + put m.count 16 13 + put m.origin 29 2 +
    put m.ctx.toNat 32 16 + put m.target 48 9 + put m.seat 57 6

/-- Words 1 to 3 of a LAUNCH trace record (R358). -/
def launchRec (t : Nat) (m : LaunchMsg) : List W64 :=
  [w64 (put (kindNum m.kind) 0 4 + put t 4 2 + put m.seat 6 6 + put m.ctx.toNat 12 16 + put m.target 28 9 + put m.engine 37 3 +
     put m.count 40 13 + put m.group 53 2 + put m.origin 55 2 + putb m.replay 57 + putb m.epoch 58),
   w64 (put m.tag 0 48 + put m.workClass 48 4),
   w64 (m.entry.toNat + put (m.piece / 64) 32 32)]

/-- A message enters a tree (R177): it will reach each of its clusters. A root stamps an aligned crew's start (R184). -/
def enterTree (t : Nat) (m : LaunchMsg) (s : State) : State :=
  let m1 : LaunchMsg :=
    if m.kind == .crewPiece && m.aligned then
      { m with start := (s.now + (crewFor s m.epoch m.target).leadNs * 4) % 65536 }
    else m
  let s1 := updTree t (fun x => { x with flights := x.flights ++ [⟨m1, msgClusters s m1⟩] }) s
  let s2 := ergCount 5 1 { ctx := some m1.ctx, tag := some m1.tag } s1
  let s3 := wakeRec (islLft t) 3 true (some m1.ctx) none (.fresh (100000 + t)) false (launchRec t m1) s2
  hangEv (islLft t) 0x04 (msgDetail t m1) s3

/-- Slide and Marshal give a message to a tree: it waits while the root refuses (R176, R179). -/
def sendTree (t : Nat) (m : LaunchMsg) (s : State) : State :=
  if treeRefuses s t || !(s.tree t).wait.isEmpty then updTree t (fun x => { x with wait := x.wait ++ [m] }) s
  else enterTree t m s
/-- A root that no longer refuses accepts the messages that wait for it, in the order they came. -/
def pumpTree (t : Nat) : Nat → State → State
  | 0, s => s
  | fuel + 1, s =>
    match (s.tree t).wait with
    | [] => s
    | m :: r => if treeRefuses s t then s else pumpTree t fuel (enterTree t m (updTree t (fun x => { x with wait := r }) s))
/-- Every root accepts what it can. -/
def pumpTrees (s : State) : State := each (List.range s.build.trees) (fun s t => pumpTree t (s.tree t).wait.length s) s

/-- What a Rowlock reports of a piece (R199, R392). -/
def reportOf (p : Piece) : Report := ⟨p.msg.seat, p.msg.entry, p.msg.group, p.msg.origin, p.err, p.unsafeCaught, p.msg.slide⟩

/-- A message with nothing but its kind. -/
def LaunchMsg.blank (k : MsgKind) : LaunchMsg where
  kind := k
  epoch := false
  replay := false
  group := 0
  workClass := 0
  engine := 0
  aligned := false
  count := 0
  origin := 0
  ctx := 0
  target := 0
  seat := 0
  piece := 0
  priority := 0
  scope := 0
  byCtx := false
  holdId := 0
  entry := 0
  stride := 0
  tag := 0
  start := 0
  slide := 0

/-- Add to a group counter of an owner's work (R137). -/
def addGroup (o : Owner) (g n : Nat) (s : State) : State :=
  updWork o (fun w => { w with groups := w.groups.set g (w.groups.getD g 0 + n) }) s
/-- Take from a group counter (R137). -/
def subGroup (o : Owner) (g n : Nat) (s : State) : State :=
  updWork o (fun w => { w with groups := w.groups.set g (w.groups.getD g 0 - n) }) s
/-- A launch that adds `n` would take the counter above 16,777,215 (R137). -/
def groupFull (s : State) (o : Owner) (g n : Nat) : Bool :=
  match s.work? o with
  | some w => 16777215 < w.groups.getD g 0 + n
  | none => false

end Sys2Proof.Machine
end

