-- ==== Sys2Proof/Machine/DumpHead.lean ====
section
/-! DEFINITION. The identity registers, and the header by which a dump begins (R7, R51, R389, R390). -/
namespace Sys2Proof.Machine

/-! ### Identity (R7, R51) -/

/-- LND_VERSION. -/
def lndVersion : Nat := 0x03010003
/-- LND_UNITS (R7). -/
def lndUnits (b : Build) : Nat :=
  0x4B9F + putb b.hasHeat 5 + putb b.hasJudge 6 + putb b.hasStroke 10 + putb b.hasErg 12 + putb b.hasWake 13 +
    putb b.hasBoathouse 15 + putb b.hasCrossing 16
/-- LND_BUILD_A (R51). -/
def lndBuildA (b : Build) : Nat :=
  put b.clusters 0 10 + put b.engines 10 4 + put b.coxCores 14 5 + put b.seats 19 7 + put b.rings 26 13 + put b.crews 39 7 +
    put b.trees 46 3 + put b.relays 49 6
/-- LND_BUILD_B (R51). -/
def lndBuildB (b : Build) : Nat :=
  put b.watchLog2 0 5 + put b.objectLog2 5 5 + put b.kvPools 10 5 + put b.partitions 15 5 + put b.memStacks 20 5 +
    put b.heatLoops 25 5 + put b.heatLiveLog2 30 5 + put b.heatBatchLog2 35 5 + put b.judgeLanes 40 8 + putb b.hasJtag 48

/-! ### The dump (R389, R390) -/

/-- The islands a build has, in ascending number (R39, R432). -/
def builtIslands (b : Build) : List Nat :=
  List.range b.clusters ++ [islLnd, islMar] ++ (List.range ((b.coxCores + 1) / 2)).map (514 + ·) ++
  [islStb, islSld, islRck, islRig, islTkp, islUmp] ++ (List.range b.trees).map islLft ++
  (if b.hasHeat then [islHea] else []) ++ (if b.hasJudge then [islJds, islJdl] else []) ++ (if b.hasStroke then [islStk] else []) ++
  (if b.hasErg then [islErg] else []) ++ (if b.hasWake then [islWak] else []) ++ (if b.hasBoathouse then [islBhs] else []) ++
  (if b.hasCrossing then [islXng] else []) ++ (List.range b.relays).map (540 + ·)

/-- Kind and length of each section of a build's dump. The order of the words in sections 4, 5 and 7 is the model's
(assumption 40). -/
def dumpKinds (b : Build) : List (Nat × Nat) :=
  [(1, 1024), (2, 1024 * (builtIslands b).length), (3, 64 * b.seats), (4, 8 * (16 + 4)), (5, 128 * b.clusters), (6, 4096)] ++
  (if b.hasHeat then [(7, 72 * b.heatLoops)] else [])
/-- The sections with their offsets: each starts on a 64-byte boundary after the header. -/
def placeSections (off : Nat) : List (Nat × Nat) → List (Nat × Nat × Nat)
  | [] => []
  | (k, n) :: r => (k, off, n) :: placeSections (off + (n + 63) / 64 * 64) r
def dumpSections (b : Build) : List (Nat × Nat × Nat) := placeSections 256 (dumpKinds b)
/-- The length of a dump. -/
def dumpBytes (b : Build) : Nat := (dumpSections b).foldl (fun _ x => x.2.1 + x.2.2) 256

/-- The 32 words of a dump header in state 1 (R390). -/
def dumpHeader (s : State) (cls : Nat) (code : BitVec 16) (time : Nat) (requested : Bool) : List W64 :=
  let secs := dumpSections s.build
  let dir := secs.flatMap fun x => [w64 (x.1 + put x.2.1 32 32), w64 x.2.2]
  let head := [w64 (1 + put 3 16 8 + put secs.length 24 8 + put (dumpBytes s.build) 32 32),
    w64 (lndVersion + put (fld s.stb.xngCfg 0 16) 32 16 + put s.ump.incarn 48 8), w64 time,
    w64 (1 + put cls 2 7 + put code.toNat 9 16 + putb requested 25), 0, 0, 0, 0] ++ dir
  head ++ List.replicate (32 - head.length) 0

/-- The address of the dump area. -/
def dumpAddr (s : State) : Nat := fld s.ump.dumpBase 21 35 * 2097152

/-- A dump begins (R389): its header goes out with state 1. -/
def beginDump (cls : Nat) (code : BitVec 16) (time : Nat) (requested : Bool) (s : State) : State :=
  let h := dumpHeader s cls code time requested
  startPlan (.dump 0) islUmp 63 [lineWrites 0xFFFF (dumpAddr s) h] (updUmp (fun u => { u with dumpBusy := true, dumpHead := h }) s)
/-- A dump is called for, and one is armed (R389): it is written, after the one that is being written (assumption 40). -/
def startDump (cls : Nat) (code : BitVec 16) (time : Nat) (requested : Bool) (s : State) : State :=
  if !s.ump.dumpArmed then s
  else if s.ump.dumpBusy then
    updUmp (fun u => { u with dumpArmed := false, dumpNext := u.dumpNext ++ [(cls, code, time, requested)] }) s
  else beginDump cls code time requested (updUmp (fun u => { u with dumpArmed := false }) s)
/-- The dump has been written or abandoned: the next one begins. -/
def nextDump (s : State) : State :=
  match s.ump.dumpNext with
  | [] => updUmp (fun u => { u with dumpBusy := false }) s
  | (cls, code, time, requested) :: rest => beginDump cls code time requested (updUmp (fun u => { u with dumpNext := rest }) s)

end Sys2Proof.Machine
end

