-- ==== Sys2Proof/Machine/Pages.lean ====
section
/-! DEFINITION. Rack's heaps, pool pages, page tables, the tier area and the regulators (R304, R305, R307, R309 to R312, R315). -/
namespace Sys2Proof.Machine

/-! ### Heaps (R304, R305) -/

/-- The least power of two at least `n`, from `k` up (`fuel` doublings). -/
def pow2At (n : Nat) : Nat → Nat → Nat
  | 0, k => k
  | fuel + 1, k => if n ≤ k then k else pow2At n fuel (2 * k)
/-- The least power of two at least `n`. -/
def pow2Ceil (n : Nat) : Nat := pow2At n 64 1

/-- The heap of a partition: its base and the log2 of its slices; none while misaligned or out of range (R304, R331). -/
def heapOf (s : State) (p : Nat) : Option (Nat × Nat) :=
  let g := (s.mem.parts.get p).heap
  let k := fld g 0 6
  let base := fld g 12 44 * 4096
  if p < s.build.partitions && 12 ≤ k && k ≤ 36 && base % (2 ^ k * pow2Ceil s.build.memStacks) == 0
  then some (base, k) else none

/-- The blocks taken from a partition's heap: objects of ALLOC and roots, leaves of page tables, and pools (address, size). -/
def usedBlocks (s : State) (p : Nat) : List (Nat × Nat) :=
  (s.rack.objs.cells.filterMap fun o => match o.2.block with
    | some (q, _, a, n) => if q == p && o.2.st != .free then some (a, n) else none
    | none => none) ++
  ((s.mem.tabs.cells.filter fun t => t.2.isTable && poolPart (s.mem.pools.get t.2.pool) == p).flatMap
    fun t => t.2.leaves.map fun l => (l.2.2, 4096)) ++
  ((s.mem.pools.cells.filter fun q => q.2.enabled && poolPart q.2 == p).flatMap
    fun q => q.2.bases.map fun b => (b, pow2Ceil (perStack q.2 * pageBytes q.2)))

/-- The least number of a block of `size` bytes, from `j` on and below `n`, that overlaps no used range. -/
def findBlock (base size n : Nat) (used : List (Nat × Nat)) (j : Nat) : Nat → Option Nat
  | 0 => none
  | fuel + 1 =>
    if n ≤ j then none
    else match used.find? fun u => u.1 < base + (j + 1) * size && base + j * size < u.1 + u.2 with
      | none => some j
      | some u => findBlock base size n used (max (j + 1) ((u.1 + u.2 - base + size - 1) / size)) fuel

/-- A free block of a slice: which one is not defined (R305), so a free value says where the search starts. -/
def freeBlock (s : State) (base size n : Nat) (used : List (Nat × Nat)) (site : Nat) : Option Nat :=
  let fuel := 2 * used.length + 2
  match findBlock base size n used (s.freeValue site % (max 1 n)) fuel with
  | some j => some (base + j * size)
  | none => (findBlock base size n used 0 fuel).map fun j => base + j * size

/-- Take a block for `v` bytes from a partition, trying the slices in rotation (R305): the stack, address and size. -/
def allocBlock (p v : Nat) (s : State) : Option ((Nat × Nat × Nat) × State) :=
  match heapOf s p with
  | none => none
  | some (base, k) =>
    let size := max 4096 (pow2Ceil v)
    if 2 ^ k < v then none else
    let used := usedBlocks s p
    let m := s.build.memStacks
    let next := (s.mem.parts.get p).nextStack
    match (List.range m).findSome? fun i =>
        let st := (next + i) % m
        (freeBlock s (base + st * 2 ^ k) size (2 ^ k / size) used 5).map fun a => (st, a) with
    | none => none
    | some (st, a) => some ((st, a, size),
        updMem (fun q => { q with parts := q.parts.upd p fun x => { x with nextStack := (st + 1) % m } }) s.nextFree)

/-- Make an object of a fresh block: its index, or the code that says why not (R140, R305). -/
def allocObject (owner : CtxId) (p v : Nat) (shared : Bool) (s : State) : Except (BitVec 16) (Nat × State) :=
  match freeIndex s with
  | none => .error eObjectTableFull
  | some i => match allocBlock p v s.nextFree with
    | none => .error ePartitionFull
    | some ((st, a, n), s1) =>
      .ok (i, newObject i { Obj.reset with
        base := a, size := v, owner := owner, shared := shared, partition := p, block := some (p, st, a, n) } s1)

/-! ### Pools (R309) -/

/-- The pages of a pool that tables hold on a stack. -/
def heldOn (s : State) (q st : Nat) : List Nat :=
  (s.mem.tabs.cells.filter fun t => t.2.isTable && t.2.pool == q).flatMap fun t =>
    (t.2.pages.filter fun e => e.stack == st && e.tier.isNone).map (·.index)
/-- Pages that a fill in progress has taken. -/
def fillingOn (s : State) (q st : Nat) : List Nat :=
  (s.mem.moves.filter fun m => m.kind == .fill && (s.mem.tabs.get m.obj).pool == q).flatMap fun m =>
    (m.homes.filter fun e => e.stack == st && e.tier.isNone).map (·.index)
/-- Pages that a spill in progress has left and may have to take back (R315). -/
def spillingOn (s : State) (q st : Nat) : List Nat :=
  (s.mem.moves.filter fun m => m.kind == .spill && (s.mem.tabs.get m.obj).pool == q).flatMap fun m =>
    (m.olds.filter fun e => e.stack == st && e.tier.isNone).map (·.index)
/-- Pages of a stack that cannot be taken: held, being filled or spilled, or withdrawn (R316). -/
def takenOn (s : State) (q st : Nat) : List Nat :=
  heldOn s q st ++ fillingOn s q st ++ spillingOn s q st ++ ((s.mem.pools.get q).quarantine.filter fun x => x.1 == st).map Prod.snd
/-- Free pages of a pool on one stack. -/
def freeOn (s : State) (q st : Nat) : Nat := perStack (s.mem.pools.get q) - (takenOn s q st).eraseDups.length
/-- The free count of a pool (R309). -/
def poolFree (s : State) (q : Nat) : Nat :=
  if (s.mem.pools.get q).enabled then ((List.range s.build.memStacks).map (freeOn s q)).foldl (· + ·) 0 else 0

/-! ### Page tables (R310) -/

/-- The address of a page of a pool. -/
def pageAddr (s : State) (q : Nat) (e : PageEnt) : Nat :=
  match e.tier with
  | some a => a
  | none => (s.mem.pools.get q).bases.getD e.stack 0 + e.index * pageBytes (s.mem.pools.get q)
/-- A leaf entry (R310). -/
def leafEntry (s : State) (q : Nat) (e : PageEnt) : W64 :=
  w64 (put e.stack 0 4 + putb e.tier.isSome 4 + 32 + put (pageAddr s q e / 4096) 12 44)
/-- The words of leaf `j` of a table. -/
def leafWords (s : State) (t : PageTab) (j : Nat) : List W64 :=
  let l := ((t.pages.drop (512 * j)).take 512).map (leafEntry s t.pool)
  l ++ List.replicate (512 - l.length) 0
/-- Positions a table covers. -/
def tabPositions (s : State) (t : PageTab) : Nat := t.pages.length * pageTokens (s.mem.pools.get t.pool)
/-- The words of a root. -/
def rootWords (s : State) (t : PageTab) : List W64 :=
  let head := [w64 (put t.pool 0 4 + putb t.spilled 4 + put t.pages.length 32 32), w64 (tabPositions s t % 2 ^ 32)]
  let ptr (i : Nat) : W64 := match t.leaves.find? fun l => l.1 == i with
    | some l => w64 (1 + put (l.2.2 / 4096) 12 44)
    | none => 0
  head ++ List.replicate 6 0 ++ (List.range 504).map ptr

/-- The writes that turn one block's words into another's: the lines that differ, or all of a new block's. -/
def diffWrites (addr : Nat) (old : Option (List W64)) (new : List W64) : List MemWrite :=
  match old with
  | none => lineWrites 0xFFFF addr new
  | some o => ((lineWrites 0xFFFF addr new).zip (lineWrites 0xFFFF addr o)).filterMap fun p =>
      if p.1.bytes == p.2.bytes then none else some p.1

/-- The writes by which Rack brings a table's leaves and root in memory up to date. `old` is the state before. -/
def tabWrites (old new : State) (i : Nat) : List MemWrite :=
  let a := old.mem.tabs.get i
  let b := new.mem.tabs.get i
  if !b.isTable then [] else
  let leaf (l : Nat × Nat × Nat) : List MemWrite :=
    diffWrites l.2.2 (if a.leaves.contains l then some (leafWords old a l.1) else none) (leafWords new b l.1)
  b.leaves.flatMap leaf ++
  diffWrites (new.rack.objs.get i).base (if a.isTable then some (rootWords old a) else none) (rootWords new b)

/-- The most pages a table of a pool may hold (R310). -/
def pMax (p : Pool) : Nat := min 258048 (0xFFFFFFFF / max 1 (pageTokens p))
/-- Pages that cover `n` positions. -/
def pagesFor (p : Pool) (n : Nat) : Nat := (n + pageTokens p - 1) / max 1 (pageTokens p)

/-- The stack a page is taken from (R311): among the crew's near stacks with a free page the one with the most, else among
all. Between stacks with equally many a free value chooses. -/
def pickStack (s : State) (q crew : Nat) : Option Nat :=
  let all := (List.range s.build.memStacks).filter fun st => 0 < freeOn s q st
  let near := if crew = 63 then [] else all.filter fun st => bit (s.mem.crewNear.get crew) st
  let l := if near.isEmpty then all else near
  let most := (l.map (freeOn s q)).foldl max 0
  let top := l.filter fun st => freeOn s q st == most
  top[s.freeValue 7 % max 1 top.length]?
/-- The page taken on a stack: which one is not said, so a free value chooses among the free ones. -/
def pickIndex (s : State) (q st : Nat) : Nat :=
  let n := perStack (s.mem.pools.get q)
  let taken := takenOn s q st
  let i := leastFree taken (taken.length + 1) (s.freeValue 8 % max 1 n)
  if i < n then i else leastFree taken (taken.length + 1) 0

/-- Change a page table. -/
def updTab (i : Nat) (f : PageTab → PageTab) (s : State) : State := updMem (fun m => { m with tabs := m.tabs.upd i f }) s

/-- Take `n` pages for a table. -/
def takePages (i crew : Nat) : Nat → State → Option State
  | 0, s => some s
  | n + 1, s =>
    let q := (s.mem.tabs.get i).pool
    match pickStack s q crew with
    | none => none
    | some st => takePages i crew n (updTab i (fun t => { t with pages := t.pages ++ [⟨st, pickIndex s q st, none⟩] }) s.nextFree)
/-- Take the leaves that a table's pages need. -/
def takeLeaves (i : Nat) : Nat → State → Option State
  | 0, s => some s
  | fuel + 1, s =>
    let t := s.mem.tabs.get i
    if (t.pages.length + 511) / 512 ≤ t.leaves.length then some s
    else match allocBlock (poolPart (s.mem.pools.get t.pool)) 4096 s with
      | none => none
      | some ((st, a, _), s1) => takeLeaves i fuel (updTab i (fun t => { t with leaves := t.leaves ++ [(t.leaves.length, st, a)] }) s1)

/-- Grow a table to cover some positions, all or nothing (R311): the result number 1, 3 or 4, or the state after. -/
def growTab (i positions crew : Nat) (s : State) : Except Nat State :=
  let t := s.mem.tabs.get i
  let p := s.mem.pools.get t.pool
  let need := pagesFor p positions
  if !p.enabled then .error 1
  else if pMax p < need then .error 3
  else if need ≤ t.pages.length then .ok s
  else match takePages i crew (need - t.pages.length) s with
    | none => .error 1
    | some s1 => match takeLeaves i 505 s1 with
      | none => .error 4
      | some s2 => .ok (ergCount 16 (need - t.pages.length) { ctx := some (s.rack.objs.get i).owner } s2)

/-- A new, empty page table in a pool (R310), owned by a context. -/
def newTab (q : Nat) (owner : CtxId) (s : State) : Option (Nat × State) :=
  match allocObject owner (poolPart (s.mem.pools.get q)) 4096 false s with
  | .ok (i, s1) => some (i, updTab i (fun _ => { PageTab.reset with isTable := true, pool := q }) s1)
  | .error _ => none

/-- Keep the first pages that cover `keep` positions; leaves left empty are freed (R312). -/
def trimTab (i keep : Nat) (s : State) : State :=
  let n := pagesFor (s.mem.pools.get (s.mem.tabs.get i).pool) keep
  let s1 := if (s.mem.tabs.get i).pages.length ≤ n then s else pagesFreed s
  updTab i (fun t => if t.pages.length ≤ n then t else
    { t with pages := t.pages.take n, leaves := t.leaves.filter fun l => 512 * l.1 < n }) s1
/-- Drop the owner reference of an emptied table (R312). -/
def dropTab (i : Nat) (s : State) : State :=
  let o := s.rack.objs.get i
  if o.ownerRef then setRefs i (o.refs - 1) (updObj i (fun o => { o with st := .freeing, ownerRef := false }) s) else s

/-- A spill or fill of a table is in progress: Rack applies other operations on it afterwards (R314). -/
def tabMoves (s : State) (t : Nat) : Bool := s.mem.moves.any fun m => m.kind != .refetch && m.obj == t && t != 0

/-! ### The tier area (R315) -/

/-- The ranges of the tier area in use: spilled pages and pages being moved there. -/
def tierUsed (s : State) : List (Nat × Nat) :=
  (s.mem.tabs.cells.filter fun t => t.2.isTable).flatMap (fun t =>
    t.2.pages.filterMap fun e => e.tier.map fun a => (a, pageBytes (s.mem.pools.get t.2.pool))) ++
  (s.mem.moves.flatMap fun m => m.homes.filterMap fun e =>
    e.tier.map fun a => (a, pageBytes (s.mem.pools.get (s.mem.tabs.get m.obj).pool)))
/-- The tier area: base and size. -/
def tierBaseOf (s : State) : Nat := fld s.mem.tierBase 12 44 * 4096
def tierSizeOf (s : State) : Nat := fld s.mem.tierSize 12 33 * 4096

/-- Room in the tier area for each of some pages, or `none`. -/
def tierRoom (s : State) (bytes : Nat) : Nat → List (Nat × Nat) → Option (List Nat)
  | 0, _ => some []
  | n + 1, used =>
    match freeBlock s (tierBaseOf s) bytes (tierSizeOf s / max 1 bytes) used 9 with
    | none => none
    | some a => (tierRoom s bytes n ((a, bytes) :: used)).map (a :: ·)

/-! ### Regulators (R307) -/

/-- The tokens of a partition now, in 1/1000 byte (R307): 16 MB/s units make 16 bytes a µs for each unit. -/
def tokensNow (s : State) (p : Nat) : Nat :=
  let x := s.mem.parts.get p
  let mode := if p = 0 then 0 else fld x.reg 32 2
  if mode = 0 then x.tokens
  else
    let burst := max 32 (fld x.reg 16 16) * 65536 * 1000
    min burst (x.tokens + (s.now / 4 - x.tokAt) * (fld x.reg 0 16 * 16))
/-- Bring a partition's tokens up to the present. -/
def refillPart (p : Nat) (s : State) : State :=
  updMem (fun m => { m with parts := m.parts.upd p fun x => { x with tokens := tokensNow s p, tokAt := s.now / 4 } }) s

end Sys2Proof.Machine
end

