-- ==== Sys2Proof/Machine/Maps.lean ====
section
/-! DEFINITION. Scratchpad maps (R317 to R322): checking, the handle table, and the end of a model's residency (R321). -/
namespace Sys2Proof.Machine

/-- A map's entry by slot of the context table. -/
def State.map (s : State) (slot : Nat) : SldCtx := s.sld.ctxs.get slot
def updMap (slot : Nat) (f : SldCtx → SldCtx) (s : State) : State := updSld (fun d => { d with ctxs := d.ctxs.upd slot f }) s

/-- Read a region record (R317). -/
def regionOf (w0 w1 : W64) : Region :=
  { kind := fld w0 0 3, banked := bit w0 3, handle := fld w0 4 12, fillCtr := fld w0 16 6, drainCtr := fld w0 22 6,
    slotsLog2 := fld w0 28 5, base := fld w1 0 32, size := fld w1 32 32 }

def isAcc (r : Region) : Bool := r.kind == 4
/-- A region whose bytes are live state: LIVE, CIRCULAR or ACC (R318). -/
def isLiveKind (r : Region) : Bool := r.kind == 1 || r.kind == 2 || r.kind == 4
/-- Two regions share bytes: the band is the same for both geometries (R319), and ACC lies in its own space. -/
def overlaps (a b : Region) : Bool :=
  isAcc a == isAcc b && a.base < b.base + b.size && b.base < a.base + a.size

/-- One region of a map fails R317. `earlier` are the regions before it. -/
def regionBad (s : State) (slot : Nat) (earlier : List Region) (r : Region) : Bool :=
  let g := if isAcc r then 64 else 2048
  let room := (if isAcc r then s.rig.now.accKib else s.rig.now.spadKib) * 1024
  4 < r.kind || (isAcc r && r.banked) || r.base % g != 0 || r.size % g != 0 || r.size == 0 || room < r.base + r.size ||
  (r.kind != 0 && earlier.any fun e => e.kind != 0 && overlaps e r) ||
  (r.kind == 2 && (r.slotsLog2 < 1 || 16 < r.slotsLog2 || r.size % 2 ^ r.slotsLog2 != 0 || r.fillCtr == r.drainCtr ||
    48 ≤ r.fillCtr || 48 ≤ r.drainCtr)) ||
  (r.handle != 0 && (match s.sld.handles.get r.handle with | none => false | some o => o != slot))

/-- The first region that fails. -/
def firstBadRegion (s : State) (slot : Nat) (earlier : List Region) : List Region → Option Nat
  | [] => none
  | r :: rest => if regionBad s slot earlier r then some earlier.length else firstBadRegion s slot (earlier ++ [r]) rest

/-- A cluster block's size in KiB (R325): 8 and the live regions' sizes, rounded up to whole 4 KiB. -/
def needKib (l : List Region) : Nat :=
  let bytes := 8192 + ((l.filter isLiveKind).map (·.size)).foldl (· + ·) 0
  (bytes + 4095) / 4096 * 4

/-- The address of a handle-table entry (R322). -/
def handleAddr (s : State) (h : Nat) : Nat := fld s.sld.htab 16 40 * 65536 + 16 * h
/-- The entry that a region installs. -/
def handleWords (ctx : CtxId) (r : Region) : List W64 :=
  [w64 (ctx.toNat + 2 ^ 16 + putb r.banked 17 + putb (isAcc r) 18), w64 (r.base + put r.size 32 32)]

/-- Handles that a slot holds. -/
def slotHandles (s : State) (slot : Nat) : List Nat :=
  (s.sld.handles.cells.filter fun p => p.2 == some slot).map Prod.fst

/-- Start the handle writes of a slot, after those that are still out; the command is complete when the last is answered (R322,
R332). -/
def startHandles (slot : Nat) (l : List (Nat × List W64)) (s : State) : State :=
  let ws := l.map fun h => (⟨false, handleAddr s h.1, 0xFFFF, wordsToBytes h.2⟩ : MemWrite)
  let s1 := updMap slot (fun c => { c with busy := c.busy + l.length }) s
  if (s.map slot).busy != 0 then
    updPorts (fun p => { p with plans := p.plans.map fun x => if x.who == .htab slot then { x with batches := x.batches ++ [ws] } else x }) s1
  else if l.isEmpty then updMap slot (fun c => { c with registered := !c.regions.isEmpty }) s
  else startPlan (.htab slot) islSld 63 [ws] s1
/-- The handle writes of a slot are answered. -/
def handlesDone (slot : Nat) (err : RespErr) (s : State) : State :=
  updMap slot (fun c => { c with
    busy := 0, cmdErr := c.cmdErr || err != .ok, registered := err == .ok && !c.regions.isEmpty }) s

/-- Remove a slot's map and clear its handles (R322, R332). -/
def unregisterMap (slot : Nat) (s : State) : State :=
  let hs := slotHandles s slot
  let s1 := updSld (fun d => { d with handles := each hs (fun t h => t.set h none) d.handles }) s
  startHandles slot (hs.map fun h => (h, [0, 0])) (updMap slot (fun c => { c with registered := false, regions := [] }) s1)

/-- The regions of a map (R317): none when its count is not 1 to 32. -/
def mapRegions (b : List Byte) : List Region :=
  let n := leAt b 0 8 % 64
  if n < 1 || 32 < n then []
  else (List.range n).map fun i => regionOf (w64 (leAt b (64 + 16 * i) 8)) (w64 (leAt b (72 + 16 * i) 8))

/-- The regions registered for a context. -/
def ctxRegions (s : State) (c : CtxId) : List Region :=
  match slotOf s c with
  | some i => if (s.map i).registered then (s.map i).regions else []
  | none => []

/-! ### Model residency (R259, R321) -/

/-- The crew's model residency ends. -/
def endModel (crew : Nat) (s : State) : State :=
  { s with heat := { s.heat with residency := s.heat.residency.set crew none } }

/-- A context's registered map overlaps a RETAINED region of a loop's context. -/
def overlapsRetained (s : State) (ctx loopCtx : CtxId) : Bool :=
  (ctxRegions s ctx).any fun r => (ctxRegions s loopCtx).any fun k => k.kind == 3 && overlaps r k

/-- A context becomes resident at a cluster: the models of crews with that cluster end where R321 says so. -/
def residentEnds (c : Nat) (ctx : CtxId) (s : State) : State :=
  each (s.heat.residency.cells) (fun s p => match p.2 with
    | none => s
    | some (l, _) =>
      let lc := (s.heat.loops.get l).ctx
      if (s.rig.now.crews.get p.1).members.contains c && ctx != lc && overlapsRetained s ctx lc then endModel p.1 s else s) s

end Sys2Proof.Machine
end

