-- ==== Sys2Proof/Machine/SaveJobs.lean ====
section
/-! DEFINITION. Slide's jobs: holds, save areas, and how a save or vacate begins (R204, R325 to R327). -/
namespace Sys2Proof.Machine

def updJob (id : Nat) (f : SaveJob → SaveJob) (s : State) : State :=
  updSld (fun d => { d with jobs := d.jobs.map fun j => if j.id == id then f j else j }) s
def updCl (id c : Nat) (f : ClJob → ClJob) (s : State) : State :=
  updJob id (fun j => { j with clusters := j.clusters.map fun x =>
    if x.cluster == c then { f x with since := if (f x).st == x.st then (f x).since else s.now } else x }) s
def jobOf (s : State) (id : Nat) : Option SaveJob := s.sld.jobs.find? fun j => j.id == id

/-- Hold slots in use at a cluster: by saves that hold a context there, and by jobs under way. -/
def holdsUsed (s : State) (c : Nat) : List Nat :=
  (s.sld.held.filterMap fun h => if h.2.1 == c then some h.2.2 else none) ++
  (s.sld.jobs.filterMap fun j => if j.kind != .restore && j.clusters.any (fun x => x.cluster == c) then some j.holdId else none)
/-- A hold slot 0 to 3 that is free at every named cluster (R204). -/
def freeHold (s : State) (cs : List Nat) : Option Nat := (List.range 4).find? fun k => cs.all fun c => !((holdsUsed s c).contains k)
/-- The context is held by a save, or is being saved, at a cluster (R326). -/
def heldBySave (s : State) (ctx : CtxId) (c : Nat) : Bool :=
  (s.sld.held.any fun h => h.1 == ctx && h.2.1 == c) ||
  (s.sld.jobs.any fun j => j.kind == .save && j.ctx == ctx && j.clusters.any fun x => x.cluster == c)

/-- One cluster of a job that begins. -/
def newCl (st : ClSt) (now c : Nat) : ClJob := ⟨c, st, [], false, 0, 0, now⟩

/-- The 64 lines of a save area's header (R325). -/
def headerWords (s : State) (j : SaveJob) (state : Nat) : List W64 :=
  let bits := (j.clusters.map (·.cluster)).foldl (fun n c => n + 2 ^ c) 0
  let at_ := if state = 2 then s.now else 0
  [w64 (j.ctx.toNat + put state 16 2 + put j.needKib 32 32), w64 at_] ++ List.replicate 6 0 ++
  ((List.range 8).map fun i => w64 (bits / 2 ^ (64 * i) % 2 ^ 64)) ++ List.replicate 496 0

/-- The data block of the i-th cluster of an area. -/
def blockAddr (j : SaveJob) (c : Nat) : Nat :=
  j.area + 4096 + (j.clusters.findIdx fun x => x.cluster == c) * j.needKib * 1024

/-- Begin a save or a vacate (R326, R327) with a hold slot that is free: the HOLD goes out with the scope `m` names. -/
def startSave (kind : JobKind) (who : JobWho) (ctx : CtxId) (area hold tree : Nat) (cs : List Nat) (m : LaunchMsg) (s : State) : State :=
  let id := s.sld.nextId
  let j : SaveJob := ⟨id, kind, who, ctx, area, hold, cs.map (newCl .hold s.now), m, needKib (ctxRegions s ctx), false⟩
  let s1 := updSld (fun d => { d with nextId := id + 1, jobs := d.jobs ++ [j] }) s
  let s2 := if kind == .save then startPlan (.saveHead id) islSld 63 [lineWrites ctx area (headerWords s j 1)] s1 else s1
  sendTree tree { m with kind := .hold, group := 0, workClass := 0, origin := 0, ctx := ctx, priority := 0, holdId := hold } s2

end Sys2Proof.Machine
end

