-- ==== Sys2Proof/Machine/Waiters.lean ====
section
/-! DEFINITION. Access to Stakeboat's tables, and removing a waiter (R217, R220). -/
namespace Sys2Proof.Machine

def updStb (f : Stb → Stb) (s : State) : State := { s with stb := f s.stb }
def updWaiter (i : Nat) (f : Waiter → Waiter) (s : State) : State :=
  { s with stb := { s.stb with waiters := s.stb.waiters.upd i f } }
/-- The numbers that STB_SEAT_WAIT gives the states. -/
def waitStNum : WaitSt → Nat | .idle => 0 | .read => 1 | .arming => 2 | .verify => 3 | .watched => 4 | .polled => 5
/-- A waiter whose state may change (R387). -/
def moveWaiter (i : Nat) (f : Waiter → Waiter) (s : State) : State :=
  let t := updWaiter i f s
  stateEv islStb 3 i (waitStNum (s.stb.waiters.get i).st) (waitStNum (t.stb.waiters.get i).st) t
def updWatch (i : Nat) (f : Watch → Watch) (s : State) : State :=
  { s with stb := { s.stb with watch := s.stb.watch.upd i f } }

/-! ### Waiters -/

/-- Waiters attached to a watch entry, or waiting on its arm or disarm. -/
def waitersOn (s : State) (e : Nat) : List Nat :=
  (s.stb.waiters.cells.filter fun p => p.2.st != .idle && p.2.entry == some e).map Prod.fst

/-- A read is in flight for a waiter (R218): one of its own, or one of its word that R214 makes for the entry it is attached to. -/
def readOut (s : State) (w : Waiter) : Bool :=
  w.reads != 0 ||
  (match w.entry with
   | some e => (w.st == .verify || w.st == .watched) && s.ports.at_.any fun q => !q.stale && q.why == .watchRead e w.addr
   | none => false)

/-- A waiter leaves its entry: an ARMED entry left without waiters lingers (R217). -/
def leaveWatch (e : Nat) (s : State) : State :=
  if (s.stb.watch.get e).st == .armed && (waitersOn s e).isEmpty
  then updWatch e (fun w => { w with linger := some s.now }) s else s

/-- Remove a waiter (R220): IDLE, and reads in flight for it are no longer its own. -/
def dropWaiter (i : Nat) (s : State) : State :=
  let w := s.stb.waiters.get i
  if w.st == .idle then s else
    let s1 := moveWaiter i (fun w => { Waiter.reset with gen := w.gen + 1 }) s
    match w.entry with
    | some e => leaveWatch e s1
    | none => s1

end Sys2Proof.Machine
end

