-- ==== Sys2Proof/Machine/Heats.lean ====
section
/-! DEFINITION. Heat's shared operations: sequences, result records, the journal, freeing and rolling back a heat
(R255 to R258, R267 to R269, R398 to R401). -/
namespace Sys2Proof.Machine

/-! ### Access -/

def State.loop (s : State) (l : Nat) : Loop := s.heat.loops.get l
def State.hslot (s : State) (l k : Nat) : HeatSlot := (s.loop l).slots.get k
def updHeat (f : Heat → Heat) (s : State) : State := { s with heat := f s.heat }
def updLoop (l : Nat) (f : Loop → Loop) (s : State) : State :=
  { s with heat := { s.heat with loops := s.heat.loops.upd l f } }
def updHSlot (l k : Nat) (f : HeatSlot → HeatSlot) (s : State) : State :=
  updLoop l (fun g => { g with slots := g.slots.upd k f }) s
/-- The numbers that HEA_SLOT gives the states. -/
def slotStNum : SlotSt → Nat
  | .free => 0 | .save => 1 | .switch => 2 | .compose => 3 | .grow => 4 | .run => 5 | .judge => 6 | .commit => 7
/-- A heat slot whose state may change (R387). -/
def moveHSlot (l k : Nat) (f : HeatSlot → HeatSlot) (s : State) : State :=
  let t := updHSlot l k f s
  let st (x : State) : Nat := slotStNum ((x.heat.loops.get l).slots.get k).st
  stateEv islHea 2 k (st s) (st t) t
def updBhs (f : Bhs → Bhs) (s : State) : State := { s with bhs := f s.bhs }
/-- Recovery has still to deal with what a loop had under way (R403). -/
def recovers (s : State) (l : Nat) : Bool := s.bhs.recovering.any fun x => x.1 == l
/-- Heat works on the heats of a loop. -/
def heatUp (s : State) (l : Nat) : Bool := computeUp s && !(recovers s l)

/-- Heats in flight of a loop. -/
def loopInFlight (g : Loop) : Nat := ((List.range 8).filter fun k => (g.slots.get k).st != .free).length
/-- The sequences of a loop that are not FREE. -/
def liveSeqs (g : Loop) : List (Nat × SeqEnt) := g.seqs.cells.filter fun p => p.2.st != .free
/-- A sequence is ready (R257). -/
def seqReady (e : SeqEnt) : Bool := (e.st == .prefill || e.st == .decode) && !e.inHeat && !e.cancel
/-- A context has a ready sequence. -/
def chargeReady (s : State) (c : CtxId) : Bool :=
  s.heat.loops.cells.any fun g => g.2.seqs.cells.any fun p => seqReady p.2 && p.2.chargeCtx == c

/-! ### Shares (R269) -/

/-- Charge engine time to a context. -/
def charge (c : CtxId) (t : Nat) (s : State) : State :=
  match slotOf s c with
  | none => s
  | some i => updHeat (fun h => { h with shares := h.shares.upd i fun x =>
      { x with used := satAdd 64 x.used t, vtime := if x.weight = 0 then x.vtime else x.vtime + t * 65536 / x.weight } }) s
/-- A context's virtual time is at least the floor. -/
def raiseVtime (c : CtxId) (s : State) : State :=
  match slotOf s c with
  | none => s
  | some i => updHeat (fun h => { h with shares := h.shares.upd i fun x => { x with vtime := max x.vtime h.floor } }) s

/-- Change a sequence; a context that gains a ready sequence having had none is brought up to the floor. -/
def updSeq (l i : Nat) (f : SeqEnt → SeqEnt) (s : State) : State :=
  let c := (f ((s.loop l).seqs.get i)).chargeCtx
  let old := (s.loop l).seqs.get i
  let s1 := updLoop l (fun g => { g with
    seqs := g.seqs.upd i f, barren := g.barren && (seqReady old || !(seqReady (f old))) }) s
  if !(chargeReady s c) && chargeReady s1 c then raiseVtime c s1 else s1

/-! ### Entries and records (R255, R257) -/

def seqStNum : SeqSt → Nat
  | .free => 0 | .gated => 1 | .prefill => 2 | .decode => 3 | .spilled => 4 | .leaving => 0
/-- The words of a sequence-table entry (R257). -/
def seqWords (e : SeqEnt) : List W64 :=
  if e.st == .free || e.st == .leaving then List.replicate 8 0 else
  [w64 (seqStNum e.st + putb e.inHeat 3 + putb e.stream 4 + putb e.cancel 5 + putb e.kvWait 6 + put e.model 8 3 +
     put e.resultRing 11 4 + put e.requestRing 15 4 + put e.fails 19 2 + put e.chargeCtx.toNat 32 16),
   e.requestId, w64 (put e.promptAddr 0 56), w64 (put e.promptLen 0 24 + put e.maxNew 24 24),
   w64 (put e.pos 0 32 + put e.generated 32 32), w64 (put e.outputAddr 0 56), w64 (put e.judgeParams 0 56),
   w64 (e.kv.toNat + put e.admitted 32 32)]
/-- The write of an entry at its place in the sequence table. -/
def entWrite (s : State) (l i : Nat) (e : SeqEnt) : MemWrite :=
  ⟨false, (s.loop l).seqTable + 64 * i, 0xFFFF, wordsToBytes (seqWords e)⟩
/-- The write of a sequence's entry. -/
def seqWrite (s : State) (l i : Nat) : MemWrite := entWrite s l i ((s.loop l).seqs.get i)

/-- What a result record says (R255). -/
structure ResultRec where
  kind : Nat
  reason : Nat := 0
  seq : Nat
  charge : CtxId
  code : BitVec 16 := 0
  requestId : W64
  first : Nat
  total : Nat
  tokens : List Nat := []

/-- Tokens three to a word, 20 bits each (R255, R282, R297). -/
def packTokens (l : List Nat) (n : Nat) : List W64 :=
  (List.range n).map fun w => w64 (put (l.getD (3 * w) 0) 0 20 + put (l.getD (3 * w + 1) 0) 20 20 + put (l.getD (3 * w + 2) 0) 40 20)
/-- The words of a result record with count `c` in a ring. -/
def resultWords (g : ResRing) (c : Count) (r : ResultRec) : List W64 :=
  let phase := c.toNat / 2 ^ g.log2 % 2 == 0
  [w64 (putb phase 0 + put r.kind 1 3 + put r.tokens.length 4 5 + put r.reason 9 4 + put r.seq 16 16 +
     put r.charge.toNat 32 16 + put r.code.toNat 48 16), r.requestId, w64 (put r.first 0 32 + put r.total 32 32)] ++
  packTokens r.tokens 5
/-- Add a record to a result ring (R255); a ring that is not enabled takes none. -/
def addResult (l ring : Nat) (r : ResultRec) (s : State) : List MemWrite × State :=
  let g := (s.loop l).ress.get ring
  if !g.enabled then ([], s) else
    let a := g.base + 64 * (g.written.toNat % 2 ^ g.log2)
    ([⟨!g.dev, a, (s.loop l).ctx, wordsToBytes (resultWords g g.written r)⟩],
      updLoop l (fun x => { x with ress := x.ress.upd ring fun g => { g with written := g.written + 1 } }) s)

/-- Zero lines for a whole sequence table. -/
def clearWrites (g : Loop) : List MemWrite :=
  (List.range (2 ^ g.liveLog2)).map fun i => ⟨false, g.seqTable + 64 * i, 0xFFFF, List.replicate 64 0⟩
/-- The writes of the pending intent go out (R398), once recovery has read what it needs (R403). -/
def startIntent (l : Nat) (s : State) : State :=
  let g := s.loop l
  match g.intent with
  | [] => s
  | x :: rest =>
    if x.plan.isSome || inReset s || s.bhs.recovering.contains (l, 0) then s else
      startPlan (.heatIntent l) islHea 63 (if x.kind == .clear then [clearWrites g] else x.writes)
        (updLoop l (fun g => { g with intent := { x with plan := some s.ports.nextPlan } :: rest }) s)
/-- An intent is pending once those before it are complete (R398). -/
def addIntent (l : Nat) (x : Intent) (s : State) : State :=
  if x.writes.all (·.isEmpty) && x.kind != .clear then s
  else startIntent l (updLoop l (fun g => { g with intent := g.intent ++ [x] }) s)
/-- The writes of the pending intent are answered: sequences that it retired are FREE (R258), and the next one is pending. -/
def intentDone (l : Nat) (s : State) : State :=
  match (s.loop l).intent with
  | [] => s
  | x :: rest =>
    startIntent l (each x.frees (fun s i => updSeq l i (fun _ => SeqEnt.reset) s) (updLoop l (fun g => { g with intent := rest }) s))
/-- Heat writes one entry. -/
def writeEntry (l i : Nat) (s : State) : State := addIntent l { kind := .entry, seq := i, writes := [[seqWrite s l i]] } s

/-- The interrupt of one result ring, or its being due within the holdoff (R109, R256). -/
def resultIrq (l : Nat) (s : State) (r : Nat) : State :=
  let g := (s.loop l).ress.get r
  if !g.irq || !g.enabled then s else
    let quiet : Bool := match g.irqLast with
      | some t => decide (s.now < t + g.holdoff * usTu)
      | none => false
    if quiet then updLoop l (fun x => { x with ress := x.ress.upd r fun g => { g with irqDue := true } }) s
    else raiseIrq g.vector (updLoop l (fun x => { x with
      ress := x.ress.upd r fun g => { g with irqLast := some s.now, irqDue := false } }) s)
/-- The interrupts of the rings in a mask. -/
def ringIrqs (l rings : Nat) (s : State) : State :=
  each ((List.range 16).filter fun r => Nat.testBit rings r) (resultIrq l) s
/-- Interrupts of a loop's result rings that fell due within their holdoff. -/
def dueIrqs (l : Nat) (s : State) : State :=
  each ((List.range 16).filter fun r => ((s.loop l).ress.get r).irqDue) (resultIrq l) s

/-! ### The life of a loop (R250) -/

/-- Drop the references a loop holds on its models' weights. -/
def dropWeights (l : Nat) (s : State) : State :=
  each (List.range 8) (fun s m =>
    let x := (s.loop l).models.get m
    if x.valid && x.weights != 0 then (match refSubOp none x.weights 1 s with | .ok s' => s' | .error _ => s) else s) s
/-- The loop becomes STOPPED or FAILED. -/
def endLoop (l : Nat) (st : LoopSt) (code : BitVec 16) (s : State) : State :=
  let on := (s.loop l).starting || ((s.loop l).st != .stopped && (s.loop l).st != .failed)
  let s1 := if on then dropWeights l s else s
  updLoop l (fun g => { g with
    st := st, stopping := false, starting := false, ending := none, errCode := code, paused := none }) s1
/-- The loop stops or fails with a code: at once, or when its last heat in flight has been rolled back (R268). It begins no heat and
admits no request meanwhile; the first code stands, unless the loop's context fails as well. -/
def closeLoop (l : Nat) (st : LoopSt) (code : BitVec 16) (s : State) : State :=
  let g := s.loop l
  if loopInFlight g = 0 then endLoop l st code s
  else updLoop l (fun g => { g with
    stopping := true, ending := if g.ending.isSome && (st != .failed || g.ending.any (·.1 == .failed)) then g.ending else some (st, code)
    st := if g.st == .paused then .running else g.st, paused := none }) s
/-- STOP and DRAIN, and the end that an error has set, come when nothing they wait for is left. -/
def checkLoop (l : Nat) (s : State) : State :=
  let g := s.loop l
  if loopInFlight g != 0 then s
  else if (g.st == .running || g.st == .draining) && g.stopping then
    endLoop l ((g.ending.map (·.1)).getD .stopped) ((g.ending.map (·.2)).getD 0) s
  else if g.st == .draining && (liveSeqs g).isEmpty then endLoop l .stopped 0 s
  else s

/-! ### Retiring a sequence (R258) -/

/-- Rack trims every page of a table and frees it: the writes, and the state after. -/
def freeTable (h : W32) (s : State) : List MemWrite × State :=
  let t := hIdx h
  if h = 0 || objStale s h || !(s.mem.tabs.get t).isTable then ([], s) else
    let s1 := trimTab t 0 s
    let w := tabWrites s s1 t
    (w, dropTab t s1)

/-- A sequence's gate is waited for no longer. -/
def dropGate (l i : Nat) (w : Option Nat) (s : State) : State :=
  let s1 := updStb (fun b => { b with gateDone := b.gateDone.filter fun g => !(g.1 == l && g.2.1 == i) }) s
  match w with
  | some k => if (s.stb.waiters.get k).gate == some (l, i) then dropWaiter k s1 else s1
  | none => s1

/-- An entry whose sequence is being retired. -/
def SeqEnt.gone (e : SeqEnt) : SeqEnt := { SeqEnt.reset with st := .leaving, resultRing := e.resultRing }
/-- A sequence is live: not FREE, nor on its way there. -/
def seqLive (e : SeqEnt) : Bool := e.st != .free && e.st != .leaving

/-- Retire sequence `i` of a loop outside a commit: pages, final record, entry FREE. While its table is spilled or filled the trim has
to wait (R314), and the retirement with it. -/
def retireAs (how : IntentKind) (l i kind reason : Nat) (code : BitVec 16) (s : State) : State :=
  let g := s.loop l
  let e := g.seqs.get i
  if !(seqLive e) then s
  else if tabMoves s (hIdx e.kv) then
    updSeq l i (fun e => if kind == 2 then { e with cancel := true } else { e with ctxFailed := e.ctxFailed.or (some code) }) s
  else
    let (tw, s1) := freeTable e.kv s
    let (rw, s2) := addResult l e.resultRing
      { kind := kind, reason := reason, seq := i, charge := e.chargeCtx, code := code, requestId := e.requestId,
        first := e.generated, total := e.generated } s1
    let s3 := updSeq l i SeqEnt.gone (dropGate l i e.waiter s2)
    addIntent l { kind := how, ring := e.requestRing, count := (g.reqs.get e.requestRing).next, seq := i, kv := e.kv,
                  result := if rw.isEmpty then none else some (e.resultRing, (g.ress.get e.resultRing).written),
                  rings := if rw.isEmpty then 0 else 2 ^ e.resultRing, frees := [i], writes := [tw, rw, [seqWrite s3 l i]] } s3
/-- A retirement that is no gate failure (R398). -/
def retireSeq (l i kind reason : Nat) (code : BitVec 16) (s : State) : State := retireAs .retirement l i kind reason code s
/-- A sequence that is in no heat is retired when its context has failed or it is cancelled (R253, R258). -/
def retireDue (l i : Nat) (s : State) : State :=
  let e := (s.loop l).seqs.get i
  match e.ctxFailed with
  | some c => retireSeq l i 3 0 c s
  | none => if e.cancel then retireSeq l i 2 4 0 s else s

/-- A context fails: its sequences are retired, at once or at their heat's commit; a loop of the context fails (R258, R268). -/
def failCtxSeqs (c : CtxId) (code : BitVec 16) (s : State) : State :=
  each (s.heat.loops.cells.map Prod.fst) (fun s l =>
    let own := (s.loop l).ctx == c && (s.loop l).st != .stopped && (s.loop l).st != .failed
    let s1 := if own then closeLoop l .failed code s else s
    each (liveSeqs (s1.loop l)) (fun s p =>
      if !own && p.2.chargeCtx != c then s
      else if p.2.inHeat then updSeq l p.1 (fun e => { e with ctxFailed := some code }) s
      else retireSeq l p.1 3 0 code s) s1) s

/-! ### The journal (R398 to R401) -/

/-- Boathouse journals: enabled with valid settings (R411). -/
def bhsEnabled (s : State) : Bool :=
  let k := fld s.bhs.cfg 1 6
  s.build.hasBoathouse && bit s.bhs.cfg 0 && 20 ≤ k && k ≤ 30 && fld s.bhs.cfg 12 44 * 4096 % 2 ^ k == 0
/-- Lines of the journal. -/
def journalLines (s : State) : Nat := 2 ^ fld s.bhs.cfg 1 6 / 64
/-- Lines held. -/
def journalUsed (s : State) : Nat := (s.bhs.recs.map (·.lines)).foldl (· + ·) 0
/-- Boathouse writes records (R401). -/
def journals (s : State) : Bool := bhsEnabled s && !s.bhs.degraded
/-- Room for a record of some lines. -/
def journalFits (s : State) (n : Nat) : Bool := journalUsed s + n ≤ journalLines s
/-- Room for a COMPOSE record of some lines (R399); records that wait already come first. -/
def journalRoom (s : State) (n : Nat) : Bool := !(journals s) || (s.bhs.waiting.isEmpty && journalFits s n)
/-- Lines of a COMPOSE record of some members (R400). -/
def composeLines (n : Nat) : Nat := 1 + (n + 3) / 4

/-- The header line of a record (R400). -/
def journalHeader (s : State) (l k : Nat) (h : HeatSlot) (kind lines : Nat) (word3 word4 word5 : Nat) : List W64 :=
  [w64 (put kind 0 4 + put l 4 4 + put k 8 3 + putb h.rerun 11 + put lines 16 16), w64 h.step, w64 s.now, w64 word3, w64 word4,
   w64 word5, 0, 0]

/-- Reclaim, oldest first, the records of heats whose DONE or ABORT is acknowledged (R399). -/
def reclaimRecs (l : List JRec) : Nat → List JRec
  | 0 => l
  | fuel + 1 => match l with
    | [] => []
    | r :: rest =>
      if l.any fun x => x.loop == r.loop && x.slot == r.slot && x.step == r.step && 3 ≤ x.kind && x.acked
      then (if (rest.any fun x => x.loop == r.loop && x.slot == r.slot && x.step == r.step) || 3 ≤ r.kind
        then reclaimRecs rest fuel else l) else l

/-- Tokens of a member charged at a commit. -/
def heatTokens (h : HeatSlot) : Nat := (h.members.map (·.count)).foldl (· + ·) 0

/-- At a commit the heat's engine time is charged to its members' contexts (R269). -/
def chargeHeat (l k : Nat) (s : State) : State :=
  let h := s.hslot l k
  let t := h.time + (s.loop l).residue
  let n := heatTokens h
  let by_ : List (CtxId × Nat) := h.members.foldl (fun acc m =>
    let c := m.charge
    if acc.any (fun x => x.1 == c) then acc.map (fun x => if x.1 == c then (c, x.2 + m.count) else x) else acc ++ [(c, m.count)]) []
  let parts := by_.map fun x => (x.1, x.2, t * x.2 / max 1 n)
  let rest := t - (parts.map (·.2.2)).foldl (· + ·) 0
  let top := best (fun a b => if a.2.1 != b.2.1 then b.2.1 < a.2.1 else a.1.toNat < b.1.toNat) parts
  let s1 := updLoop l (fun g => { g with residue := 0 }) s
  each parts (fun s p => charge p.1 (p.2.2 + if top.map (·.1) == some p.1 then rest else 0) s) s1

/-- Heat lets go of a slot, its seat and its work; the pins go elsewhere. -/
def letGoSlot (l k : Nat) (s : State) : State :=
  let s2 := updMar (fun m => { m with works := m.works.filter fun w => w.owner != .heat l k }) s
  checkLoop l (moveHSlot l k (fun _ => HeatSlot.reset) (moveSeat (s.hslot l k).seat (fun _ => Seat.reset) s2))
/-- The course pins of a heat. -/
def heatPins (s : State) (l k : Nat) : List Pin :=
  match s.work? (.heat l k) with
  | some w => w.pins
  | none => []
/-- What a record of a failed pin drop says of a heat (R142, R162). -/
def heatDropRec (s : State) (l k : Nat) : LogRec :=
  { LogRec.zero with cls := 1, island := islRck, loop := l, step := ((s.loop l).slots.get k).step, ctx := (s.loop l).ctx }
/-- Heat lets go of a slot and of its pins. -/
def freeHeatSlot (l k : Nat) (s : State) : State := letGoSlot l k (each (heatPins s l k) (dropPin (heatDropRec s l k)) s)

/-- DONE is acknowledged: steps 5 and 6 of R267, and the slot frees (R263, R400). -/
def heatFinished (l k : Nat) (s : State) : State := freeHeatSlot l k (chargeHeat l k s)

/-- The lines of a record go out to the journal (R399). -/
def putRecord (l k step kind : Nat) (words : List W64) (s : State) : State :=
  let n := words.length / 8
  let base := fld s.bhs.cfg 12 44 * 4096
  let pos := s.bhs.pos
  let writes := (chunks 8 words.length words).zipIdx.map fun p =>
    (⟨false, base + 64 * ((pos + p.2) % journalLines s), 0xFFFF, wordsToBytes p.1⟩ : MemWrite)
  startPlan (.journal l k kind) islBhs 63 [writes] (updBhs (fun b => { b with
    recs := b.recs ++ [⟨l, k, step, kind, pos, n, false⟩], pos := (pos + n) % journalLines s }) s)
/-- Records that waited for room go out in order. -/
def putWaiting : List (Nat × Nat × Nat × Nat × List W64) → State → State
  | [], s => s
  | (l, k, step, kind, words) :: rest, s =>
    if journalFits s (words.length / 8) then
      putWaiting rest (putRecord l k step kind (words.set 2 (w64 s.now)) (updBhs (fun b => { b with waiting := rest }) s))
    else s

/-- Boathouse has acknowledged a record of a heat. -/
def journalAck (l k kind : Nat) (s : State) : State :=
  let s1 := updBhs (fun b => { b with
    recs := mapFirst (fun r => r.loop == l && r.slot == k && r.kind == kind && !r.acked) (fun r => { r with acked := true }) b.recs }) s
  let s2 := updBhs (fun b => { b with recs := reclaimRecs b.recs b.recs.length }) s1
  let s3 := putWaiting s2.bhs.waiting s2
  match kind with
  | 1 => updHSlot l k (fun h => { h with composed := true }) s3
  | 2 => updHSlot l k (fun h => { h with acked := true }) s3
  | 3 => heatFinished l k s3
  | _ => s3

/-- Append a record (R399). Without a journal, or degraded, it is acknowledged at once; without room it waits for the journal to
reclaim some (DESIGN CHOICE, assumption 58). -/
def journalAppend (l k kind : Nat) (h : HeatSlot) (words : List W64) (s : State) : State :=
  if !(journals s) then journalAck l k kind s
  else if s.bhs.waiting.isEmpty && journalFits s (words.length / 8) then putRecord l k h.step kind words s
  else updBhs (fun b => { b with waiting := b.waiting ++ [(l, k, h.step, kind, words)] }) s
/-- The writes of a record are answered; an error degrades Boathouse, which then acknowledges what waits (R401). -/
def journalDone (l k kind : Nat) (err : RespErr) (addr : Nat) (s : State) : State :=
  if err == .ok then journalAck l k kind s else
    let s1 := logRec .nothing { LogRec.zero with code := eJournalWrite, island := islBhs, loop := l, addr := addr, ctx := 0xFFFF }
      (updBhs (fun b => { b with degraded := true, waiting := [] }) s)
    each s.bhs.waiting (fun s x => journalAck x.1 x.2.1 x.2.2.2.1 s) (journalAck l k kind s1)

/-! ### Vacating after a heat (R327, R329) -/

/-- The message template of Heat's jobs. -/
def heatMsg (s : State) (epoch : Bool) (l crew seat step : Nat) (ctx : CtxId) : LaunchMsg :=
  { LaunchMsg.blank .piece with
    epoch := epoch, origin := 0, ctx := ctx, target := crew, scope := 1, seat := seat, priority := ctxPriority s ctx,
    entry := w32 step, tag := (s.loop l).tag }
/-- The clusters of a crew in ascending order. -/
def crewClusters (s : State) (epoch : Bool) (crew : Nat) : List Nat := sortBy (fun a b => a < b) (crewFor s epoch crew).members
/-- Vacate a loop's context from a crew, or owe it while no hold slot is free. -/
def vacateCrew (epoch : Bool) (l crew seat : Nat) (s : State) : State :=
  let cs := crewClusters s epoch crew
  let ctx := (s.loop l).ctx
  match freeHold s cs with
  | some hold => startSave .vacate .heatRestore ctx 0 hold (seatTree s seat) cs (heatMsg s epoch l crew seat 0 ctx) s
  | none => updHeat (fun h => { h with owed := h.owed ++ [(l, crew, seat, epoch)] }) s
/-- Try the vacates that are owed. -/
def settleOwed (s : State) : State :=
  each s.heat.owed (fun s o => vacateCrew o.2.2.2 o.1 o.2.1 o.2.2.1 s) (updHeat (fun h => { h with owed := [] }) s)

/-! ### Rolling back a heat (R268) -/

/-- The heat's failure is the poisoning of its loop's shared weights, which have a golden copy (R268, R406). -/
def weightsPoisoned (s : State) (l : Nat) (code : BitVec 16) : Bool :=
  code == ePoisonedObject && (List.range 8).any fun m =>
    let x := (s.loop l).models.get m
    x.valid && x.weights != 0 && (let o := objOf s x.weights; o.poisoned && o.shared && o.golden)

/-- What rolling back has collected: table writes, records, sequences whose entry changes, those retired, rings written. -/
structure Rollback where
  st : State
  tables : List MemWrite
  records : List MemWrite
  changed : List Nat
  frees : List Nat
  rings : Nat

/-- A member's result slots are reserved no longer (R256, R267). -/
def unreserve (l : Nat) (m : Member) (s : State) : State :=
  updLoop l (fun g => { g with
    ress := g.ress.upd (g.seqs.get m.seq).resultRing fun x => { x with reserved := x.reserved - m.slots } }) s
/-- One member of a heat that fails with a code: trimmed, and kept, retired, or its fails raised. -/
def rollMember (l : Nat) (code : BitVec 16) (spare : Bool) (r : Rollback) (m : Member) : Rollback :=
  let s := unreserve l m r.st
  let e := (s.loop l).seqs.get m.seq
  let retire (kind reason : Nat) (c : BitVec 16) : Rollback :=
    let (tw, s1) := freeTable e.kv s
    let (rw, s2) := addResult l e.resultRing
      { kind := kind, reason := reason, seq := m.seq, charge := e.chargeCtx, code := c, requestId := e.requestId,
        first := e.generated, total := e.generated } s1
    { st := updSeq l m.seq SeqEnt.gone s2, tables := r.tables ++ tw, records := r.records ++ rw,
      changed := r.changed ++ [m.seq], frees := r.frees ++ [m.seq]
      rings := if rw.isEmpty then r.rings else r.rings ||| 2 ^ e.resultRing }
  if !(seqLive e) then { r with st := s } else
  match e.ctxFailed with
  | some c => retire 3 0 c
  | none =>
    if e.cancel then retire 2 4 0
    else if !spare && e.fails = 1 then retire 3 0 code
    else
      let t := hIdx e.kv
      let s1 := trimTab t m.pos s
      { r with
        st := updSeq l m.seq (fun e => { e with inHeat := false, fails := if spare then e.fails else e.fails + 1 }) s1,
        tables := r.tables ++ tabWrites s s1 t, changed := r.changed ++ [m.seq] }

/-- Roll back a failed heat whose work is quiet; the slot, its seat and crew free. -/
def rollback (l k : Nat) (code : BitVec 16) (s : State) : State :=
  let h := s.hslot l k
  let spare := weightsPoisoned s l code
  let r := h.members.foldl (rollMember l code spare) ⟨s, [], [], [], [], 0⟩
  let s1 := updLoop l (fun g => { g with residue := g.residue + h.time }) r.st
  let s2 := addIntent l { kind := .rollback, rings := r.rings, frees := h.frees ++ r.frees,
                          writes := [r.tables, r.records, r.changed.map (seqWrite s1 l)] } s1
  let vac (s : State) : State := if h.st == .switch || h.st == .run then vacateCrew h.epoch l h.crew h.seat s else s
  if spare && h.composed && !h.members.isEmpty then
    letGoSlot l k (vac (updBhs (fun b => { b with
      reruns := b.reruns ++ [(l, k, { h with st := .free, rerun := false }, heatPins s2 l k)] }) s2))
  else freeHeatSlot l k (vac
    (if h.members.isEmpty then s2 else journalAppend l k 4 h (journalHeader s2 l k h 4 1 0 0 0) s2))

/-- Nothing of a heat's work is outstanding (R105 items 1 to 3, R268). -/
def heatQuiet (s : State) (l k : Nat) (w : Work) : Bool :=
  w.ended && w.reqs == 0 && w.groups.all (· == 0) && !(s.hslot l k).waiting &&
  !((s.judge.jobs ++ s.judge.waiting).any fun j => j.of_ == .heat l k) &&
  !(s.sld.jobs.any fun j => j.who == .heat l k)

/-- A heat whose work has failed and is quiet is rolled back; one that commits goes on. -/
def settleHeat (l k : Nat) (s : State) : State :=
  match s.work? (.heat l k) with
  | none => s
  | some w => match w.failed with
    | none => s
    | some (_, code) =>
      if (s.hslot l k).st == .commit || (s.hslot l k).st == .free || !(heatQuiet s l k w) || !(heatUp s l) then s else rollback l k code s

end Sys2Proof.Machine
end

