-- ==== Sys2Proof/Machine/Errors.lean ====
section
/-! DEFINITION. Ending programs, failing entries and contexts, and the errors of class 4 and 5. -/
namespace Sys2Proof.Machine

/-! ### Cores and programs -/

/-- The core a seat is assigned to. -/
def coreOf (s : State) (seat : Nat) : Option Nat :=
  (List.range s.build.coxCores).find? fun k => (s.core k).seats.contains seat

/-- Take a seat off a core; when it was the running one the core goes to its next seat, or to IDLE (R149). -/
def leaveCore (k seat : Nat) (s : State) : State :=
  let rest := (s.core k).seats.filter (· != seat)
  if (s.core k).seats.head? == some seat then
    let s1 := updCore k (fun c => { c with
      seats := rest, st := if rest.isEmpty then .idle else .exec, stall := .none, since := s.now }) s
    match rest with
    | next :: _ => updProg next (fun p => { p with park := .none, sliceWords := 0 }) s1
    | [] => s1
  else updCore k (fun c => { c with seats := rest }) s

/-- A seat's program is gone: its waiter and its core let go of it. -/
def clearProg (seat : Nat) (s : State) : State :=
  let s1 := dropWaiter seat s
  let s2 := match coreOf s1 seat with
    | some k => leaveCore k seat s1
    | none => s1
  moveSeat seat (fun x => { x with
    prog := none,
    st := match x.st with | .run => .idle | .wait => .idle | t => t }) s2

/-- A change to an owner's work settles its ring. -/
def settleOwner (o : Owner) (s : State) : State :=
  match o with
  | .entry r _ => settle r s
  | .heat l k => settleHeat l k s

/-- END: the program of a seat has ended (R125). -/
def endProgram (seat : Nat) (s : State) : State :=
  match s.prog? seat with
  | none => s
  | some p =>
    settleOwner p.owner (updWork p.owner (fun w => { w with ended := true }) (clearProg seat s))

/-! ### Failing an entry (R80, R139, R202) -/

/-- The failure an entry keeps: the first, unless a later one has a higher class. -/
def worse (old : Option (Nat × BitVec 16)) (k : Nat) (c : BitVec 16) : Option (Nat × BitVec 16) :=
  match old with
  | none => some (k, c)
  | some (k', c') => if k' < k then some (k, c) else some (k', c')

/-- The outstanding records are at a limit of R233. -/
def outsFull (s : State) : Bool :=
  4096 ≤ s.stb.outs.length || s.stb.outs.any fun x => 256 ≤ (s.stb.outs.filter fun y => y.dst == x.dst).length
/-- Every core that stalls on the order of its word looks at it again (R146, R149). -/
def wakeOrder (s : State) : State :=
  each (List.range s.build.coxCores) (fun s k =>
    if (s.core k).st == .stall && (s.core k).stall == .order
    then updCore k (fun c => { c with st := .exec, stall := .none, since := s.now }) s else s) s
/-- The outstanding records that `gone` names are dropped; a SIGNALX that a limit has held back is looked at again (R233). -/
def leaveOuts (gone : OutRec → Bool) (s : State) : State :=
  let s1 := updStb (fun b => { b with outs := b.outs.filter fun x => !(gone x) }) s
  if outsFull s && s.stb.outs.any gone then wakeOrder s1 else s1

/-- The outstanding crossing records of an owner are dropped without further sends (R237); each was an outstanding
request of the entry (R233). -/
def dropOuts (o : Owner) (s : State) : State :=
  let n := (s.stb.outs.filter fun x => x.owner == o).length
  updWork o (fun w => { w with reqs := w.reqs - n }) (leaveOuts (fun x => x.owner == o) s)

/-- Fail an owner's work without settling: record the failure, end its program, and owe a CANCEL (R202) when `cancel`. -/
def markFailed (o : Owner) (k : Nat) (c : BitVec 16) (cancel : Bool) (s : State) : State :=
  match s.work? o with
  | none => s
  | some w =>
    if w.fence == .done then s else
      let s1 := updWork o (fun w => { w with failed := worse w.failed k c, ended := true, cancelSent := true })
        (updBhs (fun b => { b with replays := b.replays.filter fun x => x != o }) s)
      let s2 := match s1.prog? w.seat with
        | some p => if p.owner == o then clearProg w.seat s1 else s1
        | none => s1
      let s3 := dropOuts o s2
      if cancel && !w.cancelSent
      then updMar (fun m => { m with cancels := m.cancels ++ [(some o, w.ctx, w.seat, w.count)] }) s3
      else s3

/-- Fail an entry: its work stops, its fence will be failed with this class and code (R80), its program ends (R139). -/
def failWork (o : Owner) (k : Nat) (c : BitVec 16) (s : State) : State :=
  settleOwner o (markFailed o k c true s)

/-- A class-2 error of a loop: its heats are rolled back, and then it is STOPPED (R268). -/
def failLoop (l : Nat) (code : BitVec 16) (s : State) : State :=
  let ks := (List.range 8).filter fun k => ((s.loop l).slots.get k).st != .free
  each ks (fun s k => failWork (.heat l k) 2 code s) (closeLoop l .stopped code s)

/-- A class-2 error of an entry: it fails and its seat stops (R80, R112). The ring of a FAILED context, or one that ABANDON works
through, is not latched (R114, R115). -/
def failSeat (o : Owner) (reason : Nat) (c : BitVec 16) (s : State) : State :=
  match o with
  | .entry r n =>
    let s1 := markFailed o 2 c true s
    settle r (if (s1.ring r).mode == .normal then stopRing r reason c n [] s1 else s1)
  | .heat l _ => failLoop l c s

/-! ### Failing a context (R57, R80, R115, R231) -/

/-- A cluster's counters are set to 0 and residency ends (R231). -/
def endResidency (row : Rowlock) : Rowlock := { row with resident := none, sync := Tab.const 0 }

/-- A failed or torn-down context loses its sync state on one cluster (R231). -/
def forgetCtxRow (c : CtxId) (row : Rowlock) : Rowlock :=
  let r1 := if row.resident == some c then endResidency row else row
  { r1 with parked := r1.parked.filter (fun p => p.1 != c) }
/-- Every built cluster that holds state, changed by `f`. -/
def mapRows (f : Rowlock → Rowlock) (s : State) : State :=
  { s with fab := { s.fab with rows := { s.fab.rows with cells := s.fab.rows.cells.map fun p => (p.1, f p.2) } } }

/-- A context's residency ends and its parked entries are discarded everywhere (R194, R229, R231); each Rowlock that had one goes on
from there. -/
def forgetCtx (c : CtxId) (s : State) : State :=
  let had := (s.fab.rows.cells.filter fun p => p.2.resident == some c || p.2.parked.any (·.1 == c)).map Prod.fst
  mapRows (forgetCtxRow c) { s with fab := { s.fab with vacated := s.fab.vacated ++ had } }

/-- A ring of a context that has failed: it is drained from its seat, is latched no longer, and goes on being read
without a core (R115). -/
def failRing (s : State) (r : Nat) : State :=
  let s1 := updRing r (fun g => { g with
    mode := if g.mode == .dead then .dead else .failedCtx, latchPending := false, reason := 0, errCode := 0, draining := true,
    sawFree := false, st := if g.st == .stopped then (if g.seat.isSome then .seated else .idle) else g.st }) s
  let s2 := match (s1.ring r).seat with
    | some i => moveSeat i (fun x => { x with st := if x.st == .run || x.st == .wait then x.st else .drain }) s1
    | none => s1
  settle r s2

/-- Fail a context with a class-3 error: record it, stop its work, fail its fences, drain its rings. -/
def failContext (c : CtxId) (k : Nat) (code : BitVec 16) (s : State) : State :=
  match slotOf s c with
  | none => s
  | some i =>
    let sl := s.slot i
    if sl.st == .live || sl.st == .stopped then
      let s1 := updSlot i (fun x => { x with st := .failed, errClass := BitVec.ofNat 7 k, errCode := code }) s
      let os := (s1.mar.works.filter fun w => w.ctx == c).map (·.owner)
      let s2 := each os (fun s o => markFailed o k code false s) s1
      let s3 := updMar (fun m => { m with cancels := m.cancels ++ [(none, c, 0, 0)] }) s2
      let s4 := each os (fun s o => settleOwner o s) (failCtxSeqs c code s3)
      each (ringsOf s4 c) failRing (forgetCtx c s4)
    else s

/-! ### Class 4 and class 5 -/

/-- A request of a compute island is answered to nobody once a compute reset has begun (R46); one that still waits for a tag
is not issued. -/
def staleMem (l : List MemReq) : List MemReq :=
  (l.filter fun q => isKeel q.isl || q.tag < portTags).map fun q => if isKeel q.isl then q else { q with stale := true }
/-- As `staleMem`, for the atomic port. -/
def staleAt (l : List AtReq) : List AtReq :=
  (l.filter fun q => isKeel q.isl || q.tag < portTags).map fun q => if isKeel q.isl then q else { q with stale := true }
/-- A fence failure of an entry that has not begun, under way when a compute reset begins (R380, R394). -/
def owedFail (q : AtReq) : Option (FfWho × Nat × CtxId × Nat × BitVec 16) :=
  match q.stale, q.why with
  | false, .failFence (.posted r n) cls code _ => some (.posted r n, q.addr, q.ctx, cls, code)
  | _, _ => none

/-- Every outstanding request of a compute island is marked for discarding (R46), and the fence failures among them that no
entry in a window stands for are owed (R380). -/
def staleAll (s : State) : State :=
  updPorts (fun p => { p with
    nm := staleMem p.nm, hm := staleMem p.hm, owedFails := p.owedFails ++ p.at_.filterMap owedFail, at_ := staleAt p.at_,
    wd := p.wd.map fun q => { q with stale := true } }) s

/-- A Rowlock as a compute reset begins (R194, R205, R47): every channel goes to RESET with its slots and buffers dropped, residency
ends, and the arrivals held at the port are accepted and discarded. What it has to report of its pieces stays for QUIESCE (R392). -/
def resetRow (r : Rowlock) : Rowlock := { endResidency r with
  engines := Tab.const { Engine.reset with st := .reset }, arrHeld := none, arrWait := []
  reports := r.reports ++ r.engines.cells.flatMap fun e => e.2.pieces.map reportOf }

/-- The clusters where a context is held by a save (R326): those that a save has left it held at, and those where the hold of one
under way is in force. -/
def saveHeldAt (s : State) (c : CtxId) : List Nat :=
  ((s.sld.held.filter fun h => h.1 == c).map (·.2.1) ++
   (s.sld.jobs.filter fun j => j.kind == .save && j.ctx == c).flatMap fun j => (j.clusters.filter fun x =>
     (s.row x.cluster).holds.any fun h => h.1 == j.holdId && h.2.ctx == c).map (·.cluster)).eraseDups
/-- A save holds the context at some cluster (R326, R392, R332): its hold is in force there, under way or kept. -/
def saveHolds (s : State) (c : CtxId) : Bool := !(saveHeldAt s c).isEmpty

/-- Contexts with state that lives on a cluster (R392): resident with a map that holds a LIVE, CIRCULAR or ACC region, or held by a
save. -/
def statefulCtxs (s : State) : List CtxId :=
  ((List.range s.build.clusters).filterMap fun c => (s.row c).resident).filter (fun c => (ctxRegions s c).any isLiveKind) ++
  (s.sld.held.map (·.1) ++ s.sld.jobs.map (·.ctx)).filter (saveHolds s)

/-- A compute reset begins (R391, R46, R47): hang rings freeze, compute islands issue nothing more, the Rowlocks stop, QUIESCE. -/
def resetBegin (code : BitVec 16) (s : State) : State :=
  let rows : Tab Rowlock := ⟨resetRow s.fab.rows.dflt, s.fab.rows.cells.map fun p => (p.1, resetRow p.2)⟩
  staleAll { updUmp (fun u => { u with
      rst := .quiesce, cause := code, resets := u.resets + 1, detectedAt := s.now, hangFrozen := true, lateRows := [],
      stateful := (statefulCtxs s).eraseDups }) s with
    fab := { s.fab with rows := rows, vacated := [] }, stb := { s.stb with txq := [] },
    stk := { Stk.reset with cfg := s.stk.cfg, img := s.stk.img, fullStart := !(bit s.stk.cfg 0) } }

/-- The completion fences, with their contexts, of entries that are fetched and have not begun (R55): they count in flight. -/
def cachedFences (s : State) : List (Nat × CtxId) :=
  s.mar.rings.cells.flatMap fun p =>
    if p.2.st == .unbound then [] else
      (p.2.cache.filter fun c => !c.hole && !(enNoFence c.words)).map fun c => (enFenceAddr c.words, p.2.ctx)

/-- A class-5 error stops the chip (R408): every fence of work in flight that can be reached is failed, a dump is written if
armed, the reset machine enters DEAD, and no unit does further work. The hang rings go on (R387). -/
def chipStop (cls : Nat) (code : BitVec 16) (s : State) : State :=
  if s.ump.rst == .dead then s else
    let s1 := updUmp (fun u => { u with rst := .dead, hangFrozen := false, cause := code }) s
    let s2 := each s1.mar.works (fun s w =>
      if w.fence == .done || w.skipFence then s
      else failFenceStart .lost (enFenceAddr w.words) w.ctx cls code s) s1
    startDump cls code s2.now false (each (cachedFences s2) (fun s f => failFenceStart .lost f.1 f.2 cls code s) s2)

/-- A class-5 error: logged, and the chip stops (R380, R408). -/
def raise5 (r : LogRec) (s : State) : State :=
  chipStop 5 r.code (logRec .dead { r with cls := 5 } s)

/-- Two compute resets have ended within the last second (R405). -/
def resetLoop (s : State) : Bool := 2 ≤ s.ump.ends.length && s.ump.ends.all fun t => s.now ≤ t + 1000 * msTu

/-- A class-4 error: logged, and it starts a compute reset unless one is in progress (R380, R391), or, after two resets within
a second, it stops the chip (R405). -/
def raise4 (r : LogRec) (s : State) : State :=
  let s1 := logRec .reset { r with cls := 4 } s
  if !(s1.ump.rst == .run || s1.ump.rst == .recover) then s1
  else if resetLoop s1 then raise5 { LogRec.zero with code := eResetLoop, island := islUmp } s1
  else resetBegin r.code s1

/-- A target response on a port, numbered as in R385 (R386). -/
def targetLost (port isl addr : Nat) (ctx : CtxId) (s : State) : State :=
  raise5 { LogRec.zero with code := eTargetLost, island := isl, ctx := ctx, addr := addr, info := port } s

/-- What an error record says of an owner: ring and count, or loop and step. -/
def ownerRec (o : Owner) (s : State) (r : LogRec) : LogRec :=
  match s.work? o with
  | none => r
  | some w => match o with
    | .entry ring c => { r with seat := w.seat, ctx := w.ctx, ring := ring, count := c }
    | .heat loop _ => { r with seat := w.seat, ctx := w.ctx, loop := loop, step := w.count.toNat }

/-- An error raised by an owner's program or launched work is logged and acted on by its class (R80, R200). -/
def ownerError (o : Owner) (k : Nat) (r : LogRec) (s : State) : State :=
  let r1 := ownerRec o s { r with cls := k }
  match k with
  | 0 => logRec .nothing r1 s
  | 1 => failWork o 1 r.code (logRec (.work o) r1 s)
  | 2 => failSeat o 9 r.code (logRec (match o with | .entry g _ => .ring g | .heat l _ => .loop l) r1 s)
  | 3 => failContext r1.ctx 3 r.code (logRec (ctxWhy s r1.ctx) r1 s)
  | 4 => raise4 r1 s
  | _ => raise5 r1 s

end Sys2Proof.Machine
end

