-- ==== Sys2Proof/Machine/Contexts.lean ====
section
/-! DEFINITION. Commands on contexts (R55 to R58), objects (R70) and fences from the host (R79). -/
namespace Sys2Proof.Machine

/-- The three outcomes of a command in this model. -/
abbrev Out := Host.Outcome State Fault Refusal
/-- A command's effect `t` on the block in `s`: none while por_n holds the block in reset (R44). -/
def powered (s t : State) : Out := .next (if s.ump.porN then t else s)

/-- Until the first LOAD has succeeded only some register writes are accepted (R414). -/
def blank (s : State) : Bool := s.rig.st == .blank

/-! ### The context table -/

/-- The slot that MAR_CTX_SEL names. -/
def ctxSlot (s : State) : Nat := fld s.mar.ctxSel 0 10
/-- A refused context command: cmd_err reads 1 and nothing else changes (R57). -/
def ctxRefuse (s : State) : State := updSlot (ctxSlot s) (fun x => { x with cmdErr := true }) s
/-- A context command applied to the selected slot; the last command's cmd_err is cleared. -/
def ctxApply (f : Slot → Slot) (s : State) : State := updSlot (ctxSlot s) (fun x => { f x with cmdErr := false }) s

/-- CREATE's conditions (R57). -/
def createOk (s : State) : Bool :=
  let x := s.slot (ctxSlot s)
  let id : CtxId := w16 (fld x.desc 0 16)
  !(blank s) && x.st == .free && id != 0xFFFF && (slotOf s id).isNone && fld x.desc 48 4 < s.build.partitions

/-- CREATE loads the slot from MAR_CTX_DESC (R57). -/
def loadDesc (x : Slot) : Slot :=
  { x with st := .live, ctxId := w16 (fld x.desc 0 16), tenant := w16 (fld x.desc 16 16), weight := w16 (fld x.desc 32 16),
           partition := fld x.desc 48 4, priority := fld x.desc 52 2, privileged := bit x.desc 54,
           errClass := 0, errCode := 0, ringsBound := 0 }

/-- Heat's account of a created context: nothing used, and a virtual time at the floor (R269). -/
def newShare (s : State) : State :=
  let w := fld (s.slot (ctxSlot s)).desc 32 16
  { s with heat := { s.heat with shares := s.heat.shares.set (ctxSlot s) ⟨0, s.heat.floor, w⟩ } }

def createOp (s : State) : State := if createOk s then newShare (ctxApply loadDesc s) else ctxRefuse s
def execCreate (s : State) : Out := powered s (createOp s)

/-- STOP (R57): the context's rings are read no further and drained from their seats (R115, R116). -/
def stopOp (s : State) : State :=
  let x := s.slot (ctxSlot s)
  if !(blank s) && x.st == .live then
    let s1 := ctxApply (fun x => { x with st := .stopped }) s
    policy (each (ringsOf s1 x.ctxId) (fun s r => settle r s) s1)
  else ctxRefuse s
def execStop (s : State) : Out := powered s (stopOp s)

/-- RESUME queues a ring again; a ring still on its seat is looked at (R115). -/
def resumeRing (s : State) (r : Nat) : State :=
  let s1 := updRing r (fun g => { g with draining := false }) s
  let s2 := match (s1.ring r).seat with
    | some i => moveSeat i (fun x => { x with st := if x.st == .drain then .idle else x.st }) s1
    | none => s1
  settle r (lookRing r s2)
/-- RESUME (R57). -/
def resumeOp (s : State) : State :=
  let x := s.slot (ctxSlot s)
  if !(blank s) && x.st == .stopped then
    let s1 := ctxApply (fun x => { x with st := .live }) s
    policy (each (ringsOf s1 x.ctxId) resumeRing s1)
  else ctxRefuse s
def execResume (s : State) : Out := powered s (resumeOp s)

/-- KILL (R57): class 3, E_CONTEXT_KILLED, logged once. -/
def killOp (s : State) : State :=
  let x := s.slot (ctxSlot s)
  if !(blank s) && (x.st == .live || x.st == .stopped) then
    let s1 := logRec (ctxWhy s x.ctxId)
      { LogRec.zero with cls := 3, code := eContextKilled, island := islMar, ctx := x.ctxId } (ctxApply id s)
    policy (failContext x.ctxId 3 eContextKilled s1)
  else ctxRefuse s
def execKill (s : State) : Out := powered s (killOp s)

/-- TEARDOWN (R57, R231, R332). -/
def teardownOp (s : State) : State :=
  let x := s.slot (ctxSlot s)
  if !(blank s) && (x.st == .stopped || x.st == .failed) && x.ringsBound == 0 then
    let s1 := forgetCtx x.ctxId (ctxApply (fun x => { x with st := .draining, errClass := 0, errCode := 0 }) s)
    let m := s.map (ctxSlot s)
    if m.registered || m.busy != 0 then unregisterMap (ctxSlot s) s1 else s1
  else ctxRefuse s
def execTeardown (s : State) : Out := powered s (teardownOp s)

/-- SET_WEIGHT (R57); Heat reads the new weight from its next accounting period. -/
def setWeightOp (s : State) : State :=
  let x := s.slot (ctxSlot s)
  if !(blank s) && (x.st == .live || x.st == .stopped) then
    ctxApply (fun x => { x with weight := w16 (fld x.desc 32 16) }) s
  else ctxRefuse s
def execSetWeight (s : State) : Out := powered s (setWeightOp s)

/-- Slide discards a context's saved scratchpad state (R57): the holds its saves keep in force are given up at the Rowlocks, and
what Heat has saved of it will not be restored. -/
def discardSaves (c : CtxId) (s : State) : State :=
  updHeat (fun x => { x with saved := x.saved.filter fun v => v.ctx != c })
    (updSld (fun x => { x with held := x.held.filter fun h => h.1 != c })
      (mapRows (fun r => { r with holds := r.holds.filter fun h => h.2.ctx != c }) s))

/-- Rack drops the owner reference of one LIVE object of a context (R57). DESIGN CHOICE (assumption 93): an object that other
references keep is FREEING from then on, as after FREE. -/
def dropOwned (c : CtxId) (s : State) (i : Nat) : State :=
  let o := s.rack.objs.get i
  if o.st == .live && o.owner == c && o.ownerRef then
    setRefs i (o.refs - 1) (updObj i (fun o => { o with st := .freeing, ownerRef := false }) s)
  else s

/-- A DRAINING context whose inflight has reached 0 becomes FREE (R57). -/
def contextFreedOp (slot : Nat) (s : State) : State :=
  let x := s.slot slot
  if slot < 1024 && x.st == .draining && inflight s x.ctxId == 0 then
    let s1 := each (s.rack.objs.cells.map Prod.fst) (dropOwned x.ctxId) s
    updSlot slot (fun x => { Slot.reset with desc := x.desc, cmdErr := x.cmdErr }) (discardSaves x.ctxId s1)
  else s
def execContextFreed (slot : Nat) (s : State) : Out := .next (contextFreedOp slot s)

/-! ### Object commands (R70) -/

/-- RCK_OBJ_STATUS result of a code. -/
def objResult (c : BitVec 16) : Nat :=
  if c == eStaleHandle then 1 else if c == eRefUnderflow then 2 else if c == eRefOverflow then 3
  else if c == eObjectTableFull then 4 else if c == eObjectFreed then 5 else if c == eObjectAccess then 7 else 6

/-- The status registers after a command on a handle (R70): COUNT reads zero when the handle names no entry of its
generation. -/
def objStatus (result : Nat) (h : W32) (s : State) : State :=
  let o := objOf s h
  let seen := handleOk s h
  updRack (fun k => { k with
    result := result, handle := h,
    countRefs := if seen then w32 o.refs else 0,
    countSt := if seen then o.st else .free,
    countPoisoned := seen && o.poisoned }) s

/-- A host reference operation and its status. -/
def objCommand (h : W32) (res : Except (BitVec 16) State) (s : State) : State :=
  if blank s then objStatus 6 h s else
  match res with
  | .ok s' => objStatus 0 h s'
  | .error c => objStatus (objResult c) h s

/-- REGISTER's arguments are good (R70): base aligned, size a non-zero multiple of 64, owner a live context. -/
def registerArgsOk (s : State) : Bool :=
  let size := fld s.rack.arg1 0 48
  fld s.rack.arg0 0 6 == 0 && size != 0 && size % 64 == 0 && ctxLive s (w16 (fld s.rack.arg1 48 16))

/-- OBJECT_REGISTER: a new LIVE object from the ARG registers, or handle 0 and the result (R70). -/
def objectRegisterOp (shared golden : Bool) (s : State) : State :=
  if blank s || !(registerArgsOk s) then objStatus 6 0 s
  else match freeIndex s with
    | none => objStatus 4 0 s
    | some i =>
      let owner := w16 (fld s.rack.arg1 48 16)
      let s1 := newObject i { Obj.reset with
        base := fld s.rack.arg0 0 56, size := fld s.rack.arg1 0 48, owner := owner, shared := shared, golden := golden,
        goldenAddr := if golden then s.rack.arg2 else 0, partition := ctxPartition s owner } s.nextFree
      objStatus 0 (mkHandle i (s1.rack.objs.get i).gen) s1
def execObjectRegister (shared golden : Bool) (s : State) : Out := powered s (objectRegisterOp shared golden s)

def execRefAdd (h : W32) (s : State) : Out := powered s (objCommand h (refAddOp none h 1 s) s)
def execRefSub (h : W32) (s : State) : Out := powered s (objCommand h (refSubOp none h 1 s) s)
def execObjectFree (h : W32) (s : State) : Out := powered s (objCommand h (freeOp none h s) s)
def execForceFree (h : W32) (s : State) : Out := powered s (objCommand h (forceFreeOp h s) s)
/-- QUERY reports and changes nothing: a stale handle gives result 1. -/
def execObjectQuery (h : W32) (s : State) : Out :=
  powered s (objCommand h (if objStale s h then .error eStaleHandle else .ok s) s)

/-! ### Signalling from the host (R79) -/

/-- A host signal sets bad_value and writes nothing (R79). -/
def hsigBad (s : State) : State :=
  updPorts (fun p => { p with
    hsigBusy := false, hsigStale := false, hsigFailed := false, hsigErr := .ok, hsigBad := true, hsigOld := 0 }) s
/-- A host signal is in progress. -/
def hsigBegin (s : State) : State :=
  updPorts (fun p => { p with
    hsigBusy := true, hsigStale := false, hsigFailed := false, hsigErr := .ok, hsigBad := false, hsigOld := 0 }) s
def hsigAddrOf (s : State) : Nat := fld s.ports.hsigAddr 0 56
def hsigCtxOf (s : State) : CtxId := w16 (fld s.ports.hsigCtx 0 16)

/-- The driver must not write STB_HSIG_VALUE while busy reads 1 (R79; R1: a violation's behaviour is not defined). -/
def hsigCmd (f : State → State) (s : State) : Out :=
  if s.ports.hsigBusy then .fault (.portProtocol "STB_HSIG_VALUE") else .next (f s)

/-- HOST_SIGNAL: one MAXU of the value on the fence (R73, R79). DESIGN CHOICE (assumption 83): a write that comes during a compute
reset, when R46 lets Stakeboat issue nothing, makes no signal and changes no status. -/
def hostSignalOp (v : BitVec 63) (s : State) : State :=
  if blank s || !(computeUp s) then s
  else if hsigAddrOf s % 8 != 0 then hsigBad s
  else issueAt opMaxu (hsigAddrOf s) (hsigCtxOf s) (v.setWidth 64) 0 (.hostSignal (v.setWidth 64)) islStb (hsigBegin s)
def execHostSignal (v : BitVec 63) (s : State) : Out := hsigCmd (hostSignalOp v) s

/-- HOST_FAIL: fail_fence with class 1, 2 or 3 (R77, R79). -/
def hostFailOp (cls : BitVec 7) (code : BitVec 16) (s : State) : State :=
  if blank s || !(computeUp s) then s
  else if hsigAddrOf s % 8 != 0 || cls.toNat < 1 || 3 < cls.toNat then hsigBad s
  else failFenceStart .host (hsigAddrOf s) (hsigCtxOf s) cls.toNat code (hsigBegin s)
def execHostFail (cls : BitVec 7) (code : BitVec 16) (s : State) : Out := hsigCmd (hostFailOp cls code) s

end Sys2Proof.Machine
end

