-- ==== Sys2Proof/Machine/Rings.lean ====
section
/-! DEFINITION. Doorbells, invalidation, fetched entries and the ring commands (R93 to R116). -/
namespace Sys2Proof.Machine

/-! ### Doorbells (R94, R95) -/

/-- Note a doorbell's time for the storm rule (R95): a run has no gap of 2 µs or more. -/
def noteKnock (r : Nat) (s : State) : State :=
  updRing r (fun g => { g with
    lastDoorbell := some s.now,
    knockRun := match g.lastDoorbell, g.knockRun with
      | some t, some t0 => if s.now - t < 2 * usTu then some t0 else some s.now
      | _, _ => some s.now }) s

/-- Look at a ring, settle it and let Foantong seat it (R94, R99). -/
def lookNow (r : Nat) (s : State) : State := policy (settle r (lookRing r s))

/-- A doorbell on a ring that exists. -/
def knock (r : Nat) (s : State) : State :=
  let s1 := noteKnock r (ergCount 10 1 {} s)
  let g := s1.ring r
  if g.st == .unbound then updMar (fun m => { m with dbStray := satAdd 64 m.dbStray 1 }) s1
  else if g.storm then s1
  else lookNow r s1

/-- DOORBELL: a ring id at or above RINGS names no ring (R94). -/
def doorbellOp (r : Nat) (s : State) : State := if r < s.build.rings then knock r s else s
def execDoorbell (r : Nat) (s : State) : Out := powered s (doorbellOp r s)

/-- DOORBELL_STORM: doorbells with no gap of 2 µs for more than 50 ms (R95). -/
def stormBeginOp (r : Nat) (s : State) : State :=
  let g := s.ring r
  match g.knockRun, g.lastDoorbell with
  | some t0, some t =>
    if r < s.build.rings && !g.storm && 50 * msTu < s.now - t0 && s.now - t < 2 * usTu then
      logRec .nothing { LogRec.zero with code := eDoorbellStorm, island := islMar, ring := r }
        (updRing r (fun g => { g with storm := true }) s)
    else s
  | _, _ => s
def execDoorbellStorm (r : Nat) (s : State) : Out := .next (stormBeginOp r s)

/-- STORM_LOOK: Marshal looks at the ring every 2 µs during a storm (R95). -/
def stormLookOp (r : Nat) (s : State) : State :=
  let g := s.ring r
  if g.storm && g.st != .unbound && 2 * usTu ≤ s.now - g.lastLook then lookNow r s else s
def execStormLook (r : Nat) (s : State) : Out := .next (stormLookOp r s)

/-- STORM_END: 50 ms with no doorbell (R95). -/
def stormEndOp (r : Nat) (s : State) : State :=
  let g := s.ring r
  if g.storm && 50 * msTu ≤ s.now - g.lastDoorbell.getD 0 then
    updRing r (fun g => { g with storm := false, knockRun := none }) s
  else s
def execStormEnd (r : Nat) (s : State) : Out := .next (stormEndOp r s)

/-- The outstanding reads of a ring's entries whose counts meet `p` are no longer waited for: their data is discarded. -/
def forgetReads (r : Nat) (p : Count → Bool) (s : State) : State :=
  let mark (q : MemReq) : MemReq := match q.why with
    | .entry r' c _ => if r' == r && p c then { q with stale := true } else q
    | _ => q
  updPorts (fun x => { x with nm := x.nm.map mark, hm := x.hm.map mark }) s

/-! ### Invalidation (R101, R102) -/

/-- An entry offered in READY that can no longer begin is taken back. -/
def unoffer (r : Nat) (s : State) : State :=
  let g := s.ring r
  match g.seat with
  | some i =>
    let ok := match nextCached g with
      | some c => mayBegin s g c
      | none => false
    if (s.seat i).st == .ready && !ok then moveSeat i (fun x => { x with st := .idle }) s else s
  | none => s

/-- INVALIDATE (R101, R166): discard what is cached at or above `since`, pull fetch back, hold; or refuse. -/
def invalidateOp (r : Nat) (since : Count) (s : State) : State :=
  let g := s.ring r
  if blank s || s.build.rings ≤ r then s
  else if g.st == .unbound || cntLt since g.begun || 0 < g.level then
    updRing r (fun g => { g with invalRefused := true }) s
  else
    settle r (unoffer r (forgetReads r (fun c => !(cntLt c since)) (updRing r (fun g => { g with
      cache := g.cache.filter (fun c => cntLt c.count since),
      reads := g.reads.filter (fun c => cntLt c since),
      raws := g.raws.filter (fun c => cntLt c.count since),
      fetch := if cntLt since g.fetch then since else g.fetch,
      sawFree := g.sawFree && cntLt g.fetch since,
      held := true, holdAt := since, invalRefused := false }) s)))
def execInvalidate (r : Nat) (since : Count) (s : State) : Out := .next (invalidateOp r since s)

/-- DB_RELEASE ends the hold and acts as a doorbell (R102). -/
def dbReleaseOp (r : Nat) (s : State) : State :=
  if blank s || s.build.rings ≤ r then s
  else knock r (updRing r (fun g => { g with held := false }) s)
def execDbRelease (r : Nat) (s : State) : Out := .next (dbReleaseOp r s)

/-! ### Fetched entries (R88, R89, R115) -/

/-- The returned read Marshal looks at next: the lowest count, with no lower read still out. -/
def nextRaw (g : Ring) : Option Raw :=
  match best (fun a b => cntLt a.count b.count) g.raws with
  | some w => if g.reads.any fun c => cntLt c w.count then none else some w
  | none => none

/-- Drop a returned read. -/
def dropRaw (r : Nat) (c : Count) (s : State) : State :=
  updRing r (fun g => { g with raws := g.raws.filter fun w => w.count != c }) s

/-- Nothing at or above a count is fetched any more: OWN read 0 there, or the entry stops the ring. A MARKER that stands for a
hole above the count goes back to the holes (R168); a free slot read before a doorbell came is looked at again (R94). -/
def stopFetchAt (r : Nat) (c : Count) (free : Bool) (s : State) : State :=
  forgetReads r (fun _ => true) (updRing r (fun g => { g with
    fetch := c, reads := [], raws := [], cache := g.cache.filter fun x => cntLt x.count c,
    holes := g.holes ++ ((g.cache.filter fun x => x.hole && !(cntLt x.count c)).map (·.count)),
    sawFree := free && !(match g.lookTo with | some k => cntLt c k | none => false), lookTo := none }) s)

/-- Cache a checked entry; a PROGRAM's first line is read with it (R123). -/
def cacheEntry (r : Nat) (w : Raw) (s : State) : State :=
  let g := s.ring r
  let s1 := updRing r (fun g => { g with
    cache := g.cache ++ [⟨w.count, w.words, none, false⟩], idleSince := s.now }) (dropRaw r w.count s)
  if enKind w.words == 0 && g.mode == .normal then
    issueNm false (enProgAddr w.words / 64 * 64) g.ctx [] 64 63 (.firstLine r w.count) islMar s1
  else s1

/-- An entry fails a check: the ring is latched (R88, R112), the stop is logged, the fence failed where R88 says so. -/
def malformed (r : Nat) (reason : Nat) (w : Raw) (s : State) : State :=
  let g := s.ring r
  let code := fetchCode reason
  let s1 := logRec (.ring r) { LogRec.zero with
    cls := 2, code := code, island := islMar, seat := g.seat.getD 0, ctx := g.ctx, ring := r, count := w.count,
    addr := entryAddr g w.count } s
  let words := if reason == 7 then [w64 (s.freeValue 2)] else w.words
  let s2 := stopFetchAt r w.count false (if reason == 7 then s1.nextFree else s1)
  let s3 := stopRing r reason code w.count words s2
  if malformedFence reason w.words then failFenceStart (.posted r w.count) (enFenceAddr w.words) g.ctx 2 code s3 else s3

/-- Marshal takes one returned entry (R88). A read that returns after the ring has stopped latches nothing more: the entry is
read again after RESTART (R112, R113). -/
def takeRaw (r : Nat) (w : Raw) (s : State) : State :=
  let g := s.ring r
  let reason := entryReason g w.count w.err w.words
  if w.err == .ok && !(enOwn w.words) then stopFetchAt r w.count true s
  else if reason == 1 && !w.second then s
  else match g.mode with
    | .normal =>
      if reason == 0 then cacheEntry r w s
      else if g.latchPending then stopFetchAt r w.count false s
      else malformed r reason w s
    | .failedCtx =>
      if reason == 7 then
        updRing r (fun g => { g with mode := .dead }) (stopFetchAt r w.count false
          (logRec .nothing { LogRec.zero with
            cls := 2, code := eRingFetch, island := islMar, ctx := g.ctx, ring := r, count := w.count,
            addr := entryAddr g w.count } s))
      else cacheEntry r w s
    | .abandon _ =>
      if reason == 7 then
        updRing r (fun g => { g with st := .stopped })
          (malformed r 7 w (updRing r (fun g => { g with mode := .normal }) s))
      else cacheEntry r w s
    | .dead => dropRaw r w.count s

/-- ENTRY_FETCHED: the next fetched entry of a ring is checked and cached, or stops the ring (R88). -/
def entryFetchedOp (r : Nat) (s : State) : State :=
  match nextRaw (s.ring r) with
  | some w => policy (settle r (takeRaw r w s))
  | none => s
def execEntryFetched (r : Nat) (s : State) : Out := .next (entryFetchedOp r s)

/-- ENTRY_REREAD: 2 µs after the first read of an entry whose check code did not match, it is read once more (R89). -/
def entryRereadOp (r : Nat) (s : State) : State :=
  let g := s.ring r
  match g.raws.find? fun w => !w.second && w.err == .ok && enOwn w.words && enCheck w.words != entryCrc w.words &&
      2 * usTu ≤ s.now - w.at_ with
  | some w => readEntry r w.count true (dropRaw r w.count s)
  | none => s
def execEntryReread (r : Nat) (s : State) : Out := .next (entryRereadOp r s)

/-! ### Ring commands (R98) -/

/-- The ring that MAR_RING_SEL names. -/
def ringSel (s : State) : Nat := fld s.mar.ringSel 0 12
/-- A refused ring command (R98). -/
def ringRefuse (s : State) : State := updRing (ringSel s) (fun g => { g with cmdErr := true }) s
/-- The selected ring's accepted command clears cmd_err. -/
def ringClear (s : State) : State := updRing (ringSel s) (fun g => { g with cmdErr := false }) s
/-- Ring commands need a ring below RINGS, and the first LOAD (R98, R414). -/
def ringCmdOk (s : State) : Bool := !(blank s) && ringSel s < s.build.rings

/-- An ABANDON of the ring is in progress: its busy bit reads 1 (R97). -/
def abandoning (g : Ring) : Bool := match g.mode with | .abandon _ => true | _ => false
/-- The driver must not write MAR_RING_CMD while busy reads 1 (R97; R1: a violation's behaviour is not defined). -/
def ringCmd (f : State → State) (s : State) : Out :=
  if abandoning (s.ring (ringSel s)) then .fault (.portProtocol "MAR_RING_CMD") else powered s (f s)

/-- What UPDATE and BIND load (R97, R165). -/
def loadPolicyRegs (g : Ring) : Ring :=
  { g with priority := fld g.regCfg 23 2, timeout := fld g.regCfg 25 16, irqVector := fld g.regCfg 42 11,
           irqHoldoff := fld g.regCfg 53 8, cacheM1 := fld g.regCfg 61 3, quota := fld g.regEnq 16 16 }

/-- BIND's condition (R98, R165). -/
def bindOk (s : State) : Bool :=
  let g := s.ring (ringSel s)
  let n := fld g.regCfg 16 5
  ringCmdOk s && g.st == .unbound && ctxSt s (w16 (fld g.regCfg 0 16)) == .live && 4 ≤ n && n ≤ 16 &&
  g.regStartSeq != 0 && (fld g.regEnq 0 2 == 0 || bit g.regCfg 21)

/-- A ring as BIND makes it. -/
def boundRing (g : Ring) : Ring :=
  loadPolicyRegs { Ring.reset with
    regBase := g.regBase, regCmpl := g.regCmpl, regCfg := g.regCfg, regStartSeq := g.regStartSeq, regEnq := g.regEnq,
    st := .idle, base := g.regBase.toNat / 4096 * 4096, cmpl := g.regCmpl.toNat / 16 * 16, ctx := w16 (fld g.regCfg 0 16),
    log2 := fld g.regCfg 16 5, ringDev := bit g.regCfg 21, cmplDev := bit g.regCfg 22, startSeq := g.regStartSeq,
    level := fld g.regEnq 0 2, lastDoorbell := g.lastDoorbell, knockRun := g.knockRun, storm := g.storm }

/-- Count a ring of a context in or out. -/
def countRing (c : CtxId) (f : Nat → Nat) (s : State) : State :=
  match slotOf s c with
  | some i => updSlot i (fun x => { x with ringsBound := f x.ringsBound }) s
  | none => s

/-- BIND (R98): counts 0, the first completion record, IDLE, and a look. -/
def bindOp (s : State) : State :=
  if bindOk s then
    let r := ringSel s
    let s1 := updRing r boundRing s
    let s2 := countRing (s1.ring r).ctx (· + 1) s1
    lookNow r (queuePub r [.record 0 0] s2)
  else ringRefuse s
def execBind (s : State) : Out := ringCmd bindOp s

/-- UNBIND (R98). DESIGN CHOICE (assumption 94): an interrupt still due within the holdoff of R109 is not raised any more. -/
def unbindOp (s : State) : State :=
  let r := ringSel s
  let g := s.ring r
  if ringCmdOk s && g.st != .unbound && g.begun == g.head && !(ringRunning s g) then
    let s1 := match g.seat with
      | some i => moveSeat i (fun _ => Seat.reset) s
      | none => s
    policy (countRing g.ctx (· - 1) (forgetReads r (fun _ => true) (updRing r (fun g => { Ring.reset with
      regBase := g.regBase, regCmpl := g.regCmpl, regCfg := g.regCfg, regStartSeq := g.regStartSeq, regEnq := g.regEnq,
      head := g.head, begun := g.begun, fetch := g.fetch, recHead := g.recHead,
      lastDoorbell := g.lastDoorbell, knockRun := g.knockRun, storm := g.storm }) s1)))
  else ringRefuse s
def execUnbind (s : State) : Out := ringCmd unbindOp s

/-- A restarted ring goes on: its seat to IDLE unless a program of an entry that has begun is still on it (R104), the ring to
SEATED or IDLE, and a look (R113, R116). -/
def ringGoesOn (r : Nat) (s : State) : State :=
  let g := s.ring r
  let s1 := updRing r (fun g => { g with
    latchPending := false, reason := 0, errCode := 0, draining := false,
    st := if g.seat.isSome then .seated else .idle }) s
  let s2 := match g.seat with
    | some i => moveSeat i (fun x => { x with st := if x.prog.isSome then x.st else .idle }) s1
    | none => s1
  lookNow r s2

/-- RESTART with skip 1 after reasons 1 to 7 publishes the latched entry as done with its fence as it stands (R113). -/
def skipLatched (r : Nat) (s : State) : State :=
  let g := s.ring r
  let w := mkWork r (g.seat.getD 0) g ⟨g.latched, g.latchedWords, none, false⟩ s.now (epochBit s)
  let s1 := updRing r (fun g => { g with fetch := g.latched + 1, cache := [] }) s
  enterWindow r { w with marker := false, ended := true, skipFence := true, fence := .done, fenceErr := true } s1

/-- RESTART (R113). -/
def restartOp (skip : Bool) (s : State) : State :=
  let r := ringSel s
  let g := s.ring r
  if ringCmdOk s && g.st == .stopped && g.mode == .normal then
    let s1 := ringClear s
    let s2 := if g.reason ≤ 7 then
        (if skip then skipLatched r s1 else updRing r (fun g => { g with fetch := g.latched }) s1)
      else if g.reason == 10 then queuePub r [recordStep g] (updRing r (fun g => { g with st := .idle }) s1)
      else s1
    ringGoesOn r s2
  else ringRefuse s
def execRestart (skip : Bool) (s : State) : Out := ringCmd (restartOp skip) s

/-- ABANDON (R114): the posted entries are read in count order and published without running; logged once (R379). -/
def abandonOp (s : State) : State :=
  let r := ringSel s
  let g := s.ring r
  if ringCmdOk s && g.st == .stopped && g.mode == .normal then
    let s1 := logRec .nothing { LogRec.zero with
      cls := 2, code := eRingAbandoned, island := islMar, ctx := g.ctx, ring := r, count := g.begun } (ringClear s)
    let s2 := updRing r (fun g => { g with
      mode := .abandon (2 ^ g.log2), latchPending := false, cache := [], reads := [], raws := [], fetch := g.begun,
      sawFree := false }) s1
    policy (settle r (forgetReads r (fun _ => true) s2))
  else ringRefuse s
def execAbandon (s : State) : Out := ringCmd abandonOp s

/-- Seats that stay neither pinned nor reserved once the ring is pinned to seat `i` (R98). -/
def freeSeatsAfterPin (s : State) (r i : Nat) : Nat :=
  ((List.range s.build.seats).filter fun j => !(heatSeat s j) && j != i &&
    (match pinnedRing s j with | some r' => r' == r | none => true)).length

/-- PIN's condition (R98). -/
def pinOk (s : State) (i : Nat) : Bool :=
  let r := ringSel s
  ringCmdOk s && (s.ring r).st != .unbound && i < s.build.seats && !(heatSeat s i) &&
  (match pinnedRing s i with | some r' => r' == r | none => true) && 4 ≤ freeSeatsAfterPin s r i

/-- PIN (R98): the seat's present ring is drained, and so is this ring from another seat. -/
def pinOp (i : Nat) (s : State) : State :=
  if pinOk s i then
    let r := ringSel s
    let s1 := updRing r (fun g => { g with pin := some i }) (ringClear s)
    let s2 := match (s1.seat i).ring with
      | some q => if q != r then drainRing q s1 else s1
      | none => s1
    let s3 := match (s2.ring r).seat with
      | some j => if j != i then drainRing r s2 else s2
      | none => s2
    policy s3
  else ringRefuse s
def execPin (i : Nat) (s : State) : Out := ringCmd (pinOp i) s

/-- UNPIN (R98). -/
def unpinOp (s : State) : State :=
  let r := ringSel s
  if ringCmdOk s && (s.ring r).st != .unbound && (s.ring r).pin.isSome then
    policy (settle r (updRing r (fun g => { g with pin := none }) (ringClear s)))
  else ringRefuse s
def execUnpin (s : State) : Out := ringCmd unpinOp s

/-- UPDATE (R98). -/
def updateOp (s : State) : State :=
  let r := ringSel s
  if ringCmdOk s && (s.ring r).st != .unbound then policy (settle r (updRing r loadPolicyRegs (ringClear s)))
  else ringRefuse s
def execUpdate (s : State) : Out := ringCmd updateOp s

def execSeatPolicy (s : State) : Out := .next (policy s)

/-- IRQ_HOLDOFF_END: an interrupt that fell due within the holdoff is raised once (R109). -/
def irqHoldoffEndOp (r : Nat) (s : State) : State :=
  let g := s.ring r
  if g.irqDue && g.irqLast.getD 0 + g.irqHoldoff * usTu ≤ s.now then ringIrq r s else s
def execIrqHoldoffEnd (r : Nat) (s : State) : Out := .next (irqHoldoffEndOp r s)

end Sys2Proof.Machine
end

