-- ==== Sys2Proof/Machine/Cox.lean ====
section
/-! DEFINITION. The Cox cores: fetching and issuing control words, stalls, parking, and sharing cores among seats. -/
namespace Sys2Proof.Machine

/-! ### What a seat's outstanding requests hold back (R146) -/

/-- Registers whose LOADC or ATOMC of the seat has no response yet. -/
def owedRegs (s : State) (seat : Nat) : List Nat :=
  s.ports.nm.filterMap (fun q => match q.why with
    | .loadc _ st rd _ _ => if st == seat && !q.stale then some rd else none
    | _ => none) ++
  s.ports.at_.filterMap (fun q => match q.why with
    | .atomc _ st rd _ _ => if st == seat && !q.stale then some rd else none
    | _ => none)

/-- A STOREC or ATOMC of the seat has no response yet. -/
def owesWrite (s : State) (seat : Nat) : Bool :=
  (s.ports.nm.any fun q => match q.why with | .storec _ st _ => st == seat && !q.stale | _ => false) ||
  (s.ports.at_.any fun q => match q.why with | .atomc _ st _ _ _ => st == seat && !q.stale | _ => false)

/-- An ATOMC or SIGNALF of the seat to the 8-byte word of an address has no response yet. -/
def owesWord (s : State) (seat addr : Nat) : Bool :=
  s.ports.at_.any fun q => q.addr / 8 == addr / 8 && !q.stale && (match q.why with
    | .atomc _ st _ _ _ => st == seat
    | .signal _ st _ _ => st == seat
    | _ => false)

/-- A narrow-path or atomic request of the seat has no response yet, crossing records included (R138, R233). -/
def owesAny (s : State) (seat : Nat) : Bool :=
  owesWrite s seat || !(owedRegs s seat).isEmpty || (s.stb.outs.any fun o => o.seat == seat) ||
  (s.ports.at_.any fun q => match q.why with | .signal _ st _ _ => st == seat && !q.stale | _ => false)

/-- The opcodes that issue only after every earlier STOREC and ATOMC of the seat is answered (R146). -/
def waitsWrites (op : Nat) : Bool :=
  op == 0x21 || op == 0x22 || op == 0x30 || op == 0x31 || op == 0x40 || op == 0x41 || op == 0x70 || op == 0x80

/-- A word that ends a heat's program reads c12 (R266). -/
def endsHeat (p : Prog) (w : CWord) : Bool :=
  (match p.owner with | .heat _ _ => true | .entry _ _ => false) &&
  (w.op == 0x01 || w.op == 0xA0 || (w.op == 0x06 && p.frames.isEmpty))

/-- The chip id of this chip (R240). -/
def chipId (s : State) : BitVec 16 := w16 (fld s.stb.xngCfg 0 16)
/-- A word must wait for responses before it issues (R146). -/
def mustStall (s : State) (seat : Nat) (p : Prog) (w : CWord) : Bool :=
  let owed := owedRegs s seat
  (owed.any fun r => (readsRegs w).contains r || (writesRegs w).contains r) ||
  (readsZ w && p.zown.isSome) || (endsHeat p w && owed.contains 12) ||
  ((w.op == 0x12 || w.op == 0x14 || w.op == 0x20 || w.op == 0x21 || (w.op == 0x22 && w16 w.imm == chipId s)) &&
    owesWord s seat (operandA p.regs w)) ||
  (waitsWrites w.op && owesWrite s seat)

/-! ### Fetching words (R123) -/

/-- The line of an address. -/
def lineOf (a : Nat) : Nat := a / 64 * 64
/-- A buffered line of a core. -/
def bufLine (c : Core) (ctx : CtxId) (line : Nat) : Option BufLine := c.buf.find? fun b => b.ctx == ctx && b.line == line
/-- Put a line into a core's buffer, which keeps the 128 newest lines (256 words). -/
def pushLine (k : Nat) (b : BufLine) (s : State) : State :=
  updCore k (fun c => { c with buf := (b :: c.buf.filter fun x => !(x.ctx == b.ctx && x.line == b.line)).take 128 }) s
/-- The word at an address in a buffered line. -/
def wordIn (b : BufLine) (a : Nat) : List W64 := if a % 64 < 32 then b.words.take 4 else b.words.drop 4
/-- A read of a program line is under way. -/
def lineAsked (s : State) (k : Nat) (ctx : CtxId) (line : Nat) : Bool :=
  s.ports.nm.any fun q => !q.stale && q.why == .progLine k ctx line
/-- Ask for one program line unless it is buffered or asked for. -/
def askLine (k seat : Nat) (ctx : CtxId) (s : State) (line : Nat) : State :=
  if (bufLine (s.core k) ctx line).isSome || lineAsked s k ctx line then s
  else issueNm false line ctx [] 64 seat (.progLine k ctx line) (islCox k) s
/-- Ask for the line at pc and for up to four lines ahead of it, within the program (R123). -/
def prefetch (k seat : Nat) (p : Prog) (s : State) : State :=
  let a := p.base + 32 * p.pc
  let stop := p.base + 32 * p.len
  each (((List.range 5).map fun i => lineOf a + 64 * i).filter fun l => l < stop) (askLine k seat p.ctx) s

/-! ### Issuing words -/

/-- The record of an error that a word of a program raises (R144, R378). -/
def wordRec (s : State) (k seat : Nat) (p : Prog) (code : BitVec 16) : LogRec :=
  ownerRec p.owner s { LogRec.zero with code := code, island := islCox k, seat := seat, ctx := p.ctx, tag := p.tag, pc := p.pc }
/-- A word fails its program's entry with a class and code. -/
def wordFail (k seat : Nat) (p : Prog) (cls : Nat) (code : BitVec 16) (s : State) : State :=
  ownerError p.owner cls (wordRec s k seat p code) s
/-- As `wordFail`, with a faulting address. -/
def wordFailAt (k seat : Nat) (p : Prog) (cls : Nat) (code : BitVec 16) (addr : Nat) (s : State) : State :=
  ownerError p.owner cls { wordRec s k seat p code with addr := addr } s

/-- A core holds its word (R149). -/
def stallCore (k : Nat) (why : Stall) (s : State) : State := updCore k (fun c => { c with st := .stall, stall := why }) s
/-- A core goes on with its word. -/
def runCore (k : Nat) (s : State) : State := updCore k (fun c => { c with st := .exec, stall := .none, since := s.now }) s

/-- The seat a core runs and its program. -/
def running (s : State) (k : Nat) : Option (Nat × Prog) :=
  match (s.core k).seats.head? with
  | some seat => (s.prog? seat).map fun p => (seat, p)
  | none => none

/-- The program lines of a range leave every core's buffer, and a read of one that no core waits for is forgotten. A
program's words may change while no posted entry names it (R124), a body's until RECORD or PATCH (R154). -/
def dropLines (who : CtxId → Bool) (lo len : Nat) (s : State) : State :=
  let hit (ctx : CtxId) (l : Nat) : Bool := who ctx && lineOf lo ≤ l && l < lo + len
  let waits (k : Nat) (ctx : CtxId) (l : Nat) : Bool :=
    (s.core k).st == .stall && (s.core k).stall == .fetch &&
    (match running s k with | some (_, p) => p.ctx == ctx && lineOf (p.base + 32 * p.pc) == l | none => false)
  let s1 := each (List.range s.build.coxCores) (fun s k =>
    updCore k (fun c => { c with buf := c.buf.filter fun b => !(hit b.ctx b.line) }) s) s
  updPorts (fun x => { x with nm := x.nm.map fun q =>
    match q.why with
    | .progLine k ctx l => if hit ctx l && !(waits k ctx l) then { q with stale := true } else q
    | _ => q }) s1

/-- The word at a running program's pc, when its line is buffered. -/
def wordAtPc (s : State) (k : Nat) (p : Prog) : Option (RespErr × CWord) :=
  let a := p.base + 32 * p.pc
  (bufLine (s.core k) p.ctx (lineOf a)).map fun b => (b.err, cword (wordIn b a))

/-- A word counts as executed (R152, R367). -/
def countWord (k seat : Nat) (p : Prog) (s : State) : State :=
  ergCount 7 1 { ctx := some p.ctx, tag := some p.tag } <| updCore k (fun c => { c with since := s.now })
    (updProg seat (fun p => { p with words := satAdd 32 p.words 1, sliceWords := p.sliceWords + 1 }) (prefetch k seat p s))

/-- What a word does: the core, the seat, its program and the word. -/
abbrev WordMeaning := Nat → Nat → Prog → CWord → State → State

/-- The word is complete: pc advances by one (R125). -/
def advance (seat : Nat) (s : State) : State := updProg seat (fun p => { p with pc := p.pc + 1 }) s
/-- Write a control register. -/
def setReg (seat r : Nat) (v : W64) (s : State) : State := updProg seat (fun p => { p with regs := p.regs.set r v }) s

/-- A held word whose wait is over issues again with the next command (R149). -/
def recheckSeat (seat : Nat) (s : State) : State :=
  match coreOf s seat with
  | none => s
  | some k =>
    let c := s.core k
    if c.st == .stall && c.stall == .order && c.seats.head? == some seat then
      match s.prog? seat with
      | none => s
      | some p => match wordAtPc s k p with
        | some (_, w) => if mustStall s seat p w then s else runCore k s
        | none => runCore k s
    else s

/-- The words that cores hold are looked at again. -/
def recheckCores (s : State) : State :=
  each (List.range s.build.coxCores) (fun s k => match (s.core k).seats.head? with
    | some seat => recheckSeat seat s
    | none => s) s

/-! ### Acting context (R145) -/

/-- The context an operation acts for, or the class and code of R145: with xctx = 1 the field must name a live context,
and another context than the program's own needs the privileged bit. DESIGN CHOICE (assumption 96): a word
that fails this check and a check of its operands reports as its meaning orders the two, which the spec leaves open. -/
def actCtx (s : State) (p : Prog) (w : CWord) : Except (Nat × BitVec 16) CtxId :=
  if !w.xctx then .ok p.ctx
  else if !(ctxLive s w.ctx) then .error (1, eBadOperand)
  else if w.ctx != p.ctx && !(ctxPriv s p.ctx) then .error (3, ePrivilege)
  else .ok w.ctx

/-! ### Parking and release (R130, R131, R148) -/

/-- Park a seat: its program waits, and its core goes to the next seat assigned to it (R131, R149). -/
def parkSeat (k seat : Nat) (park : Park) (s : State) : State :=
  let s1 := updProg seat (fun p => { p with park := park, parkedAt := s.now, released := false }) s
  let s2 := moveSeat seat (fun x => { x with st := .wait }) s1
  let (kind, addr) : Nat × Nat := match park with
    | .waitf _ _ a => (0, a)
    | .barrier _ _ => (1, 0)
    | _ => (2, 0)
  leaveCore k seat (hangEv (islCox k) 0x08 (put seat 0 6 + put kind 6 2 + put addr 8 56) s2)

/-- The trace and counters of a released wait (R358, R359, R367). -/
def noteRelease (seat : Nat) (p : Prog) (kind addr : Nat) (e polled parked : Bool) (s : State) : State :=
  let waited := if parked then s.now - p.parkedAt else 0
  let s1 := wakeEv (if kind == 0 then islStb else islCox 0) 6 false (some p.ctx)
    [w64 (put seat 0 6 + put kind 6 2 + putb e 8 + putb polled 9 + put (addr / 8) 10 24 + put (min (2 ^ 30 - 1) (waited / 16)) 34 30)] s
  let s2 := hangEv (if kind == 0 then islStb else islCox 0) 0x09 (put seat 0 6 + put kind 6 2 + put addr 8 56) s1
  if parked then ergValue 50 (waited / 4) { ctx := some p.ctx } s2 else s2

/-- A parked seat's wait is released: it waits for a core (R148). -/
def releaseProg (seat : Nat) (s : State) : State :=
  updProg seat (fun p => { p with released := true, deadline := none, pc := p.pc + 1 }) s

/-- BARRIER is met (R138). -/
def barrierMet (s : State) (seat : Nat) (o : Owner) (mask : Nat) (mem : Bool) : Bool :=
  (match s.work? o with
   | some w => (List.range 4).all fun g => !(Nat.testBit mask g) || w.groups.getD g 0 == 0
   | none => true) && (!mem || !(owesAny s seat))

/-- A parked BARRIER that is now met is released. -/
def checkBarrier (seat : Nat) (s : State) : State :=
  match s.prog? seat with
  | some p => match p.park with
    | .barrier mask mem =>
      if !p.released && (s.seat seat).st == .wait && barrierMet s seat p.owner mask mem
      then releaseProg seat (noteRelease seat p 1 0 false false true s) else s
    | _ => s
  | none => s

/-- A response or report for a seat has come: a held word, a parked BARRIER and the entry itself are looked at again. -/
def seatEvent (seat : Nat) (o : Owner) (s : State) : State :=
  settleOwner o (checkBarrier seat (recheckSeat seat s))

/-- SEAT_RESUME (R131, R148): the seat goes to the core with the fewest assigned seats, the lowest id among equals. -/
def seatResumeOp (seat : Nat) (s : State) : State :=
  match s.prog? seat with
  | none => s
  | some p =>
    if !(computeUp s) || !p.released || (s.seat seat).st != .wait then s else
    match best (fun a b => (s.core a).seats.length < (s.core b).seats.length) (List.range s.build.coxCores) with
    | none => s
    | some k =>
      let s1 := updProg seat (fun p => { p with park := .none, released := false, sliceWords := 0 }) s
      let s2 := moveSeat seat (fun x => { x with st := .run }) s1
      updCore k (fun c => { c with
        seats := c.seats ++ [seat], st := if c.seats.isEmpty then .exec else c.st,
        since := if c.seats.isEmpty then s.now else c.since }) s2
def execSeatResume (seat : Nat) (s : State) : Out := .next (seatResumeOp seat s)

/-! ### Taking a seat (R121, R148) -/

/-- SETC SELF (R121). -/
def selfWord (ctx : CtxId) (o : Owner) (seat k : Nat) : W64 :=
  match o with
  | .entry r _ => w64 (ctx.toNat + put r 16 12 + put seat 28 6 + put k 34 4)
  | .heat l _ => w64 (ctx.toNat + put l 16 12 + put seat 28 6 + put k 34 4 + 2 ^ 38)

/-- A program at the start of an entry (R121). -/
def startProg (o : Owner) (ctx : CtxId) (words : List W64) (seat k now origin : Nat) : Prog where
  owner := o
  ctx := ctx
  base := enProgAddr words
  len := enProgLen words
  pc := 0
  regs := ((((Tab.const (0 : W64)).set 0 (enSeq words)).set 1 (w64 (enTag words))).set 2 (w64 (enFenceAddr words))).set 3
    (enFenceValue words) |>.set 4 (selfWord ctx o seat k)
  z := false
  f := false
  frames := []
  tag := enTag words
  words := 0
  sliceWords := 0
  park := .none
  parkedAt := now
  issuedAt := now
  deadline := none
  released := false
  origin := origin
  zown := none

/-- READY seats, the best first: Heat's, then by priority, then READY longest, then the lowest id (R148). -/
def readyBefore (s : State) (a b : Nat) : Bool :=
  let pr (i : Nat) : Nat := match (s.seat i).ring with | some r => (s.ring r).priority | none => 0
  if heatSeat s a != heatSeat s b then heatSeat s a
  else if pr a != pr b then pr b < pr a
  else if (s.seat a).readyAt != (s.seat b).readyAt then (s.seat a).readyAt < (s.seat b).readyAt
  else a < b
/-- The seats that are READY. -/
def readySeats (s : State) : List Nat := (List.range s.build.seats).filter fun i => (s.seat i).st == .ready

/-- An entry begins again after a compute reset (R396): from pc 0 with its cached first line, its timer restarted. -/
def beginReplay (k seat : Nat) (o : Owner) (s : State) : State :=
  let s1 := updBhs (fun b => { b with replays := b.replays.filter fun x => x != o }) s
  match s1.work? o with
  | none => s1
  | some w =>
    let p := startProg o w.ctx w.words seat k s.now 2
    let s2 := updWork o (fun w => { w with
      seat := seat, began := s.now, timer := some s.now, replayed := w.replayed + 1, epoch := epochBit s }) s1
    let s3 := moveSeat seat (fun x => { x with st := .run, prog := some p })
      (updBhs (fun b => { b with replayed := satAdd 64 b.replayed 1 }) s2)
    match w.line with
    | some (e, ws) => pushLine k ⟨w.ctx, lineOf p.base, e, ws⟩ s3
    | none => s3

/-- A core begins the entry offered on a READY seat (R103, R116, R121): begun rises, the timer starts. Entries to replay come
first (R395). -/
def beginEntry (k seat r : Nat) (s : State) : State :=
  let g := s.ring r
  match (ringReplays s r).head? with
  | some o => beginReplay k seat o s
  | none =>
  match nextCached g with
  | none => s
  | some c =>
    let w := mkWork r seat g c s.now (epochBit s)
    let p := startProg w.owner g.ctx c.words seat k s.now 0
    let s1 := enterWindow r w s
    let s2 := dropLines (· == p.ctx) p.base (32 * p.len) (moveSeat seat (fun x => { x with st := .run, prog := some p }) s1)
    match c.line with
    | some (e, ws) => pushLine k ⟨g.ctx, lineOf p.base, e, ws⟩ s2
    | none => s2

/-- A program that Heat has offered on its reserved seat starts (R263); it is prepared in the seat. -/
def beginHeatProg (k seat : Nat) (s : State) : State :=
  moveSeat seat (fun x => { x with
    st := .run,
    prog := x.prog.map fun p => { p with regs := p.regs.set 4 (selfWord p.ctx p.owner seat k) } }) s

/-- The parameter layout of the course that Heat has started on a seat; 0 for an entry's program and for an unchecked layout. -/
def startLayout (s : State) : Owner → Nat
  | .entry _ _ => 0
  | .heat l k => (s.hslot l k).layout

/-- Step 5 of R160 for the course that Heat starts (R163): the core reads the header at c15 before the first word. -/
def heatHeader (k seat : Nat) (p : Prog) (layout : Nat) (s : State) : State :=
  let v := (p.regs.get 15).toNat
  if v % 64 != 0 then wordFail k seat p 1 eBadOperand s
  else if poisonedAt s v 8 then wordFailAt k seat p 1 ePoisonedObject v s
  else stallCore k .unit
    (issueNm false v p.ctx [] 8 seat (.heatHdr k p.owner layout) (islCox k)
      (updWork p.owner (fun w => { w with reqs := w.reqs + 1 }) s))

/-- A core takes a READY seat. The first line cached with an entry is reached when the entry begins: its error is reported then
(R123). A course that Heat starts has its parameter table checked first (R163). -/
def takeSeat (k seat : Nat) (s : State) : State :=
  let s1 := match (s.seat seat).ring with
    | some r => beginEntry k seat r s
    | none => beginHeatProg k seat s
  match s1.prog? seat with
  | none => s1
  | some p =>
    if startLayout s1 p.owner != 0 then heatHeader k seat p (startLayout s1 p.owner) s1 else
    match wordAtPc s1 k p with
    | some (err, _) => if err == .ok then prefetch k seat p s1 else wordFailAt k seat p 2 eProgramFetch p.base s1
    | none => prefetch k seat p s1
/-- Taking a seat, and what follows from it for the seat's ring. -/
def takeSeatAndSettle (k seat : Nat) (s : State) : State :=
  let s1 := takeSeat k seat s
  match (s1.seat seat).ring with
  | some r => settle r s1
  | none => s1

/-- CORE_TAKE_SEAT (R148, R149): a core without an assigned seat takes the best READY seat. -/
def coreTakeSeatOp (k : Nat) (s : State) : State :=
  if !(computeUp s) || s.build.coxCores ≤ k || (s.core k).st != .idle || !(s.core k).seats.isEmpty then s else
  match best (readyBefore s) (readySeats s) with
  | none => s
  | some seat =>
    takeSeatAndSettle k seat (updCore k (fun c => { c with seats := [seat], st := .exec, stall := .none, since := s.now }) s)
def execCoreTakeSeat (k : Nat) (s : State) : Out := .next (coreTakeSeatOp k s)

/-- The slice length in words (R152). -/
def sliceLen (s : State) : Nat := max 256 (fld s.cox.cfg 0 16)

/-- A yield at the slice is due (R148): the running seat has executed its slice, and another seat is assigned to the core, or is
READY with no core idle. -/
def sliceDue (s : State) (k : Nat) (p : Prog) : Bool :=
  sliceLen s ≤ p.sliceWords &&
  (2 ≤ (s.core k).seats.length ||
   (!(readySeats s).isEmpty && (List.range s.build.coxCores).all fun j => (s.core j).st != .idle))

/-- The running seat goes to the back of its core's queue (R148); with no other seat assigned the core takes the best READY seat. -/
def yieldCore (k : Nat) (s : State) : State :=
  match (s.core k).seats with
  | [] => s
  | seat :: rest =>
    let s1 := updProg seat (fun p => { p with park := .slice, sliceWords := 0 }) s
    match rest with
    | next :: _ =>
      updProg next (fun p => { p with park := .none, sliceWords := 0 })
        (updCore k (fun c => { c with seats := rest ++ [seat], since := s.now }) s1)
    | [] => match best (readyBefore s) (readySeats s) with
      | some other => takeSeatAndSettle k other (updCore k (fun c => { c with seats := [other, seat], since := s.now }) s1)
      | none => s

/-- SLICE_YIELD (R148). -/
def sliceYieldOp (k : Nat) (s : State) : State :=
  if !(computeUp s) || (s.core k).st != .exec || s.build.coxCores ≤ k then s else
  match running s k with
  | some (_, p) => if sliceDue s k p then yieldCore k s else s
  | none => s
def execSliceYield (k : Nat) (s : State) : Out := .next (sliceYieldOp k s)

/-- Issue the word at pc of the program core `k` runs, if it is a word of opcode `op`. A word of another opcode leaves
the state as it is; a reserved opcode fails whichever row names it (assumption 5). A word that a full resource may hold back
(`holds`) has not issued when it is. A core whose yield at the slice is due yields in place of issuing a word (R148). -/
def runWord (op : Nat) (holds : Bool) (go : WordMeaning) (k : Nat) (s : State) : State :=
  if !(computeUp s) || (s.core k).st != .exec || s.build.coxCores ≤ k then s else
  match running s k with
  | none => s
  | some (seat, p) =>
    if sliceDue s k p then yieldCore k s
    else if p.len ≤ p.pc then wordFail k seat p 2 eProgramBounds s else
    match wordAtPc s k p with
    | none => stallCore k .fetch (prefetch k seat p s)
    | some (err, w) =>
      if err != .ok then wordFailAt k seat p 2 eProgramFetch (p.base + 32 * p.pc) s
      else if w.op != op then
        (if (opUse w.op).isNone then wordFail k seat p 2 eBadOpcode s else s)
      else if !(wordLegal s.build w) then wordFail k seat p 2 eBadOpcode s
      else if mustStall s seat p w then stallCore k .order s
      else
        let s' := go k seat p w (countWord k seat p s)
        if holds && (s'.core k).st == .stall && ((s'.core k).stall == .order || (s'.core k).stall == .tree)
        then stallCore k (s'.core k).stall s else s'

/-! ### Stakeboat takes a wait (R212, R213) -/

/-- Register a waiter and issue its first read, an atomic OR of 0. -/
def registerWait (i addr : Nat) (ctx : CtxId) (value : W64) (gate : Option (Nat × Nat)) (s : State) : State :=
  let s1 := moveWaiter i (fun w => { Waiter.reset with
    st := .read, addr := addr, ctx := ctx, value := value, gate := gate, gen := w.gen + 1, reads := 1, since := s.now }) s
  ergCount 11 1 { ctx := some ctx } (issueAt opOr addr ctx 0 0 (.waitRead i (s1.stb.waiters.get i).gen false) islStb s1)

end Sys2Proof.Machine
end

