-- ==== Sys2Proof/Machine/Words.lean ====
section
/-! DEFINITION. The control words of flow, arithmetic, memory, waiting, signalling, launching and references. -/
namespace Sys2Proof.Machine

/-! ### Flow (R125, R161) -/

def nopWord : WordMeaning := fun _ seat _ _ s => advance seat s
/-- The end of a heat's program: a non-zero c12 fails the heat (R266). -/
def heatEnd (k seat : Nat) (p : Prog) (s : State) : State :=
  let c := p.regs.get 12
  if c = 0 then endProgram seat s else ownerError p.owner 1 { wordRec s k seat p eHeatCourseStatus with info := fld c 0 32 } s
/-- END of an entry's program, or of a heat's (R125, R266). -/
def endOf (k seat : Nat) (p : Prog) (s : State) : State :=
  match p.owner with
  | .entry _ _ => endProgram seat s
  | .heat _ _ => heatEnd k seat p s
def endWord : WordMeaning := fun k seat p _ s => endOf k seat p s
/-- HEATEND outside a heat's program is no usable opcode (R266). -/
def heatendWord : WordMeaning := fun k seat p _ s =>
  match p.owner with
  | .entry _ _ => wordFail k seat p 2 eBadOpcode s
  | .heat _ _ => heatEnd k seat p s

/-- A word whose target is at or beyond the length of the running program performs nothing (R125). -/
def jumpWord : WordMeaning := fun k seat p w s =>
  let a := operandA p.regs w
  if p.len ≤ a then wordFail k seat p 2 eProgramBounds s else updProg seat (fun p => { p with pc := a }) s

def branchWord : WordMeaning := fun k seat p w s =>
  let a := fld w.w1 0 24
  if p.len ≤ a then wordFail k seat p 2 eProgramBounds s
  else if branchTaken w.sub (p.regs.get w.ra) (operandV p.regs w) p.z p.f then updProg seat (fun p => { p with pc := a }) s
  else advance seat s

def loopWord : WordMeaning := fun k seat p w s =>
  let a := fld w.w1 0 24
  if p.len ≤ a then wordFail k seat p 2 eProgramBounds s
  else
    let n := p.regs.get w.rd - 1
    let s1 := updProg seat (fun p => { p with regs := p.regs.set w.rd n, z := zOf n, zown := none }) s
    if n = 0 then advance seat s1 else updProg seat (fun p => { p with pc := a }) s1

/-- RETC with no frame acts as END; else it pops the frame (R161, R266). -/
def retcWord : WordMeaning := fun k seat p _ s =>
  match p.frames with
  | [] => endOf k seat p s
  | fr :: rest =>
    updProg seat (fun p => { p with
      frames := rest, pc := fr.retPc, base := fr.base, len := fr.len, tag := fr.tag,
      regs := (((p.regs.set 12 fr.c12).set 13 fr.c13).set 14 fr.c14).set 15 fr.c15 }) s

/-! ### Calls (R160) -/

/-- The pins an entry holds. -/
def pinsOf (s : State) (o : Owner) : List Pin :=
  match s.work? o with
  | some w => w.pins
  | none => []

/-- The pin a replayed entry resolves a call to: the earliest body of the course it has pinned with a version at least N
(R396). -/
def replayPin (s : State) (o : Owner) (h : W32) (n : Nat) : Option Pin :=
  match s.work? o with
  | none => none
  | some w =>
    if w.replayed == 0 then none
    else best (fun a b => a.version < b.version) (w.pins.filter fun p => p.course == h && n ≤ p.version)

/-- Steps 2 to 4 of R160 (one Rack operation): the pinned body of a course, or the code of the first step that fails. -/
def resolveCourse (o : Owner) (ctx : CtxId) (h : W32) (n : Nat) (s : State) : Except (BitVec 16) (Pin × State) :=
  match replayPin s o h n with
  | some p => .ok (p, s)
  | none =>
    let ob := objOf s h
    let c := s.rack.courses.get (hIdx h)
    if objStale s h then .error eStaleHandle
    else if !c.isCourse || c.retired then .error eCourseInvalid
    else if objDenied ob (some ctx) then .error eObjectAccess
    else if n != 0 && n < c.version then .error eStaleCourse
    else if c.version < n then .error eBadOperand
    else
      let pin : Pin := ⟨h, c.version, c.body, c.bodyWords, c.paramLayout⟩
      let held := pinsOf s o
      if held.any fun p => p.body == c.body then .ok (pin, s)
      else if 16 ≤ held.length then .error eCoursePinLimit
      else match refAddOp none c.body 1 s with
        | .error e => .error e
        | .ok s1 => .ok (pin, updWork o (fun w => { w with pins := w.pins ++ [pin] }) s1)

/-- The call depth of a program: a heat's starts at 1 (R163). -/
def callDepth (p : Prog) : Nat := p.frames.length + (match p.owner with | .entry _ _ => 0 | .heat _ _ => 1)

/-- Steps 6 and 7 of R160: push the frame and enter the body. -/
def enterCourse (seat : Nat) (pin : Pin) (v : W64) (s : State) : State :=
  updProg seat (fun p =>
    let fr : Frame := ⟨p.pc + 1, p.base, p.len, p.tag, p.regs.get 12, p.regs.get 13, p.regs.get 14, p.regs.get 15⟩
    { p with
      frames := fr :: p.frames, pc := 0, base := (objOf s pin.body).base, len := pin.words,
      regs := ((p.regs.set 15 v).set 14 (w64 (pin.version * 2 ^ 32 + pin.course.toNat))).set 13
        (w64 (callDepth p + 1)) }) s

/-- CALLC: the checks of R160 in order; with a parameter layout the core reads the table's first word first. DESIGN CHOICE
(assumption 98): the bits of V above an address's 56 take no part in that read. -/
def callcWord : WordMeaning := fun k seat p w s =>
  if 7 ≤ callDepth p then wordFail k seat p 1 eCallDepth s
  else match resolveCourse p.owner p.ctx (w32 (fld w.w1 0 32)) (fld w.w1 32 16) s with
    | .error c => wordFail k seat p 1 c s
    | .ok (pin, s1) =>
      let v := operandV p.regs w
      if pin.layout = 0 then enterCourse seat pin v s1
      else if v.toNat % 64 != 0 then wordFail k seat p 1 eBadOperand s1
      else if poisonedAt s1 (v.toNat % 2 ^ 56) 8 then wordFailAt k seat p 1 ePoisonedObject (v.toNat % 2 ^ 56) s1
      else stallCore k .unit
        (issueNm false (v.toNat % 2 ^ 56) p.ctx [] 8 seat (.callHdr k p.owner pin) (islCox k)
          (updWork p.owner (fun w => { w with reqs := w.reqs + 1 }) s1))

/-! ### Arithmetic (R121, R122) -/

def setcWord : WordMeaning := fun k seat p w s =>
  let v := match w.sub with
    | 0 => operandV p.regs w
    | 1 => w64 s.now
    | 2 => flagsWord p.z p.f
    | _ => selfWord p.ctx p.owner seat k
  advance seat (setReg seat w.rd v s)

def addcWord : WordMeaning := fun _ seat p w s =>
  let v := addcResult w.sub (p.regs.get w.ra) (operandV p.regs w)
  advance seat (updProg seat (fun p => { p with regs := p.regs.set w.rd v, z := zOf v, zown := none }) s)

/-! ### Memory (R126, R145) -/

/-- The entry has one more outstanding request. -/
def moreReqs (o : Owner) (s : State) : State := updWork o (fun w => { w with reqs := w.reqs + 1 }) s
/-- The entry has one request less. -/
def lessReqs (o : Owner) (s : State) : State := updWork o (fun w => { w with reqs := w.reqs - 1 }) s
/-- The entry can no longer be replayed (R393, R397). -/
def unreplayable (o : Owner) (s : State) : State := updWork o (fun w => { w with nonReplayable := true }) s

def loadcWord : WordMeaning := fun k seat p w s =>
  let a := operandA p.regs w
  match actCtx s p w with
  | .error (c, e) => wordFailAt k seat p c e a s
  | .ok ctx =>
    if a % memSize w.sub != 0 then wordFailAt k seat p 1 eBadOperand a s
    else if poisonedAt s a (memSize w.sub) then wordFailAt k seat p 1 ePoisonedObject a s
    else if portTags ≤ s.ports.nm.length then stallCore k .order s
    else
      let tag := leastFree (s.ports.nm.map (·.tag)) s.ports.nm.length 0
      advance seat (updProg seat (fun p => { p with zown := some (0, tag) })
        (issueNm false a ctx [] (memSize w.sub) seat (.loadc p.owner seat w.rd (memSize w.sub) p.pos) (islCox k) (moreReqs p.owner s)))

def storecWord : WordMeaning := fun k seat p w s =>
  let a := operandA p.regs w
  match actCtx s p w with
  | .error (c, e) => wordFailAt k seat p c e a s
  | .ok ctx =>
    let n := memSize w.sub
    if a % n != 0 then wordFailAt k seat p 1 eBadOperand a s
    else if portTags ≤ s.ports.nm.length then stallCore k .order s
    else advance seat (issueNm true a ctx (leBytes (operandV p.regs w).toNat n) n seat
      (.storec p.owner seat p.pos) (islCox k) (moreReqs p.owner s))

def atomcWord : WordMeaning := fun k seat p w s =>
  let a := operandA p.regs w
  match actCtx s p w with
  | .error (c, e) => wordFailAt k seat p c e a s
  | .ok ctx =>
    if a % 8 != 0 then wordFailAt k seat p 1 eBadOperand a s
    else if poisonedAt s a 8 then wordFailAt k seat p 1 ePoisonedObject a s
    else if portTags ≤ s.ports.at_.length then stallCore k .order s
    else
      let cmp := if w.opf % 2 == 1 then p.regs.get w.rd else w.w3
      let tag := leastFree (s.ports.at_.map (·.tag)) s.ports.at_.length 0
      let s1 := if w.sub == opAdd || w.sub == opSwap || w.sub == opCas then unreplayable p.owner s else s
      advance seat (updProg seat (fun p => { p with zown := some (1, tag) })
        (issueAt w.sub a ctx (operandV p.regs w) cmp
          (.atomc p.owner seat w.rd (if w.sub == opCas then some cmp else none) p.pos) (islCox k) (moreReqs p.owner s1)))

/-! ### Waiting (R128, R129, R138) -/

/-- The deadline of an imm16 timeout in units of 64 µs (R128). -/
def deadlineOf (now imm : Nat) : Option Nat := if imm = 0 then none else some (now + imm * 64 * usTu)

/-- WAITF hands the fence to Stakeboat; the core holds the word until the first read returns (R128, R150). -/
def waitfWord : WordMeaning := fun k seat p w s =>
  let a := operandA p.regs w
  let v := operandV p.regs w
  if a % 8 != 0 || bit v 63 then wordFailAt k seat p 1 eFenceValue a s
  else match actCtx s p w with
    | .error (c, e) => wordFailAt k seat p c e a s
    | .ok ctx =>
      if poisonedAt s a 8 then wordFailAt k seat p 1 ePoisonedObject a s else
      let s1 := updProg seat (fun p => { p with
        issuedAt := s.now, deadline := deadlineOf s.now w.imm, park := .waitf w.rd w.soft a, released := false }) s
      stallCore k .unit (registerWait seat a ctx v none s1)

/-- WAITT (R129). DESIGN CHOICE (assumption 95): a relative target wraps modulo 2^64. -/
def waittWord : WordMeaning := fun k seat p w s =>
  let v := operandV p.regs w
  let t := if w.opf % 2 == 1 then (s.now + v.toNat) % 2 ^ 64 else v.toNat
  if t ≤ s.now then advance seat (noteRelease seat p 2 0 false false false s) else parkSeat k seat (.waitt t) s

def barrierWord : WordMeaning := fun k seat p w s =>
  let v := operandV p.regs w
  if 32 ≤ v.toNat then wordFail k seat p 1 eBadOperand s
  else
    let mask := fld v 0 4
    let mem := bit v 4
    if barrierMet s seat p.owner mask mem then advance seat s
    else parkSeat k seat (.barrier mask mem)
      (updProg seat (fun p => { p with issuedAt := s.now, deadline := deadlineOf s.now w.imm }) s)

/-! ### Signalling (R132, R133, R233, R234) -/

/-- Words of a crossing SIGNAL (R234). -/
def signalMsg (s : State) (o : OutRec) (resend : Bool) : List W64 :=
  [w64 (1 + putb resend 4 + put s.ump.incarn 8 8 + put o.dst.toNat 16 16 + put (fld s.stb.xngCfg 0 16) 32 16 + put o.ctx.toNat 48 16),
   w64 o.seq.toNat, w64 o.addr, o.value]


/-- Send a SIGNAL on cx_tx while the link is up, with its XTX record (R237, R238, R359). -/
def sendSignal (o : OutRec) (resend : Bool) (s : State) : State :=
  if s.stb.link != .up then s else
    let s1 := updStb (fun b => { b with
      txq := b.txq ++ [(o.dst, signalMsg s o resend)], sent := satAdd 64 b.sent (if resend then 0 else 1),
      resent := satAdd 64 b.resent (if resend then 1 else 0),
      outs := b.outs.map fun x => if x.dst == o.dst && x.seq == o.seq then
          { x with lastSent := s.now, sentOnce := true, firstSent := if x.sentOnce then x.firstSent else s.now }
        else x }) s
    hangEv islXng 0x04 (put 1 8 4 + ((signalMsg s o resend).headD 0).toNat / 4096 * 4096) <| wakeEv islXng 7 false (some o.ctx)
      [w64 (o.dst.toNat + put s.ump.incarn 16 8 + putb resend 24 + put o.seq.toNat 32 32)] s1

/-- The signal of SIGNALF, and of SIGNALX to the block's own chip. -/
def localSignal (seat : Nat) (p : Prog) (a : Nat) (v : W64) (ctx : CtxId) (s : State) : State :=
  advance seat (issueAt opMaxu a ctx v 0 (.signal p.owner seat v p.pos) islStb (moreReqs p.owner s))

def signalfWord : WordMeaning := fun k seat p w s =>
  let a := operandA p.regs w
  let v := operandV p.regs w
  if a % 8 != 0 || bit v 63 then wordFailAt k seat p 1 eFenceValue a s
  else match actCtx s p w with
    | .error (c, e) => wordFailAt k seat p c e a s
    | .ok ctx => localSignal seat p a v ctx s

/-- The context a SIGNALX carries (R133, R145): it need not be live on this chip unless it acts for another context. -/
def signalxWord : WordMeaning := fun k seat p w s =>
  let a := operandA p.regs w
  let v := operandV p.regs w
  let dst := w16 w.imm
  if a % 8 != 0 || bit v 63 then wordFailAt k seat p 1 eFenceValue a s
  else match actCtx s p w with
    | .error (c, e) => wordFailAt k seat p c e a s
    | .ok ctx =>
      if dst == chipId s then localSignal seat p a v ctx s
      else if 4096 ≤ s.stb.outs.length || 256 ≤ (s.stb.outs.filter fun o => o.dst == dst).length then
        stallCore k .order s
      else
        let seq := w32 (s.stb.nextSeq.get dst.toNat)
        let o : OutRec := ⟨dst, seq, p.owner, seat, ctx, a, v, p.pos, false, s.now, s.now⟩
        let s1 := updStb (fun b => { b with nextSeq := b.nextSeq.set dst.toNat (seq.toNat + 1), outs := b.outs ++ [o] }) s
        advance seat (sendSignal o false (moreReqs p.owner s1))

/-! ### Launching (R134 to R137) -/

/-- A launch of a program's own: what R134 says every launch message carries. -/
def progMsg (s : State) (seat : Nat) (p : Prog) (ctx : CtxId) (kind : MsgKind) (group : Nat) : LaunchMsg :=
  let w := s.work? p.owner
  { LaunchMsg.blank kind with
    epoch := (w.map (·.epoch)).getD (epochBit s), replay := p.origin == 2, group := group,
    workClass := (w.map fun w => enWorkClass w.words).getD 0, origin := p.origin, ctx := ctx, seat := seat,
    priority := ctxPriority s ctx, entry := (w.map (·.count)).getD 0, tag := p.tag }

/-- A launch retires once its message has entered the seat's tree; the core holds it while the tree refuses, and while a
group counter is full (R136, R137). -/
def launchOrHold (k seat : Nat) (p : Prog) (m : LaunchMsg) (n : Nat) (s : State) : State :=
  let t := seatTree s seat
  if groupFull s p.owner m.group n || treeRefuses s t then stallCore k .tree s
  else advance seat (enterTree t m (addGroup p.owner m.group n s))

def launchWord : WordMeaning := fun k seat p w s =>
  let a := operandA p.regs w
  let v := operandV p.regs w
  let c := fld v 0 9
  let e := fld v 9 3
  let n := fld v 12 13
  match actCtx s p w with
  | .error (cl, er) => wordFailAt k seat p cl er a s
  | .ok ctx =>
    if 2 ^ 25 ≤ v.toNat || s.build.clusters ≤ c || s.build.engines ≤ e || n < 1 || 4096 < n || a % 64 != 0 then
      wordFailAt k seat p 1 eBadOperand a s
    else
      launchOrHold k seat p { progMsg s seat p ctx .piece (w.opf % 4) with target := c, engine := e, count := n, piece := a } 1 s

def crewlaunchWord : WordMeaning := fun k seat p w s =>
  let a := operandA p.regs w
  let v := operandV p.regs w
  let cr := fld v 0 6
  let e := fld v 6 3
  let n := fld v 9 13
  let stride := fld w.w3 0 32
  match actCtx s p w with
  | .error (cl, er) => wordFailAt k seat p cl er a s
  | .ok ctx =>
    let m := progMsg s seat p ctx .crewPiece (w.opf % 4)
    let crew := crewFor s m.epoch cr
    if 2 ^ 22 ≤ v.toNat || !crew.defined || s.build.engines ≤ e || n < 1 || 4096 < n || a % 64 != 0 || stride % 64 != 0 then
      wordFailAt k seat p 1 eBadOperand a s
    else
      launchOrHold k seat p
        { m with target := cr, engine := e, count := n, piece := a, stride := stride / 64, aligned := crew.aligned }
        crew.members.length s

/-- TREE_ACCEPT (R136, R149): the root takes the held launch, and the stalled core retires it. -/
def treeAcceptOp (k : Nat) (s : State) : State :=
  let c := s.core k
  if !(computeUp s) || c.st != .stall || c.stall != .tree then s else
  match running s k with
  | none => s
  | some (seat, p) => match wordAtPc s k p with
    | none => s
    | some (_, w) =>
      let s1 := runCore k s
      if w.op == 0x30 then launchWord k seat p w s1
      else if w.op == 0x31 then crewlaunchWord k seat p w s1
      else s1
def execTreeAccept (k : Nat) (s : State) : Out := .next (treeAcceptOp k s)

/-! ### References (R141, R142) -/

/-- A reference operation that Rack answers at once; a failure is class 1. -/
def rackWord (k seat : Nat) (p : Prog) (res : Except (BitVec 16) State) (h : W32) (s : State) : State :=
  match res with
  | .ok s' => advance seat s'
  | .error c => ownerError p.owner 1 { wordRec s k seat p c with info := h.toNat } s

/-- References a word names: imm16, where 0 means 1. -/
def refCount (w : CWord) : Nat := if w.imm = 0 then 1 else w.imm

def refaddWord : WordMeaning := fun k seat p w s =>
  let h := w32 (operandV p.regs w).toNat
  let s1 := unreplayable p.owner s
  rackWord k seat p (refAddOp (some p.ctx) h (refCount w) s1) h s1

/-- Put off a drop to the entry's completion (R142): at most 256. -/
def deferDrop (k seat : Nat) (p : Prog) (d : Drop) (s : State) : State :=
  let n := ((s.work? p.owner).map fun w => w.drops.length).getD 0
  if 256 ≤ n then wordFail k seat p 1 eDeferLimit s
  else advance seat (updWork p.owner (fun w => { w with drops := w.drops ++ [d] }) s)

def refsubWord : WordMeaning := fun k seat p w s =>
  let h := w32 (operandV p.regs w).toNat
  if w.opf % 2 == 1 then
    let s1 := unreplayable p.owner s
    rackWord k seat p (refSubOp (some p.ctx) h (refCount w) s1) h s1
  else deferDrop k seat p ⟨h, refCount w, false⟩ s

def freeWord : WordMeaning := fun k seat p w s =>
  let h := w32 (operandV p.regs w).toNat
  if w.opf % 2 == 1 then
    let s1 := unreplayable p.owner s
    rackWord k seat p (freeOp (some p.ctx) h s1) h s1
  else deferDrop k seat p ⟨h, 1, true⟩ s

/-! ### ENQUEUE (R167, R168) and MARK (R144) -/

/-- The level of the ring a program runs for; Heat programs stand at level 0. -/
def ownerLevel (s : State) (o : Owner) : Nat :=
  match o with
  | .entry r _ => (s.ring r).level
  | .heat _ _ => 0

/-- Steps 1 and 2 of R167: the class and code of the first that fails, or the context the image is read with. -/
def enqueueCheck (s : State) (p : Prog) (w : CWord) (r : Nat) : Except (Nat × BitVec 16) CtxId :=
  let g := s.ring r
  if s.build.rings ≤ r || g.st == .unbound || !g.ringDev || g.level == 0 then .error (1, eEnqueueRing)
  else if g.level ≤ ownerLevel s p.owner then .error (1, eEnqueueLevel)
  else match actCtx s p w with
    | .error e => .error e
    | .ok ctx => if g.ctx != p.ctx && !(ctxPriv s p.ctx) then .error (3, ePrivilege) else .ok ctx

def enqueueWord : WordMeaning := fun k seat p w s =>
  let a := operandA p.regs w
  let v := operandV p.regs w
  if a % 64 != 0 || 4096 ≤ v.toNat then wordFailAt k seat p 1 eBadOperand a s
  else match enqueueCheck s p w v.toNat with
    | .error (c, e) => wordFailAt k seat p c e a s
    | .ok ctx =>
      if poisonedAt s a 64 then wordFailAt k seat p 1 ePoisonedObject a s else
      stallCore k .unit (issueNm false a ctx [] 64 seat (.enqImage k p.owner) islMar (moreReqs p.owner s))

/-- A ring fed by ENQUEUE is full (R167 step 4). -/
def enqFull (g : Ring) : Bool :=
  let cap := if g.quota = 0 then 2 ^ g.log2 else min g.quota (2 ^ g.log2)
  cap ≤ (g.tail - g.head).toNat

/-- The entry ENQUEUE writes (R167 step 6): own, ctx_id, seq and check set, every other field as read. -/
def enqEntry (g : Ring) (c : Count) (img : List W64) : List W64 :=
  let w0 := setFld (setFld (wordAt img 0) 0 1 1) 32 16 g.ctx.toNat
  let l := [w0, wordAt img 1, wordAt img 2, seqOf g c, wordAt img 4, wordAt img 5, wordAt img 6, wordAt img 7]
  l.set 7 (setFld (wordAt img 7) 0 16 (entryCrc l))

/-- The word a stalled core still holds for an owner, once what it has waited for is there. -/
def heldWord (s : State) (k : Nat) (o : Owner) : Option (Nat × Prog × CWord) :=
  match running s k with
  | none => none
  | some (seat, p) =>
    if p.owner == o && (s.core k).st == .stall && (s.core k).stall == .unit
    then (wordAtPc s k p).map fun x => (seat, p, x.2) else none

/-- A program has retired an ENQUEUE: its entry's state records it, and the entry is not replayed (R174, R397). -/
def retiredEnqueue (o : Owner) (s : State) : State := updWork o (fun w => { w with enqueued := true, nonReplayable := true }) s

/-- Steps 3 to 7 of R167 once the image has been read. DESIGN CHOICE (assumption 100): the ring's checks are made again here, for
a ring that UNBIND or another BIND has changed while the image was read. -/
def enqImageDone (k : Nat) (o : Owner) (img : List W64) (err : RespErr) (s0 : State) : State :=
  let s := lessReqs o s0
  match heldWord s k o with
  | none => settleOwner o s
  | some (seat, p, w) =>
      let s1 := runCore k s
      let a := operandA p.regs w
      let r := (operandV p.regs w).toNat
      let g := s1.ring r
      if err != .ok then wordFailAt k seat p 1 eEnqueueWrite a s1
      else if g.st == .unbound || g.level == 0 then wordFailAt k seat p 1 eEnqueueRing a s1
      else if enqFull g then
        (if w.soft then advance seat (updProg seat (fun p => { p with f := true }) (retiredEnqueue p.owner s1))
         else wordFailAt k seat p 1 eEnqueueFull a s1)
      else
        let c := g.tail
        let s2 := updRing r (fun g => { g with tail := g.tail + 1 }) (unreplayable p.owner s1)
        let b := wordsToBytes (enqEntry g c img)
        stallCore k .unit (issueNm true (entryAddr g c) g.ctx b 64 63 (.enqWrite k p.owner r c) islMar (moreReqs p.owner s2))

/-- Step 8 of R167, or R168 when the write has failed: count c becomes a MARKER with no fence. -/
def enqWriteDone (k : Nat) (o : Owner) (r : Nat) (c : Count) (err : RespErr) (s : State) : State :=
  let s1 := lessReqs o s
  let s2 := if err == .ok then s1 else updRing r (fun g => { g with holes := g.holes ++ [c] }) s1
  let s3 := match heldWord s2 k o with
    | some (seat, p, w) =>
      let s4 := runCore k s2
      if err == .ok then advance seat (updProg seat (fun p => { p with f := if w.soft then false else p.f }) (retiredEnqueue o s4))
      else wordFail k seat p 1 eEnqueueWrite s4
    | none => s2
  settleOwner o (lookNow r s3)

def markWord : WordMeaning := fun k seat p w s =>
  let tag := if w.opf % 2 == 1 then fld w.w1 0 48 else p.tag
  let s1 := updProg seat (fun p => { p with tag := tag }) s
  let s2 := if w.opf / 2 % 2 == 1 then s1 else
    wakeEv (islCox k) 4 true (some p.ctx)
      [w64 (put seat 0 6 + put p.ctx.toNat 6 16 + put p.pc 22 24), w64 tag, operandV p.regs w] s1
  advance seat s2

/-! ### The rows -/

def execWNop (k : Nat) (s : State) : Out := .next (runWord 0x00 false nopWord k s)
def execWEnd (k : Nat) (s : State) : Out := .next (runWord 0x01 false endWord k s)
def execWJump (k : Nat) (s : State) : Out := .next (runWord 0x02 false jumpWord k s)
def execWBranch (k : Nat) (s : State) : Out := .next (runWord 0x03 false branchWord k s)
def execWLoop (k : Nat) (s : State) : Out := .next (runWord 0x04 false loopWord k s)
def execWCallc (k : Nat) (s : State) : Out := .next (runWord 0x05 false callcWord k s)
def execWRetc (k : Nat) (s : State) : Out := .next (runWord 0x06 false retcWord k s)
def execWSetc (k : Nat) (s : State) : Out := .next (runWord 0x10 false setcWord k s)
def execWAddc (k : Nat) (s : State) : Out := .next (runWord 0x11 false addcWord k s)
def execWLoadc (k : Nat) (s : State) : Out := .next (runWord 0x12 true loadcWord k s)
def execWStorec (k : Nat) (s : State) : Out := .next (runWord 0x13 true storecWord k s)
def execWAtomc (k : Nat) (s : State) : Out := .next (runWord 0x14 true atomcWord k s)
def execWWaitf (k : Nat) (s : State) : Out := .next (runWord 0x20 false waitfWord k s)
def execWSignalf (k : Nat) (s : State) : Out := .next (runWord 0x21 false signalfWord k s)
def execWSignalx (k : Nat) (s : State) : Out := .next (runWord 0x22 true signalxWord k s)
def execWWaitt (k : Nat) (s : State) : Out := .next (runWord 0x23 false waittWord k s)
def execWLaunch (k : Nat) (s : State) : Out := .next (runWord 0x30 false launchWord k s)
def execWCrewlaunch (k : Nat) (s : State) : Out := .next (runWord 0x31 false crewlaunchWord k s)
def execWBarrier (k : Nat) (s : State) : Out := .next (runWord 0x32 false barrierWord k s)
def execWFree (k : Nat) (s : State) : Out := .next (runWord 0x51 false freeWord k s)
def execWRefadd (k : Nat) (s : State) : Out := .next (runWord 0x52 false refaddWord k s)
def execWRefsub (k : Nat) (s : State) : Out := .next (runWord 0x53 false refsubWord k s)
def execWEnqueue (k : Nat) (s : State) : Out := .next (runWord 0x80 false enqueueWord k s)
def execWMark (k : Nat) (s : State) : Out := .next (runWord 0x90 false markWord k s)
def execWHeatend (k : Nat) (s : State) : Out := .next (runWord 0xA0 false heatendWord k s)

/-! ### Releases by time (R128, R129) -/

/-- WAITT_RELEASE (R129): the target time has been reached. -/
def waittReleaseOp (seat : Nat) (s : State) : State :=
  match s.prog? seat with
  | some p => match p.park with
    | .waitt t =>
      if !p.released && (s.seat seat).st == .wait && t ≤ s.now && computeUp s
      then releaseProg seat (noteRelease seat p 2 0 false false true s) else s
    | _ => s
  | none => s
def execWaittRelease (seat : Nat) (s : State) : Out := .next (waittReleaseOp seat s)

/-- The wait of a seat has run into its timeout: the command fails with E_WAIT_TIMEOUT (R128), a WAITF with its
fence's address (R378). -/
def failWait (seat : Nat) (p : Prog) (s : State) : State :=
  let k := (coreOf s seat).getD 0
  match p.park with
  | .waitf _ _ a => wordFailAt k seat p 1 eWaitTimeout a s
  | _ => wordFail k seat p 1 eWaitTimeout s

/-- WAIT_TIMEOUT (R128, R218): a timeout detected while a read for the waiter is in flight waits for that read. -/
def waitTimeoutOp (seat : Nat) (s : State) : State :=
  match s.prog? seat with
  | none => s
  | some p =>
    match p.deadline with
    | none => s
    | some t =>
      if s.now < t || p.released || !(computeUp s) then s else
      match p.park with
      | .waitf _ _ _ =>
        if readOut s (s.stb.waiters.get seat) then updWaiter seat (fun w => { w with timedOut := true }) s
        else failWait seat p s
      | .barrier _ _ => failWait seat p s
      | _ => s
def execWaitTimeout (seat : Nat) (s : State) : Out := .next (waitTimeoutOp seat s)

end Sys2Proof.Machine
end

