-- ==== Sys2Proof/Machine/Crossing.lean ====
section
/-! DEFINITION. Crossing messages to and from other chips (R233 to R240). -/
namespace Sys2Proof.Machine

/-! ### Sending -/

/-- The hang event of a crossing message (R387). -/
def crossHang (code : Nat) (m : List W64) (s : State) : State :=
  let w := (wordAt m 0).toNat
  hangEv islXng code (put (w % 16) 8 4 + w / 4096 * 4096) s

/-- Send a message that answers a stream, or keep it while the link is down (R238). -/
def sendAnswer (dst : BitVec 16) (m : List W64) (s : State) : State :=
  if s.stb.link == .up then crossHang 0x04 m (updStb (fun b => { b with txq := b.txq ++ [(dst, m)] }) s)
  else updStb (fun b => { b with owedAcks := b.owedAcks ++ [(dst, m)] }) s

/-- Word 0 of a message from this chip (R234). -/
def crossWord0 (s : State) (kind incarn : Nat) (dst : BitVec 16) : W64 :=
  w64 (kind + put incarn 8 8 + put dst.toNat 16 16 + put (chipId s).toNat 32 16)

/-- Send the ACK of a run (R236). -/
def sendAck (r : RxRun) (s : State) : State :=
  sendAnswer r.src [crossWord0 s 2 r.incarn r.src, w64 r.last.toNat, w64 r.first.toNat, 0]
    (updStb (fun b => { b with runs := b.runs.filter fun x => !(x.src == r.src && x.incarn == r.incarn) }) s)
/-- Send a REJECT (R235). -/
def sendReject (src : BitVec 16) (incarn : Nat) (seq : W32) (code : BitVec 16) (s : State) : State :=
  sendAnswer src [crossWord0 s 3 incarn src, w64 (seq.toNat + put code.toNat 32 16), 0, 0] s

/-! ### Performing a received SIGNAL (R235, R236) -/

/-- Take a performed seq into its stream's run: an ACK goes when the run reaches 32, or when the seq does not follow. -/
def performed (src : BitVec 16) (incarn : Nat) (seq : W32) (s : State) : State :=
  let start (s : State) : State :=
    updStb (fun b => { b with runs := b.runs ++ [⟨src, incarn, seq, seq, s.now⟩] }) s
  match s.stb.runs.find? fun x => x.src == src && x.incarn == incarn with
  | none => start s
  | some r =>
    if seq == r.last + 1 then
      let r' : RxRun := { r with last := seq }
      if (r'.last - r'.first).toNat + 1 = 32 then sendAck r' s
      else updStb (fun b => { b with
        runs := b.runs.map fun x => if x.src == src && x.incarn == incarn then r' else x }) s
    else start (sendAck r s)

/-- The response to a received SIGNAL's MAXU (R235). -/
def remoteDone (src : BitVec 16) (incarn : Nat) (seq : W32) (ctx : CtxId) (value : W64) (addr : Nat) (err : RespErr)
    (old : W64) (s : State) : State :=
  match err with
  | .ok => performed src incarn seq (noteSignal 63 ctx addr value old s)
  | e => sendReject src incarn seq (respCode e) s

/-- A message is of the kind its row names and may transfer now: cx_rx_ready is 0 during a compute reset (R47). -/
def crossTake (kind : Nat) (msg : List W64) (s : State) (go : State → State) : Out :=
  if !s.build.hasCrossing then .fault (.notBuilt "crossing port")
  else if fld (wordAt msg 0) 0 4 != kind || msg.length != 4 then .fault (.portProtocol "cx_rx")
  else if !(computeUp s) then .next s
  else .next (go (crossHang 0x03 msg s))

/-- CROSSING_SIGNAL (R235). -/
def crossingSignalOp (src : BitVec 16) (msg : List W64) (s : State) : State :=
  let w0 := wordAt msg 0
  let seq := w32 (fld (wordAt msg 1) 0 32)
  let incarn := fld w0 8 8
  let ctx : CtxId := w16 (fld w0 48 16)
  let addr := fld (wordAt msg 2) 0 56
  let value := wordAt msg 3
  let s1 := updStb (fun b => { b with received := satAdd 64 b.received 1 }) s
  let s2 := wakeEv islXng 8 false (some ctx)
    [w64 (src.toNat + put incarn 16 8 + putb (bit w0 4) 24 + put seq.toNat 32 32)] s1
  if bit value 63 || addr % 8 != 0 || !(ctxLive s ctx) then sendReject src incarn seq eCrossingRejected s2
  else issueAt opMaxu addr ctx value 0 (.remote src incarn seq ctx value) islStb s2
def execCrossingSignal (src : BitVec 16) (msg : List W64) (s : State) : Out :=
  crossTake 1 msg s (crossingSignalOp src msg)

/-! ### Answers to this chip's SIGNALs -/

/-- Drop one outstanding record: the entry has one request less. -/
def dropRecord (o : OutRec) (s : State) : State :=
  seatEvent o.seat o.owner (lessReqs o.owner (leaveOuts (fun x => x.dst == o.dst && x.seq == o.seq) s))

/-- CROSSING_ACK (R235): every seq from first to last of the stream is done; another incarnation's ACK is discarded. -/
def crossingAckOp (src : BitVec 16) (msg : List W64) (s : State) : State :=
  let last := w32 (fld (wordAt msg 1) 0 32)
  let first := w32 (fld (wordAt msg 2) 0 32)
  if fld (wordAt msg 0) 8 8 != s.ump.incarn % 256 then s
  else each (s.stb.outs.filter fun o => o.dst == src && (o.seq - first).toNat ≤ (last - first).toNat) (fun s o => dropRecord o s) s
def execCrossingAck (src : BitVec 16) (msg : List W64) (s : State) : Out := crossTake 2 msg s (crossingAckOp src msg)

/-- The issuing entry of a record fails with class 1 (R235, R237). -/
def failRecord (o : OutRec) (code : BitVec 16) (info : Nat) (s : State) : State :=
  let s1 := leaveOuts (fun x => x.dst == o.dst && x.seq == o.seq) s
  ownerError o.owner 1 { LogRec.zero with
    code := code, island := islStb, seat := o.seat, ctx := o.ctx, addr := o.addr, pc := o.pos.pc, tag := o.pos.tag, info := info } (lessReqs o.owner s1)

/-- CROSSING_REJECT (R235); one that answers another incarnation's stream names no record. -/
def crossingRejectOp (src : BitVec 16) (msg : List W64) (s : State) : State :=
  let seq := w32 (fld (wordAt msg 1) 0 32)
  let s1 := updStb (fun b => { b with rejected := satAdd 64 b.rejected 1 }) s
  if fld (wordAt msg 0) 8 8 != s.ump.incarn % 256 then s1
  else match s.stb.outs.find? fun o => o.dst == src && o.seq == seq with
    | some o => failRecord o eCrossingRejected (fld (wordAt msg 1) 32 16) s1
    | none => s1
def execCrossingReject (src : BitVec 16) (msg : List W64) (s : State) : Out :=
  crossTake 3 msg s (crossingRejectOp src msg)

/-! ### By time (R236, R237) -/

/-- ACK_FLUSH (R236): 1 µs after the run's first SIGNAL was performed. -/
def ackFlushOp (src : BitVec 16) (incarn : BitVec 8) (s : State) : State :=
  match s.stb.runs.find? fun x => x.src == src && x.incarn == incarn.toNat with
  | some r => if computeUp s && usTu ≤ s.now - r.since then sendAck r s else s
  | none => s
def execAckFlush (src : BitVec 16) (incarn : BitVec 8) (s : State) : Out := .next (ackFlushOp src incarn s)

/-- RESEND (R237). -/
def resendOp (dst : BitVec 16) (seq : W32) (s : State) : State :=
  match s.stb.outs.find? fun o => o.dst == dst && o.seq == seq with
  | some o =>
    if computeUp s && o.sentOnce && max 10 (fld s.stb.xngCfg 16 16) * usTu ≤ s.now - o.lastSent then sendSignal o true s else s
  | none => s
def execResend (dst : BitVec 16) (seq : W32) (s : State) : Out := .next (resendOp dst seq s)

/-- GIVE_UP (R237). -/
def giveUpOp (dst : BitVec 16) (seq : W32) (s : State) : State :=
  match s.stb.outs.find? fun o => o.dst == dst && o.seq == seq with
  | some o =>
    if computeUp s && o.sentOnce && max 1 (fld s.stb.xngCfg 32 16) * msTu ≤ s.now - o.firstSent
    then failRecord o eCrossingLost 0 s else s
  | none => s
def execGiveUp (dst : BitVec 16) (seq : W32) (s : State) : Out := .next (giveUpOp dst seq s)

/-! ### The loss of the link (R238) -/

/-- LINK_DOWN: cx_link_ok falls to 0. Of the messages still queued the answers stay owed; the SIGNALs are sent again with their
records. -/
def linkDownOp (s : State) : State :=
  if !s.stb.linkOk || s.ump.rst == .dead then s else
    logRec .nothing { LogRec.zero with code := eLinkLost, island := islXng }
      (updStb (fun b => { b with
        linkOk := false, link := .hold, linkAt := s.now, txq := [],
        owedAcks := b.txq.filter (fun m => fld (wordAt m.2 0) 0 4 == 2 || fld (wordAt m.2 0) 0 4 == 3) ++ b.owedAcks }) s)
def execLinkDown (s : State) : Out :=
  if s.build.hasCrossing then .next (linkDownOp s) else .fault (.notBuilt "crossing port")

/-- LINK_RESET: loss_hold_us after the loss. -/
def linkResetOp (s : State) : State :=
  if s.stb.link == .hold && computeUp s && fld s.stb.xngCfg 48 16 * usTu ≤ s.now - s.stb.linkAt then
    let m := [crossWord0 s 4 0 (chipId s), 0, 0, 0]
    crossHang 0x04 m (updStb (fun b => { b with link := .resetSent, txq := b.txq ++ [(chipId s, m)] }) s)
  else s
def execLinkReset (s : State) : Out := .next (linkResetOp s)

/-- Records in stream order. -/
def streamOrder (s : State) : List OutRec :=
  sortBy (fun a b => if a.dst != b.dst then a.dst.toNat < b.dst.toNat else a.seq.toNat < b.seq.toNat) s.stb.outs
/-- LINK_UP: cx_link_ok returns to 1; outstanding records are sent again and owed answers follow. During a compute reset, which
discards both (R239), Stakeboat sends nothing (R46). -/
def linkUpOp (s : State) : State :=
  let s1 := updStb (fun b => { b with linkOk := true, link := .up }) s
  if s.stb.link != .resetSent || !(computeUp s) then s1 else
    let s2 := each (streamOrder s1) (fun s o => sendSignal o o.sentOnce s) s1
    each s2.stb.owedAcks (fun s a => sendAnswer a.1 a.2 s) (updStb (fun b => { b with owedAcks := [] }) s2)
def execLinkUp (s : State) : Out :=
  if !s.build.hasCrossing then .fault (.notBuilt "crossing port")
  else if s.stb.link == .hold then .fault (.portProtocol "cx_link_ok")
  else powered s (if s.ump.rst == .dead then s else linkUpOp s)

/-- A queued message transfers on cx_tx (R21). DESIGN CHOICE (assumption 104): when the link layer accepts one is not the block's to
say, so a free value says whether the oldest goes out now. -/
def transferTx (s : State) : State :=
  match s.stb.txq with
  | [] => s
  | m :: rest =>
    if computeUp s && s.freeValue 31 % 2 = 1 then updStb (fun b => { b with txq := rest, tx := b.tx ++ [m] }) s.nextFree
    else s.nextFree

end Sys2Proof.Machine
end

