-- ==== Sys2Proof/Machine/Pace.lean ====
section
/-! DEFINITION. Stroke's part in presenting a command: loads, caps, buckets, permission and stagger (R335 to R345). -/
namespace Sys2Proof.Machine

def updStk (f : Stk → Stk) (s : State) : State := { s with stk := f s.stk }

/-- Stroke paces: enabled in a build with Stroke (R346), outside a compute reset. -/
def stkOn (s : State) : Bool := bit s.stk.cfg 0 && s.build.hasStroke && computeUp s

/-- The weight of an engine (R335, R425): that of its class in the table in force. -/
def wuOf (s : State) (c e : Nat) : Nat := s.stk.img.weights.get (s.rig.now.classes.get (c * 8 + e))

/-- An engine presents or runs a command (R335). -/
def engBusy (g : Engine) : Bool := g.presented.isSome || g.running.isSome

/-- L_c (R335). -/
def loadOf (s : State) (c : Nat) : Nat :=
  ((List.range s.build.engines).map fun e => if engBusy ((s.row c).engines.get e) then wuOf s c e else 0).foldl (· + ·) 0
/-- L_total: a Rowlock that State does not list has no busy engine. -/
def loadTotal (s : State) : Nat :=
  ((s.fab.rows.cells.filter fun r => r.1 < s.build.clusters).map fun r => loadOf s r.1).foldl (· + ·) 0

/-- The sum of the weights of a cluster's engines. -/
def clusterWeight (s : State) (c : Nat) : Nat := ((List.range s.build.engines).map (wuOf s c)).foldl (· + ·) 0
/-- w_min (R344). -/
def wMin (s : State) (c : Nat) : Nat :=
  match (List.range s.build.engines).map (wuOf s c) with
  | [] => 0
  | a :: r => r.foldl min a
/-- The thermal node that a cluster heats (R348). -/
def nodeOf (s : State) (c : Nat) : Option Nat :=
  (List.range s.stk.img.nodes).find? fun n => (s.stk.img.node.get n).members.contains c

/-- cap_n in force: floor_n while a used channel is stale (R345), shed while a thermal event lasts (R344). -/
def capNode (s : State) (n : Nat) : Q :=
  let f := Q.ofNat (s.stk.img.node.get n).floor
  if s.stk.stale != [] then f
  else if s.stk.th.effect then
    Q.max f (Q.ofNat (Q.floorNat (Q.div (Q.mul (s.stk.force.caps.get n) (Q.ofNat (8 - fld s.stk.cfg 22 3))) (Q.ofNat 8))))
  else s.stk.force.caps.get n
/-- cap_c in force: held while an over-current event lasts, and the smaller value where more than one applies (R344, R346). -/
def capCluster (s : State) (c : Nat) : Q :=
  let base := match nodeOf s c with
    | some n => Q.div (capNode s n) (Q.ofNat (s.stk.img.node.get n).members.length)
    | none => Q.ofNat (clusterWeight s c)
  let held := Q.ofNat (max (wMin s c) (s.stk.held.get c))
  if s.stk.oc.effect then (if s.stk.th.effect || s.stk.stale != [] then Q.min base held else held) else base

/-- A in force (R344). -/
def allowNow (s : State) : Q := if s.stk.oc.effect then Q.zero else s.stk.force.a
/-- up_c in force (R344). -/
def upNow (s : State) : Q := if s.stk.oc.effect then Q.zero else s.stk.force.up

/-- Buckets at the present time: refilled continuously and capped at burst_c. -/
def refill (s : State) (b : Bucket) : Bucket :=
  let top := Q.ofNat s.stk.img.burst
  let quarter := Q.mk' ((s.now - b.at_ : Nat) : Int) 4
  ⟨Q.min top (Q.add b.up (Q.mul (upNow s) quarter)), Q.min top (Q.add b.down (Q.mul s.stk.force.dn quarter)), s.now⟩
/-- The buckets of a cluster now. -/
def bucketNow (s : State) (c : Nat) : Bucket := refill s (s.stk.buckets.get c)
/-- Bring every bucket up to the present, before a rate or the burst changes. -/
def settleBuckets (s : State) : State :=
  let b := s.stk.buckets
  updStk (fun k => { k with buckets := ⟨refill s b.dflt, b.cells.map fun x => (x.1, refill s x.2)⟩ }) s

/-- Stroke permits engine `e` of cluster `c` to be presented a command (R338). -/
def pacePermits (s : State) (c e : Nat) : Bool :=
  !(stkOn s) || engBusy ((s.row c).engines.get e) ||
  (let w := wuOf s c e
   let l := loadOf s c
   l == 0 || (Q.le (Q.ofNat w) (bucketNow s c).up && Q.le (Q.ofNat (l + w)) (capCluster s c)))
/-- Presenting a command to an idle engine takes min(w, tokens) from the up bucket (R338). -/
def paceTake (c e : Nat) (s : State) : State :=
  if !(stkOn s) || engBusy ((s.row c).engines.get e) then s else
    let b := bucketNow s c
    updStk (fun k => { k with
      buckets := k.buckets.set c { b with up := Q.sub b.up (Q.min (Q.ofNat (wuOf s c e)) b.up) } }) s

/-- A presentation that Stroke delayed since `t` proceeds (R338, R339). -/
def paceCounted (t : Option Nat) (s : State) : State :=
  match t with
  | none => s
  | some t => updStk (fun k => { k with delayed := satAdd 64 k.delayed 1, delayTu := satAdd 64 k.delayTu (s.now - t) }) s

/-- The offset of the member of rank `i` of a crew of `m` (R339). While A is 0 the gap has no bound, and the clamp holds. -/
def staggerOffset (s : State) (c e m i : Nat) : Nat :=
  let w := wuOf s c e
  if !(stkOn s) || !(bit s.stk.cfg 2) || m * w ≤ s.stk.img.crewStep || m ≤ 1 then 0
  else
    let a := allowNow s
    let gap := Q.ceilNat (Q.div (Q.ofNat (4 * w)) a)
    i * (if a.num ≤ 0 || 16384 < (m - 1) * gap then 16384 / (m - 1) else gap)

end Sys2Proof.Machine
end

