-- ==== Sys2Proof/Machine/Sync.lean ====
section
/-! DEFINITION. Sync counters, residency, arrivals and the parked store of a Rowlock (R194, R222 to R231). -/
namespace Sys2Proof.Machine

/-- Fields of an engine-command header (R188). -/
def hClass (w : List W64) : Nat := fld (wordAt w 0) 0 4
def hClassCheck (w : List W64) : Bool := bit (wordAt w 0) 4
def hReplaySafe (w : List W64) : Bool := bit (wordAt w 0) 5
def hHoldBoundary (w : List W64) : Bool := bit (wordAt w 0) 6
def hTrace (w : List W64) : Bool := bit (wordAt w 0) 7
def hWaitCtr (w : List W64) : Nat := fld (wordAt w 0) 8 6
def hWaitKind (w : List W64) : Bool := bit (wordAt w 0) 14
def hWaitValue (w : List W64) : Nat := fld (wordAt w 0) 16 32
def hPostCtr (w : List W64) : Nat := fld (wordAt w 0) 48 6
def hPostInc (w : List W64) : Nat := fld (wordAt w 1) 0 16
def hTag (w : List W64) : Nat := fld (wordAt w 1) 16 48

/-- A command names a sync counter (R192, R194). -/
def namesCtr (w : List W64) : Bool := hWaitCtr w < 48 || hPostCtr w < 48
/-- A wait is met (R223). -/
def waitMet (row : Rowlock) (w : List W64) : Bool := 48 ≤ hWaitCtr w || hWaitValue w ≤ row.sync.get (hWaitCtr w)
/-- A context is held on the cluster (R204). -/
def heldCtx (row : Rowlock) (c : CtxId) : Bool := row.holds.any fun h => h.2.ctx == c

/-- Class 3, E_SYNC_OVERFLOW, against a context (R225), with the tag of the command that posted, if one did (R190). -/
def syncOverflow (c : Nat) (ctx : CtxId) (tag : Nat) (s : State) : State :=
  failContext ctx 3 eSyncOverflow (logRec (ctxWhy s ctx)
    { LogRec.zero with cls := 3, code := eSyncOverflow, island := islRow c, cluster := c, ctx := ctx, tag := tag } s)

/-- Add to a counter of a cluster; past 0xFFFF_FFFF it saturates and the context fails (R225). -/
def addSync (c n inc : Nat) (ctx : CtxId) (tag : Nat) (s : State) : State :=
  let v := (s.row c).sync.get n + inc
  let s1 := updRow c (fun r => { r with sync := r.sync.set n (min v 0xFFFFFFFF) }) s
  if 0xFFFFFFFF < v then syncOverflow c ctx tag s1 else s1

/-- Add a parked arrival to the parked store (R227), or `none` when a 65th entry would be needed. -/
def parkArrival (l : List (CtxId × Nat × Nat)) (ctx : CtxId) (ctr inc : Nat) : Option (List (CtxId × Nat × Nat) × Bool) :=
  match l.find? fun p => p.1 == ctx && p.2.1 == ctr with
  | some (_, _, v) =>
    some (l.map (fun p => if p.1 == ctx && p.2.1 == ctr then (ctx, ctr, min (v + inc) 0xFFFFFFFF) else p), 0xFFFFFFFF < v + inc)
  | none => if l.length < 64 then some (l ++ [(ctx, ctr, inc)], false) else none

/-- One arrival the Rowlock can take, or `none` when it must hold arr_ready at 0 (R226, R228). -/
def takeArrival (c : Nat) (ctx : CtxId) (ctr inc : Nat) (s : State) : Option State :=
  let row := s.row c
  if row.resident == some ctx then some (addSync c ctr inc ctx 0 s)
  else match parkArrival row.parked ctx ctr inc with
    | some (l, ovf) =>
      let s1 := updRow c (fun r => { r with parked := l }) s
      some (if ovf then syncOverflow c ctx 0 s1 else s1)
    | none => none

/-- Arrivals held at the port go in as soon as parked entries free (R228). -/
def drainArrivals (c : Nat) : Nat → State → State
  | 0, s => s
  | fuel + 1, s =>
    match (s.row c).arrWait with
    | [] => refuseEv (islRow c) 9 (s.row c).arrHeld.isSome false (updRow c (fun r => { r with arrHeld := none }) s)
    | (ctx, ctr, inc) :: rest =>
      match takeArrival c ctx ctr inc (updRow c (fun r => { r with arrWait := rest }) s) with
      | some s' => drainArrivals c fuel (updRow c (fun r => { r with arrHeld := some s.now }) s')
      | none => s

/-- A context becomes resident: its parked sums are added in the same cycle (R194, R227), until one of them fails it (R225). -/
def becomeResident (c : Nat) (ctx : CtxId) (s : State) : State :=
  let sums := (s.row c).parked.filter fun p => p.1 == ctx
  let s1 := residentEnds c ctx (updRow c (fun r => { r with resident := some ctx, parked := r.parked.filter fun p => p.1 != ctx }) s)
  drainArrivals c 70 (each sums (fun s p => if (s.row c).resident == some ctx then addSync c p.2.1 p.2.2 ctx 0 s else s) s1)

/-- ARRIVAL (R226, R228): counters 48 to 63 are discarded and logged; during a compute reset all are discarded (R47). -/
def arrivalOp (c : Nat) (ctr : BitVec 6) (inc : BitVec 16) (ctx : CtxId) (s : State) : State :=
  if inReset s then s
  else if 48 ≤ ctr.toNat then
    logRec .nothing { LogRec.zero with code := eBadArrival, island := islRow c, cluster := c, ctx := ctx } s
  else if !(s.row c).arrWait.isEmpty then
    drainArrivals c 70 (updRow c (fun r => { r with arrWait := r.arrWait ++ [(ctx, ctr.toNat, inc.toNat)] }) s)
  else match takeArrival c ctx ctr.toNat inc.toNat s with
    | some s' => s'
    | none => refuseEv (islRow c) 9 false true
        (updRow c (fun r => { r with arrHeld := some s.now, arrWait := [(ctx, ctr.toNat, inc.toNat)] }) s)

/-- ARRIVAL_STALL (R228): a hold of 10 ms raises class 4. -/
def arrivalStallOp (c : Nat) (s0 : State) : State :=
  let s := drainArrivals c 70 s0
  match (s.row c).arrHeld with
  | some t =>
    if 10 * msTu ≤ s.now - t then
      raise4 { LogRec.zero with code := eArrivalStall, island := islRow c, cluster := c } s
    else s
  | none => s

end Sys2Proof.Machine
end

