-- ==== Sys2Proof/Machine/Rowlocks.lean ====
section
/-! DEFINITION. The Rowlocks: launch slots, piece fetch, choosing commands, Catch and Finish, holds (R185 to R205). -/
namespace Sys2Proof.Machine

/-! ### Pieces -/

def State.eng (s : State) (c e : Nat) : Engine := (s.row c).engines.get e
/-- Change one piece of an engine. -/
def updPiece (c e id : Nat) (f : Piece → Piece) (s : State) : State :=
  updEng c e (fun g => { g with pieces := mapFirst (fun p => p.id == id) f g.pieces }) s
/-- The engine class of an engine in an epoch (R206). -/
def engClass (s : State) (c e : Nat) (epoch : Bool) : Nat := (imageFor s epoch).classes.get (c * 8 + e)
/-- A command's tag (R190). -/
def cmdTag (m : LaunchMsg) (w : List W64) : Nat := if hTag w = 0 then m.tag else hTag w

/-- The error a header check gives (R189): `none` when all pass. DESIGN CHOICE (assumption 103): a header that fails several checks
gets the error of the first in the table's order. -/
def headerError (s : State) (c e : Nat) (p : Piece) (w : List W64) : Option (BitVec 16) :=
  if hClassCheck w && hClass w != engClass s c e p.msg.epoch then some eEngineClass
  else if bit (wordAt w 0) 15 || fld (wordAt w 0) 54 10 != 0 then some eBadHeader
  else if (48 ≤ hWaitCtr w && hWaitCtr w ≤ 62) || (48 ≤ hPostCtr w && hPostCtr w ≤ 62) then some eBadHeader
  else if hPostCtr w ≤ 47 && hPostInc w == 0 then some eBadHeader
  else if hHoldBoundary w && (p.first + 1 == p.msg.count || 16 ≤ p.chainRun) then some eBadHeader
  else none

/-- The next command of a piece, when it has been fetched. -/
def nextFetched (p : Piece) : Option Fetched := (p.fetched.find? fun x => x.1 == p.first).map Prod.snd
/-- The next command's words, when it has been fetched, is no error and passes R189. -/
def nextCmd (s : State) (c e : Nat) (p : Piece) : Option (List W64) :=
  if p.cut then none else
  match nextFetched p with
  | some (.cmd w) => if (headerError s c e p w).isNone then some w else none
  | _ => none

/-- The rest of a piece is dropped (R187, R198, R203): counted, and no command of it is presented any more. -/
def cutPiece (c e id : Nat) (err : Option (Nat × BitVec 16)) (s : State) : State :=
  match (s.eng c e).pieces.find? fun p => p.id == id with
  | none => s
  | some p =>
    if p.cut then s else
    updRow c (fun r => { r with dropped := satAdd 64 r.dropped (p.msg.count - p.first) })
      (updPiece c e id (fun p => { p with
        cut := true, fetched := [], due := none, err := if p.err.isSome then p.err else err }) s)

/-- An error record about a command or piece of an engine. -/
def pieceRec (s : State) (c e : Nat) (m : LaunchMsg) (cls : Nat) (code : BitVec 16) : LogRec :=
  let r : LogRec := { LogRec.zero with
    cls := cls, code := code, island := islRow c, seat := m.seat, engine := e, cluster := c, ctx := m.ctx, tag := m.tag,
    count := m.entry }
  match s.workAt m.seat m.entry with
  | some w => ownerRec w.owner s r
  | none => r
/-- What a logged error of a piece leaves pending (R380). -/
def pieceWhy (s : State) (m : LaunchMsg) (cls : Nat) : PendWhy :=
  match cls, s.workAt m.seat m.entry with
  | 1, some w => .work w.owner
  | 2, some w => match w.owner with | .entry r _ => .ring r | .heat l _ => .loop l
  | 3, some w => ctxWhy s w.ctx
  | _, _ => .nothing

/-- The next command of an active piece is an error of its chunk or fails a header check: the piece ends there (R187,
R189) and Umpire logs it, with the command's tag when its header has come (R190). -/
def checkFront (c e : Nat) (s : State) (p : Piece) : State :=
  if !p.active || p.cut then s else
  let bad : Option (Nat × BitVec 16 × Nat) := match nextFetched p with
    | some (.bad cls code) => some (cls, code, p.msg.tag)
    | some (.cmd w) => (headerError s c e p w).map fun code => (1, code, cmdTag p.msg w)
    | none => none
  match bad with
  | none => s
  | some (cls, code, tag) =>
    cutPiece c e p.id (some (cls, code))
      (logRec (pieceWhy s p.msg cls) { pieceRec s c e p.msg cls code with addr := p.addr + 64 * p.first, tag := tag } s)

/-- A piece is presented or running on the engine. -/
def pieceBusy (g : Engine) (id : Nat) : Bool :=
  (match g.presented with | some x => x.piece == id && !x.fill | none => false) ||
  (match g.running with | some x => x.piece == id && !x.fill | none => false)
/-- A piece has nothing left: every command has reached its Finish or has been dropped before its Catch (R199). -/
def pieceDone (g : Engine) (p : Piece) : Bool := (p.cut || p.first == p.msg.count) && !(pieceBusy g p.id)

/-- Report a finished piece (R199); its slot frees. -/
def reportPiece (c e : Nat) (p : Piece) (s : State) : State :=
  let s1 := updEng c e (fun g => { g with
    pieces := g.pieces.filter (fun x => x.id != p.id),
    chain := if g.chain == some p.id then none else g.chain }) s
  updRow c (fun r => { r with
    reports := r.reports ++ [reportOf p] }) s1

/-! ### Activation (R186, R191) -/

/-- A piece of the seat is active on the engine. -/
def seatActive (g : Engine) (seat : Nat) : Bool := g.pieces.any fun p => p.active && p.msg.seat == seat
/-- Active pieces of an engine. -/
def activePieces (g : Engine) : List Piece := g.pieces.filter (·.active)

/-- A chunk of a piece becomes due. -/
def makeDue (c e id : Nat) (s : State) : State :=
  let n := (s.row c).nextDue
  updRow c (fun r => { r with nextDue := n + 1 })
    (updPiece c e id (fun p => { p with due := some n, dueSince := some s.now }) s)

/-- Make a piece active (R191): its next chunk becomes due unless it has been asked for. -/
def activatePiece (c e : Nat) (p : Piece) (s : State) : State :=
  let s1 := updPiece c e p.id (fun p => { p with active := true, activeAt := s.now, gaveUp := false, waitSince := none }) s
  if p.due.isNone && p.asked < p.msg.count && !p.cut then makeDue c e p.id s1 else s1

/-- Make the earliest-arrived eligible pieces active, four at most (R191). -/
def activateAll (c e : Nat) : Nat → State → State
  | 0, s => s
  | fuel + 1, s =>
    let g := s.eng c e
    if 4 ≤ (activePieces g).length then s else
    match g.pieces.find? fun p => !p.active && !(seatActive g p.msg.seat) with
    | some p => activateAll c e fuel (activatePiece c e p s)
    | none => s

/-! ### Readiness (R184, R192, R194) -/

/-- The offset that staggers a piece now: Stroke that is off staggers nothing (R339, R346). -/
def offsetNow (s : State) (p : Piece) : Nat := if stkOn s then p.offset else 0
/-- The first instant at which a piece's first command may be presented: an aligned crew's start (R184) with the member's stagger,
or the receipt with it (R339). -/
def dueAt (s : State) (p : Piece) : Nat := p.startAt.getD p.recvAt + offsetNow s p
/-- A piece's next command may be presented as far as its crew's start goes (R184, R339). -/
def startOk (s : State) (p : Piece) : Bool := p.first != 0 || dueAt s p ≤ s.now

/-- The next command of a piece is ready (R192), its crew's start left out. A chain goes on through a hold (R204), and no hold
applies to a piece of Slide's (R324). -/
def readyBut (s : State) (c e : Nat) (p : Piece) (chained : Bool) : Option (List W64) :=
  match nextCmd s c e p with
  | none => none
  | some w =>
    let row := s.row c
    if (chained || p.msg.origin == 1 || !(heldCtx row p.msg.ctx)) && (!(namesCtr w) || row.resident == some p.msg.ctx) && waitMet row w
    then some w else none
/-- The next command of a piece is ready. -/
def readyCmd (s : State) (c e : Nat) (p : Piece) (chained : Bool) : Option (List W64) :=
  if startOk s p then readyBut s c e p chained else none

/-- The order in which select takes candidates (R192). -/
def selectBefore (a b : Piece) : Bool :=
  if a.msg.priority != b.msg.priority then b.msg.priority < a.msg.priority
  else match a.lastCatch, b.lastCatch with
    | none, none => a.id < b.id
    | none, some _ => true
    | some _, none => false
    | some x, some y => if x != y then x < y else a.id < b.id

/-- select(e) of R192. -/
def selectCmd (s : State) (c e : Nat) : Option (Piece × List W64) :=
  let g := s.eng c e
  match g.chain with
  | some id => match g.pieces.find? fun p => p.id == id with
    | some p => (readyCmd s c e p true).map fun w => (p, w)
    | none => none
  | none =>
    let cands := (activePieces g).filter fun p => (readyCmd s c e p false).isSome
    match best selectBefore cands with
    | some p => (readyCmd s c e p false).map fun w => (p, w)
    | none => none

/-- The context has failed or is being torn down (R57). -/
def ctxEnded (s : State) (c : CtxId) : Bool :=
  (slotOf s c).any fun i => (s.slot i).st == .failed || (s.slot i).st == .draining

/-- The context that becomes resident while none is (R194): the first next command, engines ascending, that names a
counter and whose context is not held (R230). DEDUCED (assumption 99): a context that has failed or is torn down claims no
residency, for its failure ends it. -/
def residencyClaim (s : State) (c : Nat) : Option CtxId :=
  let row := s.row c
  (List.range s.build.engines).findSome? fun e =>
    (sortBy selectBefore (activePieces (s.eng c e))).findSome? fun p =>
      match nextCmd s c e p with
      | some w => if namesCtr w && !(heldCtx row p.msg.ctx) && !(ctxEnded s p.msg.ctx) then some p.msg.ctx else none
      | none => none

/-! ### What a Rowlock does after any change -/

/-- Note since when the next command of each active piece has waited for its wait (R193). -/
def noteWaits (c e : Nat) (s : State) : State :=
  let row := s.row c
  let note (p : Piece) : Piece :=
    match nextCmd s c e p with
    | some w => { p with waitSince := if p.active && !(waitMet row w) then some (p.waitSince.getD s.now) else none }
    | none => { p with waitSince := none }
  updEng c e (fun g => { g with pieces := g.pieces.map note }) s

/-- Note since when the first command of each active piece has waited for its crew's start alone (R184, R339). -/
def noteReady (c e : Nat) (s : State) : State :=
  let note (p : Piece) : Piece := { p with
    readySince := if p.active && p.first == 0 && (readyBut s c e p false).isSome then some (p.readySince.getD s.now) else none }
  updEng c e (fun g => { g with pieces := g.pieces.map note }) s

/-- Note since when Stroke holds back a presentation (R338): a command that select would return on an idle engine and that has no
permission. -/
def notePace (c : Nat) (s : State) (e : Nat) : State :=
  let g := s.eng c e
  if !(stkOn s) || !(g.st == .idle || g.st == .run) || g.presented.isSome || g.preReq then s else
  match selectCmd s c e with
  | none => s
  | some (p, _) =>
    if pacePermits s c e then s
    else updPiece c e p.id (fun p => { p with pacedSince := some (p.pacedSince.getD s.now) }) s

/-- Since when Stroke has held back a piece's next command: its stagger holds back a first command that is ready (R339). -/
def pacedFrom (s : State) (p : Piece) : Option Nat :=
  match p.readySince with
  | none => p.pacedSince
  | some r =>
    let t := max r (p.startAt.getD p.recvAt)
    if p.first == 0 && t < dueAt s p then some t else p.pacedSince

/-- Report every finished piece of an engine. -/
def reportDone (c e : Nat) : Nat → State → State
  | 0, s => s
  | fuel + 1, s =>
    let g := s.eng c e
    match g.pieces.find? fun p => pieceDone g p with
    | some p => reportDone c e fuel (reportPiece c e p s)
    | none => s

/-- One engine: activate, check the fronts, report. -/
def settleEngine (c : Nat) (s : State) (e : Nat) : State :=
  let s1 := activateAll c e 5 s
  let s2 := each (s1.eng c e).pieces (checkFront c e) s1
  notePace c (noteReady c e (noteWaits c e (activateAll c e 5 (reportDone c e 64 s2)))) e

/-- A running command's context is held and no chain is set: pre-empt (R204, R205). -/
def holdEngine (c : Nat) (s : State) (e : Nat) : State :=
  let g := s.eng c e
  match g.running with
  | some r =>
    if g.st == .run && g.chain.isNone && g.presented.isNone && r.msg.origin != 1 && heldCtx (s.row c) r.msg.ctx then
      moveEng c e (fun g => { g with st := .preempt, preReq := true, preSince := s.now }) s
    else s
  | none => s

/-- No engine of the cluster is running or presenting a command of a held context (R204); Slide's own are no such commands (R324). -/
def holdQuiet (s : State) (c : Nat) (ctx : CtxId) : Bool :=
  (List.range s.build.engines).all fun e =>
    let g := s.eng c e
    (match g.running with | some r => r.msg.ctx != ctx || r.msg.origin == 1 | none => true) &&
    (match g.presented with | some r => r.msg.ctx != ctx || r.msg.origin == 1 | none => true)

/-- The engines of a cluster that hold anything. -/
def busyEngines (s : State) (c : Nat) : List Nat :=
  ((s.row c).engines.cells.map Prod.fst).filter fun e => e < s.build.engines

/-- What a Rowlock does on its own after a change. -/
def settleCluster (c : Nat) (s : State) : State :=
  let es := busyEngines s c
  let s1 := each es (settleEngine c) (drainArrivals c 70 s)
  let s2 := if (s1.row c).resident.isNone then
      match residencyClaim s1 c with
      | some ctx => each es (settleEngine c) (becomeResident c ctx s1)
      | none => s1
    else s1
  let s3 := each es (holdEngine c) s2
  updRow c (fun r => { r with holds := r.holds.map fun h =>
    (h.1, { h.2 with complete := h.2.complete || holdQuiet s3 c h.2.ctx }) }) s3

/-- Everything that follows from a change at a Rowlock: its own part, and what the roots of the trees then accept (R179). -/
def settleRow (c : Nat) (s : State) : State :=
  pumpTrees (settleCluster c { s with fab := { s.fab with vacated := s.fab.vacated.filter (· != c) } })

/-- The Rowlocks whose resident or parked entries have gone act on it (R194, R228). -/
def settleVacated (s : State) : State := each s.fab.vacated (fun s c => settleRow c s) s

/-! ### Messages (R177, R182, R185, R203, R204) -/

/-- A message has reached one of its clusters. -/
def deliver (t c : Nat) (f : Flight) (s : State) : State :=
  let s1 := updTree t (fun x => { x with
    stallSince := none,
    flights := (mapFirst (fun y => y == f) (fun y => { y with todo := y.todo.filter (· != c) }) x.flights).filter
      fun y => !y.todo.isEmpty }) s
  hangEv (islRow c) 0x03 (msgDetail t f.msg) s1

/-- A member's rank in a crew (R135, R182). -/
def crewRank (members : List Nat) (c : Nat) : Nat := (members.filter fun m => m < c).length

/-- The instant of an aligned crew's start (R184), from its low 16 bits: a start within the last 2^15 tu has passed. -/
def startInstant (now : Nat) (m : LaunchMsg) : Option Nat :=
  if m.kind != .crewPiece || !m.aligned then none
  else
    let ago := (now + 65536 - m.start % 65536) % 65536
    some (if ago < 32768 then now - ago else now + (65536 - ago))

/-- A piece as it enters its slot, with the offset that staggers its member (R339). -/
def mkPiece (id addr now offset : Nat) (m : LaunchMsg) : Piece where
  id := id
  msg := m
  addr := addr
  active := false
  activeAt := 0
  gaveUp := false
  waitSince := none
  due := none
  asked := 0
  first := 0
  fetched := []
  caught := 0
  finished := 0
  cut := false
  err := none
  unsafeCaught := false
  lastCatch := none
  chainRun := 0
  started := false
  recvAt := now
  startAt := startInstant now m
  readySince := none
  offset := offset
  pacedSince := none
  dueSince := none

/-- A piece message takes a launch slot (R185), with the stagger of its member. -/
def takeSlot (c addr offset : Nat) (m : LaunchMsg) (s : State) : State :=
  let id := (s.row c).nextPiece
  updRow c (fun r => { r with nextPiece := id + 1 })
    (updEng c m.engine (fun g => { g with pieces := g.pieces ++ [mkPiece id addr s.now offset m] }) s)

/-- The message that a tree has brought to a cluster, when it is of a kind and the Rowlock runs. -/
def flightOf (s : State) (t c : Nat) (k : MsgKind) : Option Flight :=
  if !(computeUp s) then none else
  match atRow s t c with
  | some f => if f.msg.kind == k then some f else none
  | none => none

/-- PIECE (R185): full slots refuse the tree's input, and the message waits. -/
def pieceOp (t c : Nat) (s : State) : State :=
  match flightOf s t c .piece with
  | some f => if slotsFull s c f.msg.engine then s else settleRow c (takeSlot c f.msg.piece 0 f.msg (deliver t c f s))
  | none => s
def execPiece (t c : Nat) (s : State) : Out := .next (pieceOp t c s)

/-- CREW_PIECE (R182): the member of rank i reads its piece at the base plus i strides. -/
def crewPieceOp (t c : Nat) (s : State) : State :=
  match flightOf s t c .crewPiece with
  | some f =>
    if slotsFull s c f.msg.engine then s
    else
      let members := (crewFor s f.msg.epoch f.msg.target).members
      let i := crewRank members c
      settleRow c (takeSlot c ((f.msg.piece + i * f.msg.stride * 64) % 2 ^ 56)
        (staggerOffset s c f.msg.engine members.length i) f.msg (deliver t c f s))
  | none => s
def execCrewPiece (t c : Nat) (s : State) : Out := .next (crewPieceOp t c s)

/-- A CANCEL covers a piece (R180, R203). -/
def covered (m : LaunchMsg) (p : Piece) : Bool :=
  if m.byCtx then p.msg.ctx == m.ctx else p.msg.seat == m.seat && p.msg.entry == m.entry

/-- CANCEL (R203): every covered command not yet presented is dropped. -/
def cancelOp (t c : Nat) (s : State) : State :=
  match flightOf s t c .cancel with
  | some f =>
    let s1 := deliver t c f s
    let s2 := each (busyEngines s1 c) (fun s e =>
      each ((s.eng c e).pieces.filter (covered f.msg)) (fun s p => cutPiece c e p.id none s) s) s1
    settleRow c s2
  | none => s
def execCancel (t c : Nat) (s : State) : Out := .next (cancelOp t c s)

/-- HOLD (R204). -/
def holdOp (t c : Nat) (s : State) : State :=
  match flightOf s t c .hold with
  | some f =>
    settleRow c (updRow c (fun r => { r with
      holds := r.holds.filter (fun h => h.1 != f.msg.holdId) ++ [(f.msg.holdId, ⟨f.msg.ctx, false⟩)] }) (deliver t c f s))
  | none => s
def execHold (t c : Nat) (s : State) : Out := .next (holdOp t c s)

/-- RELEASE (R204). -/
def releaseOp (t c : Nat) (s : State) : State :=
  match flightOf s t c .release with
  | some f => settleRow c (updRow c (fun r => { r with holds := r.holds.filter fun h => h.1 != f.msg.holdId }) (deliver t c f s))
  | none => s
def execRelease (t c : Nat) (s : State) : Out := .next (releaseOp t c s)

/-! ### Piece fetch (R186, R187) -/

/-- An engine's buffer room (R186): 128 less the commands asked for and neither presented nor dropped. -/
def bufferRoom (g : Engine) : Nat := 128 - (g.pieces.map fun p => if p.cut then 0 else p.asked - p.first).foldl (· + ·) 0

/-- After the last chunk of an active piece has been asked for, the first chunk of one further piece becomes due (R186). -/
def prefetchNext (c e : Nat) (p : Piece) (s : State) : State :=
  let g := s.eng c e
  match g.pieces.find? fun q => !q.active && !(g.pieces.any fun x => x.active && x.msg.seat == q.msg.seat && x.id != p.id) with
  | some q => if q.asked == 0 && q.due.isNone then makeDue c e q.id s else s
  | none => s

/-- CHUNK_REQUEST (R186): the chunk that has been due longest is asked for when the buffer has room and a tag is free. -/
def chunkRequestOp (c e : Nat) (s : State) : State :=
  let g := s.eng c e
  match best (fun a b => a.due.getD 0 < b.due.getD 0) (g.pieces.filter fun p => p.due.isSome && !p.cut) with
  | none => s
  | some p =>
    let n := min 64 (p.msg.count - p.asked)
    if !(computeUp s) || bufferRoom g < n || 16 ≤ (s.row c).chunks.length then s else
    let tag := leastFree ((s.row c).chunks.map (·.tag)) 16 0
    let a := p.addr + 64 * p.asked
    let s1 := updRow c (fun r => { r with chunks := r.chunks ++ [⟨tag, e, p.id, p.msg.ctx, p.asked, p.asked, n, false, a, s.now, false⟩] }) s
    let s2 := updPiece c e p.id (fun p => { p with asked := p.asked + n, due := none, dueSince := none }) s1
    let s3 := hangEv (islRow c) 0x01 (5 + put tag 4 10 + put (a / 256) 16 48) s2
    if p.asked + n < p.msg.count then (if p.active then makeDue c e p.id s3 else s3)
    else if p.active then prefetchNext c e p s3 else s3
def execChunkRequest (c e : Nat) (s : State) : Out := .next (chunkRequestOp c e s)

/-- One beat of a chunk, for the piece that asked for it. A response error is the error of every command of the chunk that has
not been presented (R187). -/
def takeBeat (c : Nat) (q : ChunkReq) (data : List W64) (err : RespErr) (s : State) : State :=
  match err with
  | .ok => updPiece c q.engine q.piece (fun p => if p.cut then p else { p with fetched := p.fetched ++ [(q.got, .cmd data)] }) s
  | .target => targetLost 5 (islRow c) q.addr q.ctx s
  | e =>
    let bad : Fetched := .bad 1 (respCode e)
    let s1 := if e == .poison then poisonMark q.addr s else s
    updPiece c q.engine q.piece (fun p => if p.cut then p else { p with
      fetched := p.fetched.map (fun x => if q.first ≤ x.1 then (x.1, bad) else x) ++ [(q.got, bad)] }) s1

/-- A chunk request after one beat. -/
def nextBeat (tag : Nat) (err : RespErr) (x : ChunkReq) : ChunkReq :=
  if x.tag == tag then { x with got := x.got + 1, failed := x.failed || err != .ok } else x

/-- RP_RESPONSE (R19, R186, R187): a beat delivers one command; a response error ends the piece at its chunk. -/
def execRpResponse (c tag : Nat) (data : List W64) (last : Bool) (err : RespErr) (s : State) : Out :=
  if s.build.clusters ≤ c then .fault (.notBuilt "cluster") else
  match (s.row c).chunks.find? fun q => q.tag == tag with
  | none => .fault (.portProtocol "rp_rsp")
  | some q =>
    let s1 := updRow c (fun r => { r with
      chunks := if last then r.chunks.filter (fun x => x.tag != tag) else r.chunks.map (nextBeat tag err) }) s
    let s2 := rspEv (islRow c) 5 tag err s1
    if inReset s then .next (if err == .target then targetLost 5 (islRow c) q.addr q.ctx s2 else s2)
    else if q.failed then .next s2
    else .next (settleRow c (takeBeat c q data err s2))

/-! ### Presenting, Catch and Finish (R192 to R198) -/

/-- An engine can be presented a command (R205): it is idle, or runs one, and has none presented and no pre-emption asked. -/
def mayPresent (g : Engine) : Bool := (g.st == .idle || g.st == .run) && g.presented.isNone && !g.preReq

/-- The first command of an aligned crew's piece was not ready by its start: it is late (R184). A command that Stroke alone holds
back is not (R339). -/
def alignLate (s : State) (p : Piece) : Bool :=
  p.first == 0 && p.startAt.isSome && (match p.readySince with | some r => dueAt s p < r | none => true)

/-- The selected command is presented: its claim is performed, and what Stroke held it back is counted (R195, R205). -/
def presentCmd (c e : Nat) (p : Piece) (w : List W64) (s : State) : State :=
  let since := pacedFrom s p
  let s1 := if hWaitCtr w < 48 && hWaitKind w then
      updRow c (fun r => { r with sync := r.sync.upd (hWaitCtr w) (· - hWaitValue w) }) s
    else s
  let s2 := if alignLate s p then updRow c (fun r => { r with alignLate := satAdd 64 r.alignLate 1 }) s1 else s1
  let s3 := updPiece c e p.id (fun p => { p with
    first := p.first + 1, fetched := p.fetched.filter (fun x => x.1 != p.first),
    chainRun := if hHoldBoundary w then p.chainRun + 1 else 0, waitSince := none, started := true, pacedSince := none }) s2
  let cmd : RunCmd := ⟨p.id, w, p.first, p.msg, (match since with | some t => s.now - t | none => 0), false, s.now⟩
  settleRow c (moveEng c e (fun g => { g with
    presented := some cmd, st := if g.st == .run then .runPresent else .present }) (paceTake c e (paceCounted since s3)))

/-- One engine is presented the command that select returns, if it can take one and Stroke permits (R192, R205). -/
def presentOne (c e : Nat) (s : State) : State :=
  if !(mayPresent (s.eng c e)) then s else
  match selectCmd s c e with
  | none => s
  | some (p, w) => if pacePermits s c e then presentCmd c e p w s else notePace c s e

/-- The counter that an engine's next presentation claims. -/
def claimOf (s : State) (c e : Nat) : Option Nat :=
  match selectCmd s c e with
  | some (_, w) => if hWaitCtr w < 48 && hWaitKind w then some (hWaitCtr w) else none
  | none => none
/-- The engines of lower index that are ready to claim the counter an engine would claim: they go first (R224). -/
def claimsBefore (s : State) (c e : Nat) : List Nat :=
  (List.range e).filter fun i => (claimOf s c i).isSome && claimOf s c i == claimOf s c e && mayPresent (s.eng c i) && pacePermits s c i

/-- PRESENT (R192, R195, R205), after the claims that go first. -/
def presentOp (c e : Nat) (s0 : State) : State :=
  if !(computeUp s0) || s0.build.clusters ≤ c || s0.build.engines ≤ e then s0 else
    let s := settleVacated s0
    presentOne c e (each (claimsBefore s c e) (fun s i => presentOne c i s) s)
def execPresent (c e : Nat) (s : State) : Out := .next (presentOp c e s)

/-- A cluster and engine that the build has. -/
def engBuilt (s : State) (c e : Nat) : Bool := c < s.build.clusters && e < s.build.engines

/-- The trace, counters and hang event of a Catch (R358, R367, R387). -/
def noteCatch (c e : Nat) (r : RunCmd) (s : State) : State :=
  let cls := engClass s c e r.msg.epoch
  let tag := cmdTag r.msg r.words
  let q : Qual := { ctx := some r.msg.ctx, cluster := some c, engine := some e, cls := some cls, tag := some tag }
  let s1 := wakeRec (islRow c) 1 true (some r.msg.ctx) (some c) (.fresh (c * 8 + e)) (hTrace r.words)
    [w64 (put c 0 9 + put e 9 3 + put cls 12 4 + put r.msg.ctx.toNat 16 16 + put r.msg.seat 32 6 + put r.msg.group 38 2 +
       put r.msg.origin 40 2 + putb r.msg.replay 42 + putb r.msg.epoch 43 + putb (hTrace r.words) 44 + put r.index 48 13),
     w64 (put tag 0 48 + put r.msg.workClass 48 4),
     w64 (r.msg.entry.toNat + put (min (2 ^ 32 - 1) r.paced) 32 32)] s
  let s2 := ergCount 4 r.paced { q with tag := none } (ergCount 1 1 q s1)
  let s3 := ergValue 51 (s.now - (s.eng c e).idleSince) { cluster := some c, engine := some e, cls := some cls } s2
  hangEv (islRow c) 0x06 (put e 0 3 + put r.msg.ctx.toNat 3 16 + put r.index 19 13 + put r.msg.entry.toNat 32 32) s3

/-- The hang event of a fill command's Catch or Finish, whose index and entry are open (R387, assumption 38). -/
def fillEv (c e code : Nat) (s : State) : State :=
  hangEv (islRow c) code (put e 0 3 + put 0xFFFF 3 16 + put (Config.hangNumber 32) (if code = 6 then 19 else 20) (if code = 6 then 13 else 12) +
    put (Config.hangNumber 33) 32 32) s

/-- CATCH (R29, R192, R196): the presented command begins; the chain is set or cleared by its hold_boundary. During a compute reset
the channel is in RESET and nothing is presented (R205). -/
def execCatchCmd (c e : Nat) (s : State) : Out :=
  if !(engBuilt s c e) then .fault (.notBuilt "engine")
  else if inReset s then .next s else
  let g := s.eng c e
  match g.st, g.presented with
  | .present, some r =>
    let s1 := if r.fill then s else updPiece c e r.piece (fun p => { p with
      caught := p.caught + 1, lastCatch := some s.now, unsafeCaught := p.unsafeCaught || !(hReplaySafe r.words) }) s
    let s2 := if r.fill then s1 else noteCatch c e r s1
    let s3 := moveEng c e (fun g => { g with
      st := .run, presented := none, running := some { r with since := s.now }, errSeen := none,
      chain := if r.fill then g.chain else if hHoldBoundary r.words then some r.piece else none })
      (if r.fill then fillEv c e 0x06 s2 else s2)
    .next (settleRow c s3)
  | _, _ => .fault (.portProtocol "eng_cmd")

/-- The trace, counters and hang event of a Finish, and its accounting item (R198, R359, R367). -/
def noteFinish (c e : Nat) (r : RunCmd) (err : Bool) (s : State) : State :=
  let cls := engClass s c e r.msg.epoch
  let tag := cmdTag r.msg r.words
  let tu := s.now - r.since
  let q : Qual := { ctx := some r.msg.ctx, cluster := some c, engine := some e, cls := some cls, tag := some tag }
  let s1 := wakeRec (islRow c) 2 false (some r.msg.ctx) (some c) (.follow (c * 8 + e)) (hTrace r.words)
    [w64 (put c 0 9 + put e 9 3 + putb err 12 + putb (hTrace r.words) 13 + put r.msg.ctx.toNat 16 16 + put (min (2 ^ 32 - 1) tu) 32 32)] s
  let s2 := ergValue 48 tu q (ergCount 2 tu q s1)
  let s3 := if err then ergCount 3 1 q s2 else s2
  let s4 : State := { s3 with fab := { s3.fab with items := s3.fab.items ++ [⟨c, r.msg.ctx, cls, tag, tu, r.msg.seat⟩] } }
  hangEv (islRow c) 0x07 (put e 0 3 + put r.msg.ctx.toNat 3 16 + putb err 19 + put (r.index / 2) 20 12 + put r.msg.entry.toNat 32 32) s4

/-- The post of a Finish without error (R198). -/
def finishPost (c : Nat) (r : RunCmd) (s : State) : State :=
  if hPostCtr r.words < 48 && (s.row c).resident == some r.msg.ctx then addSync c (hPostCtr r.words) (hPostInc r.words) r.msg.ctx (cmdTag r.msg r.words) s
  else s

/-- The engine channel after the running command's Finish (R205). -/
def afterFinish (now : Nat) (g : Engine) : Engine :=
  { g with running := none, errSeen := none, idleSince := now,
           st := match g.st with | .run => .idle | .runPresent => .present | t => t }

/-- The fill command of an engine as it is presented (R341): no piece, context 0xFFFF. -/
def fillCmd (s : State) (c e : Nat) : RunCmd :=
  ⟨0, s.stk.img.fills.get (s.rig.now.classes.get (c * 8 + e)), 0, { LaunchMsg.blank .piece with ctx := 0xFFFF, engine := e }, 0,
   true, s.now⟩

/-- An engine is about to become idle at a Finish with no command presented (R340): it takes its weight from the down
bucket, or is presented a fill command, or empties the bucket. -/
def rampDown (c e : Nat) (s : State) : State :=
  let g := s.eng c e
  if !(stkOn s) || g.presented.isSome then s else
  let b := bucketNow s c
  let w := Q.ofNat (wuOf s c e)
  if Q.le w b.down then updStk (fun k => { k with buckets := k.buckets.set c { b with down := Q.sub b.down w } }) s
  else if bit s.stk.cfg 1 && !g.preReq then
    updStk (fun k => { k with fillCount := satAdd 64 k.fillCount 1 })
      (moveEng c e (fun g => { g with presented := some (fillCmd s c e), st := .present }) s)
  else updStk (fun k => { k with
    buckets := k.buckets.set c { b with down := Q.zero }, downOver := satAdd 64 k.downOver 1 }) s

/-- With Stroke on, a command that is ready as its engine finishes is presented in the same cycle: the engine stays busy
(R335), and the ready command wins over a fill command (R340). -/
def presentFirst (c e : Nat) (s : State) : State :=
  if stkOn s && (s.eng c e).st == .run then presentOp c e s else s

/-- FINISH (R30, R198): post, or drop the rest of the piece; accounting and trace. During a compute reset the channel takes no
Finish (R205). -/
def execFinish (c e : Nat) (err : Bool) (s : State) : Out :=
  if !(engBuilt s c e) then .fault (.notBuilt "engine")
  else if inReset s then .next s else
  let s := presentFirst c e s
  let g := s.eng c e
  match g.running with
  | none => .fault (.portProtocol "eng_fin")
  | some r =>
    if r.fill then .next (settleRow c (rampDown c e (moveEng c e (afterFinish s.now) (fillEv c e 0x07 s)))) else
    let bare := err && g.errSeen.isNone
    let s0 := if bare then
        logRec (pieceWhy s r.msg 1) { pieceRec s c e r.msg 1 eEngineReport with tag := cmdTag r.msg r.words } s
      else s
    let failed : Option (Nat × BitVec 16) := if bare then some (1, eEngineReport) else g.errSeen
    let s1 := noteFinish c e r err s0
    let s2 := if err then s1 else finishPost c r s1
    let s3 := moveEng c e (afterFinish s.now) (updPiece c e r.piece (fun p => { p with finished := p.finished + 1 }) s2)
    let s4 := match failed with
      | some f => updPiece c e r.piece (fun p => { p with err := if p.err.isSome then p.err else some f })
          (cutPiece c e r.piece (some f) s3)
      | none => s3
    .next (settleRow c (rampDown c e s4))

/-- The code the block carries for an engine's report (R201). -/
def engineCode (cls : Nat) (code : BitVec 16) : BitVec 16 :=
  if 0x8000 ≤ code.toNat || code == eXlatFault || code == ePoisonedObject || (code == eTargetLost && cls == 5) then code
  else eEngineReport

/-- The record of an engine's report (R200, R201): a code that engines may not use stands in info. -/
def engineRec (s : State) (c e k : Nat) (code : BitVec 16) (info : W32) : LogRec :=
  let carried := engineCode k code
  let base : LogRec := match (s.eng c e).running with
    | some r => { pieceRec s c e r.msg k carried with tag := cmdTag r.msg r.words }
    | none => { LogRec.zero with cls := k, code := carried, island := islRow c, engine := e, cluster := c }
  { base with info := if carried == code then info.toNat else code.toNat }

/-- The engine has reported an error of its current command (R31), and Rack hears of a poisoned object (R69). DESIGN CHOICE
(assumption 105): the report carries no address, so a free value says where in the command's reads the poison lies. -/
def noteReport (c e k : Nat) (carried : BitVec 16) (s : State) : State :=
  let s1 := updEng c e (fun g => { g with
    errSeen := if g.errSeen.isSome || g.running.isNone then g.errSeen else some (k, carried) }) s
  if carried == ePoisonedObject then poisonMark (s.freeValue 32 % 2 ^ 56) s1.nextFree else s1

/-- ENGINE_ERROR_REPORT (R31, R200, R201): logged and acted on by its class. During a compute reset a report of class 1 to 3 is of a
command that the reset has ended. -/
def execEngineErrorReport (c e : Nat) (cls : BitVec 3) (code : BitVec 16) (info : W32) (s : State) : Out :=
  if !(engBuilt s c e) then .fault (.notBuilt "engine") else
  let k := cls.toNat
  if k ≤ 3 && inReset s then .next s
  else if k < 1 || 5 < k || (k ≤ 3 && (s.eng c e).running.isNone) then .fault (.portProtocol "eng_err") else
  let rec_ := engineRec s c e k code info
  let s1 := noteReport c e k rec_.code s
  if k == 4 then .next (raise4 rec_ s1)
  else if k == 5 then .next (raise5 rec_ s1)
  else .next (logRec (match (s.eng c e).running with | some r => pieceWhy s r.msg k | none => .nothing) rec_ s1)

/-! ### Reports to Marshal (R137, R139, R199) -/

/-- Act on the class of an error that a piece report carries; it has been logged where it arose. -/
def reportError (o : Owner) (err : Option (Nat × BitVec 16)) (s : State) : State :=
  match err with
  | none => s
  | some (1, c) => failWork o 1 c s
  | some (2, c) => failSeat o 9 c s
  | some (3, c) => match s.work? o with
    | some w => failContext w.ctx 3 c s
    | none => s
  | some _ => s

/-- A report of a program's own piece reaches Marshal: the group counter falls, unsafe_caught is recorded. -/
def programReport (q : Report) (s : State) : State :=
  match s.workAt q.seat q.entry with
  | none => s
  | some w =>
    let s1 := updWork w.owner (fun w => { w with
      unsafeCaught := w.unsafeCaught || q.unsafeCaught, nonReplayable := w.nonReplayable || q.unsafeCaught })
      (subGroup w.owner q.group 1 s)
    seatEvent w.seat w.owner (reportError w.owner q.err s1)

/-! ### Active places and pre-emption (R193, R204) -/

/-- ACTIVE_YIELD (R193): an active piece that has waited 2 µs gives its place to the earliest piece of another seat that
could not become active. -/
def activeYieldOp (c e : Nat) (s : State) : State :=
  let g := s.eng c e
  let out := g.pieces.find? fun p => p.active && g.chain != some p.id && p.waitSince.any fun t => 2 * usTu ≤ s.now - t
  if !(computeUp s) || (activePieces g).length < 4 then s else
  match out with
  | none => s
  | some p => match g.pieces.find? fun q => !q.active && q.msg.seat != p.msg.seat && !(seatActive g q.msg.seat) with
    | none => s
    | some q =>
      let s1 := updPiece c e p.id (fun p => { p with active := false, gaveUp := true, waitSince := none }) s
      settleRow c (activatePiece c e q s1)
def execActiveYield (c e : Nat) (s : State) : Out := .next (activeYieldOp c e s)

/-- PRE_ACK_RISE (R32, R204): the Rowlock returns eng_pre_req to 0. -/
def execPreAckRise (c e : Nat) (s : State) : Out :=
  if !(engBuilt s c e) then .fault (.notBuilt "engine")
  else if inReset s then .next s else
  let g := s.eng c e
  if g.preReq && !g.preAck && g.running.isNone then
    .next (moveEng c e (fun g => { g with preReq := false, preAck := true, st := .unpreempt, preSince := s.now }) s)
  else .fault (.portProtocol "eng_pre_ack")

/-- PRE_ACK_FALL (R32, R204): the engine may take commands again, and holds are looked at. -/
def execPreAckFall (c e : Nat) (s : State) : Out :=
  if !(engBuilt s c e) then .fault (.notBuilt "engine")
  else if inReset s then .next s else
  let g := s.eng c e
  if g.preAck && !g.preReq then
    .next (settleRow c (moveEng c e (fun g => { g with preAck := false, st := .idle }) s))
  else .fault (.portProtocol "eng_pre_ack")

/-- An engine has a piece whose first command waits for a start, or for a stagger, that has come. -/
def atStart (s : State) (c e : Nat) (staggered : Bool) : Bool :=
  (s.eng c e).pieces.any fun p => p.first == 0 && (p.startAt.isSome || staggered) && (0 < p.offset) == staggered && dueAt s p ≤ s.now

/-- ALIGNED_START (R184): the start of a crew has come; the Rowlock presents what select now returns. -/
def alignedStartOp (c e : Nat) (s : State) : State := if atStart s c e false then presentOp c e s else s
def execAlignedStart (c e : Nat) (s : State) : Out := .next (alignedStartOp c e s)

/-- STAGGER_START (R339): the offset of a crew's member has elapsed. -/
def staggerStartOp (c e : Nat) (s : State) : State := if atStart s c e true then presentOp c e s else s
def execStaggerStart (c e : Nat) (s : State) : Out := .next (staggerStartOp c e s)

/-! ### Arrivals -/

def execArrival (c : Nat) (ctr : BitVec 6) (inc : BitVec 16) (ctx : CtxId) (s : State) : Out :=
  if s.build.clusters ≤ c then .fault (.notBuilt "cluster") else powered s (settleRow c (arrivalOp c ctr inc ctx s))
def execArrivalStall (c : Nat) (s : State) : Out := powered s (arrivalStallOp c s)

/-! ### Sending CANCEL (R202) -/

/-- A core is holding a launch of the seat that a tree refuses. -/
def launchHeld (s : State) (seat : Nat) : Bool :=
  (List.range s.build.coxCores).any fun k => (s.core k).st == .stall && (s.core k).stall == .tree && (s.core k).seats.head? == some seat

/-- Send the CANCEL of an entry on the seat's tree, or of a context on every tree. -/
def sendCancel (o : Option Owner) (ctx : CtxId) (seat : Nat) (entry : Count) (s : State) : State :=
  let m : LaunchMsg := { LaunchMsg.blank .cancel with scope := 2 }
  match o with
  | some _ => sendTree (seatTree s seat) { m with byCtx := false, seat := seat, entry := entry } s
  | none => each (List.range s.build.trees) (fun s t => sendTree t { m with byCtx := true, ctx := ctx } s) s

end Sys2Proof.Machine
end

