-- ==== Sys2Proof/Machine/Clock.lean ====
section
/-! DEFINITION. The passing of time (R351, R356). -/
namespace Sys2Proof.Machine

/-- trim_ppb (R356): a 20-bit two's complement number, held within ±200,000. -/
def trimPpb (cfg : W64) : Int :=
  let n : Int := fld cfg 2 20
  let v := if 2 ^ 19 ≤ n then n - 2 ^ 20 else n
  max (-200000) (min 200000 v)

/-- The roots that refuse messages count the time they do (R209), and note since when they refuse with nothing delivered
(R383). -/
def countRefusals (tu : Nat) (s : State) : State :=
  each (List.range s.build.trees) (fun s t =>
    if treeRefuses s t then
      updTree t (fun x => { x with refusedTu := x.refusedTu + tu, stallSince := some (x.stallSince.getD s.now) }) s
    else if (s.tree t).stallSince.isSome then updTree t (fun x => { x with stallSince := none }) s
    else s) s

/-- The inputs at which refusal begins or ends in a cycle leave their hang events (R387): a tree's root, and a Rowlock's tree inputs. -/
def noteRefusals (s : State) : State :=
  let root (s : State) (t : Nat) : State :=
    let x := treeRefuses s t
    if (s.tree t).refusing == x then s
    else refuseEv (islLft t) 8 (!x) x (updTree t (fun y => { y with refusing := x }) s)
  let input (c : Nat) (s : State) (t : Nat) : State :=
    let x := rowRefuses s t c
    let was := (s.row c).refusing.contains t
    if was == x then s
    else refuseEv (islRow c) (16 + t) was x
      (updRow c (fun r => { r with refusing := if x then r.refusing ++ [t] else r.refusing.filter (· != t) }) s)
  let trees := List.range s.build.trees
  each (s.fab.rows.cells.map Prod.fst) (fun s c => each trees (input c) s) (each trees root s)

/-- One cycle of ref_clk (R351, R356): 40 tu, changed by trim_ppb parts in 10^9; the fraction of a tu is carried. Time stands
still while por_n is 0. In the cycle the Rowlocks act on what has vacated them (R194, R228), a crossing message may transfer (R21),
and Rack may write an object-table entry back (R61). -/
def tick (s : State) : State :=
  if !s.ump.porN then s else
  let total : Nat := s.tkp.frac + (40 * (1000000000 + trimPpb s.tkp.cfg)).toNat
  let s1 := lazyWriteBack (transferTx (settleVacated (countRefusals (total / 1000000000) (noteRefusals s))))
  { s1 with tkp := { s1.tkp with now := s.tkp.now + total / 1000000000, frac := total % 1000000000 } }

end Sys2Proof.Machine
end

