-- ==== Sys2Proof/Machine/Memory.lean ====
section
/-! DEFINITION. Rack's pools (R309), and the words ALLOC, KVGROW and KVTRIM (R140, R311, R312). -/
namespace Sys2Proof.Machine

/-- ALLOC (R140). -/
def allocWord : WordMeaning := fun k seat p w s =>
  let v := (operandV p.regs w).toNat
  if v == 0 || v % 64 != 0 then wordFail k seat p 1 eBadOperand s
  else match allocObject p.ctx (ctxPartition s p.ctx) v (bit w.w3 0) s with
    | .ok (i, s1) =>
      let h := mkHandle i (s1.rack.objs.get i).gen
      advance seat (updProg seat (fun q => { q with
        regs := (q.regs.set w.rd (w64 (s1.rack.objs.get i).base)).set w.ra (w64 h.toNat),
        f := if w.soft then false else q.f }) (unreplayable p.owner s1))
    | .error c =>
      if w.soft then advance seat (updProg seat (fun q => { q with regs := (q.regs.set w.rd 0).set w.ra 0, f := true })
        (unreplayable p.owner s))
      else wordFail k seat p 1 c s
def execWAlloc (k : Nat) (s : State) : Out := .next (runWord 0x50 false allocWord k s)

/-! ### Pools (R309) -/

/-- The pool that RCK_POOL_SEL names. -/
def poolSel (s : State) : Nat := fld s.mem.poolSel 0 4
/-- A pool command that is refused. -/
def poolRefuse (s : State) : State :=
  updMem (fun m => { m with pools := m.pools.upd (poolSel s) fun p => { p with cmdErr := true } }) s

/-- The block of each slice that an enabled pool reserves, or `none` when some slice lacks it. -/
def poolBlocks (s : State) (p : Pool) : Option (List Nat) :=
  match heapOf s (poolPart p) with
  | none => none
  | some (base, k) =>
    let size := max 4096 (pow2Ceil (perStack p * pageBytes p))
    let used := usedBlocks s (poolPart p)
    (List.range s.build.memStacks).mapM fun st =>
      if 2 ^ k < perStack p * pageBytes p then none else freeBlock s (base + st * 2 ^ k) size (2 ^ k / size) used 6

/-- What a write of RCK_POOL_CFG makes of a pool that is not enabled: the fields it may write. -/
def poolWrite (d : W64) (p : Pool) : Pool := if p.enabled then p else { p with cfg := w64 (fld d 0 16 + put (fld d 16 16) 16 16 + put (fld d 32 24) 32 24 + put (fld d 56 4) 56 4) }

/-- POOL_ENABLE (R309): the fields written with enable are taken first. -/
def poolEnableOp (d : W64) (s : State) : State :=
  let q := poolSel s
  if s.build.kvPools ≤ q || (s.mem.pools.get q).enabled then s else
  let s1 := updMem (fun m => { m with pools := m.pools.upd q (poolWrite d) }) s
  let p := s1.mem.pools.get q
  if fld p.cfg 0 16 == 0 || pageTokens p == 0 || perStack p == 0 then poolRefuse s1
  else match poolBlocks s1 p with
    | none => poolRefuse s1
    | some bases => pagesFreed (updMem (fun m => { m with pools := m.pools.upd q fun p =>
        { p with enabled := true, cmdErr := false, bases := bases, quarantine := [] } }) s1.nextFree)
def execPoolEnable (d : W64) (s : State) : Out := powered s (poolEnableOp d s)

/-- POOL_DISABLE (R309): only when no page table of the pool exists. -/
def poolDisableOp (d : W64) (s : State) : State :=
  let q := poolSel s
  if s.build.kvPools ≤ q then s else
  let p := s.mem.pools.get q
  if !p.enabled then updMem (fun m => { m with pools := m.pools.upd q (poolWrite d) }) s
  else if s.mem.tabs.cells.any fun t => t.2.isTable && t.2.pool == q then poolRefuse s
  else updMem (fun m => { m with pools := m.pools.upd q fun p =>
    { p with enabled := false, cmdErr := false, bases := [], quarantine := [] } }) s
def execPoolDisable (d : W64) (s : State) : Out := powered s (poolDisableOp d s)

/-! ### KVGROW and KVTRIM (R311, R312) -/

/-- What a list has come to: the state, the table writes, the record writes, and why it ended early: a result that `soft`
governs with its code, or a code that ends the command. -/
structure KvRun where
  st : State
  writes : List MemWrite
  results : List (Nat × List Byte)
  soft : Option (BitVec 16)
  hard : Option (BitVec 16)

/-- Word 0 of a record with its handle and result written. -/
def recordWord (w0 : W64) (h : W32) (result : Nat) : List Byte := leBytes (setFld (setFld w0 0 32 h.toNat) 48 8 result).toNat 8

/-- The check of a table that a record names (R65, R69, R311): the code of the first that fails. -/
def tabCheck (s : State) (ctx : CtxId) (q : Nat) (h : W32) (trim : Bool) : Option (BitVec 16) :=
  let o := objOf s h
  let t := s.mem.tabs.get (hIdx h)
  if objStale s h then some eStaleHandle
  else if objDenied o (some ctx) then some eObjectAccess
  else if !t.isTable || t.pool != q then some eKvList
  else if o.poisoned && !trim then some ePoisonedObject
  else if t.spilled && !trim then some eKvSpilled
  else none

/-- End a list early at record `i`: its result, and 5 in every later one (`fill` is false for a trim list). -/
def kvStop (r : KvRun) (a i n : Nat) (b : List Byte) (h : W32) (result : Option Nat) (fill : Bool) : KvRun :=
  let at_ (j : Nat) : W64 := w64 (leAt b (16 * j) 8)
  let own := match result with | some x => [(a + 16 * i, recordWord (at_ i) h x)] | none => []
  let rest := if fill then ((List.range n).filter (i < ·)).map fun j => (a + 16 * j, recordWord (at_ j) (w32 (fld (at_ j) 0 32)) 5) else []
  { r with results := r.results ++ own ++ rest }

/-- The code of a grow result (R311). -/
def growCode (x : Nat) : BitVec 16 := if x = 1 then eKvExhausted else if x = 3 then eKvLimit else ePartitionFull

/-- One record of a grow list. `a` is the list's address, `b` its bytes, `n` its length. -/
def growRecord (ctx : CtxId) (q a n : Nat) (b : List Byte) (r : KvRun) (i : Nat) : KvRun :=
  if r.soft.isSome || r.hard.isSome then r else
  let w0 := w64 (leAt b (16 * i) 8)
  let w1 := w64 (leAt b (16 * i + 8) 8)
  let h := w32 (fld w0 0 32)
  if fld w0 38 10 != 0 || fld w0 56 8 != 0 || fld w1 32 32 != 0 then { kvStop r a i n b h none true with hard := some eKvList }
  else
    let s := r.st
    let found : Except (Except (BitVec 16) Nat) (Nat × State) :=
      if h = 0 then match newTab q ctx s with
        | some x => .ok x
        | none => .error (.error ePartitionFull)
      else match tabCheck s ctx q h false with
        | some c => .error (if c == eStaleHandle then .ok 2 else .error c)
        | none => .ok (hIdx h, s)
    match found with
    | .error (.ok _) => { kvStop r a i n b h (some 2) true with hard := some eStaleHandle }
    | .error (.error c) =>
      if h = 0 then { kvStop r a i n b h (some 4) true with soft := some c }
      else { kvStop r a i n b h none true with hard := some c }
    | .ok (t, s1) => match growTab t (fld w1 0 32) (fld w0 32 6) s1 with
      | .error x => { kvStop r a i n b h (some x) true with soft := some (growCode x) }
      | .ok s2 =>
        let nh := mkHandle t (s2.rack.objs.get t).gen
        { r with st := s2, writes := r.writes ++ tabWrites s s2 t, results := r.results ++ [(a + 16 * i, recordWord w0 nh 0)] }

/-- One record of a trim list. -/
def trimRecord (ctx : CtxId) (q a n : Nat) (b : List Byte) (r : KvRun) (i : Nat) : KvRun :=
  if r.hard.isSome then r else
  let w0 := w64 (leAt b (16 * i) 8)
  let w1 := w64 (leAt b (16 * i + 8) 8)
  let h := w32 (fld w0 0 32)
  if fld w0 33 15 != 0 || fld w0 56 8 != 0 || fld w1 32 32 != 0 then { r with hard := some eKvList }
  else match tabCheck r.st ctx q h true with
    | some c => { kvStop r a i n b h (if c == eStaleHandle then some 2 else none) false with hard := some c }
    | none =>
      let keep := fld w1 0 32
      let s2 := trimTab (hIdx h) keep r.st
      let gone := bit w0 32 && keep == 0
      { r with
        st := if gone then dropTab (hIdx h) s2 else s2,
        writes := r.writes ++ tabWrites r.st s2 (hIdx h),
        results := r.results ++ [(a + 16 * i, recordWord w0 h 0)] }

/-- A word's list is done: the core goes on, or its command fails. -/
def kvFinish (j : KvJob) (s : State) : State :=
  let s1 := lessReqs j.owner (updMem (fun m => { m with kvJobs := m.kvJobs.filter fun x => x.id != j.id }) s)
  match heldWord s1 j.core j.owner with
  | none => settleOwner j.owner s1
  | some (seat, p, _) =>
    let s2 := runCore j.core s1
    match j.fail with
    | some c => wordFail j.core seat p 1 c s2
    | none => advance seat (updProg seat (fun q => { q with f := j.soft.getD q.f }) s2)

/-- The table writes of a list are answered: the results go out. -/
def kvResults (j : KvJob) (s : State) : State :=
  if j.results.isEmpty then kvFinish j s
  else startPlan (.kvResult j.id) islRck 63 [j.results.map fun r => ⟨false, r.1, j.ctx, r.2⟩] s

/-- Begin a list: Rack has decided it as a whole, and its writes go out. -/
def kvBegin (k : Nat) (p : Prog) (w : CWord) (r : KvRun) : State :=
  let s := r.st
  let soft := match r.soft with
    | some _ => if w.soft then some true else none
    | none => if w.soft && r.hard.isNone then some false else none
  let fail := match r.hard, r.soft with
    | some c, _ => some c
    | none, some c => if w.soft then none else some c
    | none, none => none
  let j : KvJob := ⟨s.mem.nextId, k, p.owner, p.ctx, r.results, soft, fail⟩
  let s1 := stallCore k .unit (moreReqs p.owner (updMem (fun m => { m with nextId := m.nextId + 1, kvJobs := m.kvJobs ++ [j] }) s))
  if r.writes.isEmpty then kvResults j s1 else startPlan (.kvTable j.id) islRck 63 [r.writes] s1

/-- A list that cannot be read, or is misaligned, ends the command; one that names a table being spilled or filled waits (R314); else
it is run record by record. -/
def kvWord (list : MemRead) (one : CtxId → Nat → Nat → Nat → List Byte → KvRun → Nat → KvRun) (frees : Nat → Bool) : WordMeaning :=
  fun k seat p w s =>
  let a := operandA p.regs w
  let v := (operandV p.regs w).toNat
  if 65536 ≤ v then wordFail k seat p 1 eBadOperand s
  else if a % 16 != 0 then wordFailAt k seat p 1 eKvList a s
  else if poisonedAt s a (16 * v) then wordFailAt k seat p 1 ePoisonedObject a s
  else match list.err with
    | .target => targetLost 0 islRck a p.ctx s
    | .ok =>
      let b := list.bytes
      if (List.range v).any fun i => tabMoves s (hIdx (w32 (leAt b (16 * i) 4))) then stallCore k .order s else
      let r0 : KvRun := ⟨ownRead islRck a p.ctx (16 * v) s, [], [], none, none⟩
      let r := (List.range v).foldl (one p.ctx (w.imm % 16) a v b) r0
      let r1 : KvRun := if (List.range v).any fun i => frees (leAt b (16 * i) 8) then { r with st := unreplayable p.owner r.st } else r
      kvBegin k p w r1
    | e => wordFailAt k seat p 1 (respCode e) a (if e == .poison then poisonMark a s else s)

/-- KVGROW (R311): Rack's own reads of the list are `list`. -/
def execWKvgrow (k : Nat) (list : MemRead) (s : State) : Out :=
  .next (runWord 0x60 false (kvWord list growRecord fun w0 => w0 % 2 ^ 32 == 0) k s)
/-- KVTRIM (R312). -/
def execWKvtrim (k : Nat) (list : MemRead) (s : State) : Out :=
  .next (runWord 0x61 false (kvWord list trimRecord fun w0 => w0 / 2 ^ 32 % 2 == 1) k s)

/-- A page-table write met an error: class 5 (R386). -/
def blockAccess (addr : Nat) (s : State) : State :=
  raise5 { LogRec.zero with code := eBlockAccess, island := islRck, ctx := 0xFFFF, addr := addr } s

end Sys2Proof.Machine
end

