-- ==== Sys2Proof/Machine/Copies.lean ====
section
/-! DEFINITION. Slide's copy commands and pieces, the regulators' choice, the staging areas (R307, R319, R320, R323, R324). -/
namespace Sys2Proof.Machine

/-! ### Copy commands (R323) -/

/-- The words of a copy command. -/
def copyWords (s : State) (c : CopyCmd) : List W64 :=
  [w64 (put s.rig.now.copyClass 0 4 + 16 + putb (c.op != 0) 5 + put 63 8 6 + put 63 48 6), 0,
   w64 (put c.op 0 4 + putb c.banked 4 + putb c.acc 5 + put c.length 32 32), w64 c.addr, w64 c.addr2,
   w64 (c.base + put c.size 32 32), w64 c.start, 0]

/-- The live slots of a circular region as runs of (first slot, slots), and whether the region is moved whole (R320). -/
def liveRuns (r : Region) (head tail : Nat) : List (Nat × Nat) × Bool :=
  let n := 2 ^ r.slotsLog2
  let live := (tail + 2 ^ 32 - head) % 2 ^ 32
  let h := head % n
  if n < live then ([(0, n)], true)
  else if live = 0 then ([], false)
  else if h + live ≤ n then ([(h, live)], false)
  else ([(h, n - h), (0, h + live - n)], false)

/-- The commands that move a map's live regions between a scratchpad and a block's data, and the overflow bits (R320,
R325). `whole` forces a circular region to move whole. -/
def regionCmds (op data : Nat) (ctrs : List Nat) (whole : Nat → Bool) (l : List Region) : List CopyCmd × Nat :=
  let step (acc : List CopyCmd × Nat × Nat) (p : Region × Nat) : List CopyCmd × Nat × Nat :=
    let r := p.1
    if !(isLiveKind r) then acc else
    let cmd (start len : Nat) : CopyCmd := ⟨op, r.banked, isAcc r, len, data + acc.2.2 + start, 0, r.base, r.size, start⟩
    if r.kind == 2 then
      let slot := r.size / 2 ^ r.slotsLog2
      let (runs, ovf) := if whole p.2 then ([(0, 2 ^ r.slotsLog2)], true)
        else liveRuns r (ctrs.getD r.drainCtr 0) (ctrs.getD r.fillCtr 0)
      (acc.1 ++ runs.map (fun x => cmd (x.1 * slot) (x.2 * slot)), acc.2.1 + putb ovf p.2, acc.2.2 + r.size)
    else (acc.1 ++ [cmd 0 r.size], acc.2.1, acc.2.2 + r.size)
  let res := l.zipIdx.foldl step ([], 0, 0)
  (res.1, res.2.1)

/-- The copy engine of a cluster: the lowest whose class is the copy class. -/
def copyEngine (s : State) (c : Nat) : Nat :=
  ((List.range s.build.engines).find? fun e => s.rig.now.classes.get (c * 8 + e) == s.rig.now.copyClass).getD 0

/-- The bytes that commands move. -/
def cmdBytes (l : List CopyCmd) : Nat := (l.map (·.length)).foldl (· + ·) 0

/-- Add a copy piece; its writes go out at once when it has a place to be written. -/
def addPiece (for_ : CopyFor) (c tree part addr : Nat) (wctx : CtxId) (msg : LaunchMsg) (cmds : List CopyCmd) (staging : Option Nat)
    (ready : Bool) (s : State) : State :=
  let id := s.sld.nextId
  let m : LaunchMsg := { msg with
    kind := .piece, origin := 1, target := c, engine := copyEngine s c, count := cmds.length, piece := addr, slide := id }
  let p : CopyPiece := ⟨id, for_, c, copyEngine s c, tree, part, cmdBytes cmds, m, cmds, staging, ready, false, false⟩
  let s1 := updSld (fun d => { d with nextId := id + 1, pieces := d.pieces ++ [p] }) s
  if ready then startPlan (.piece id) islSld 63 [lineWrites wctx addr (cmds.flatMap (copyWords s))] s1 else s1

/-! ### Launching copy pieces (R307) -/

/-- Pieces of Slide in flight on a cluster's copy engine. -/
def piecesInFlight (s : State) (c e : Nat) : Nat := (s.sld.pieces.filter fun p => p.launched && p.cluster == c && p.engine == e).length
/-- A piece is written and its copy engine has fewer than two of Slide's pieces in flight. -/
def pieceReady (s : State) (p : CopyPiece) : Bool := p.written && !p.launched && piecesInFlight s p.cluster p.engine < 2
/-- A partition's mode (R307). -/
def partMode (s : State) (p : Nat) : Nat := if p = 0 then 0 else fld (s.mem.parts.get p).reg 32 2

/-- next_piece() of R307. -/
def nextPiece (s : State) : Option CopyPiece :=
  let l := s.sld.pieces.filter (pieceReady s)
  match l.find? fun p => partMode s p.part != 0 && p.bytes * 1000 ≤ tokensNow s p.part with
  | some p => some p
  | none =>
    let order := (List.range s.build.partitions).map fun i => (s.mem.lastPart + 1 + i) % s.build.partitions
    order.findSome? fun q => if partMode s q < 2 then l.find? fun p => p.part == q else none

/-- COPY_PIECE_LAUNCH (R307, R324). -/
def copyPieceLaunchOp (s : State) : State :=
  if !(computeUp s) then s else
  match nextPiece s with
  | none => s
  | some p =>
    if treeRefuses s p.tree then s else
    let paid := partMode s p.part != 0 && p.bytes * 1000 ≤ tokensNow s p.part
    let s1 := refillPart p.part s
    let s2 := updMem (fun m => { m with
      lastPart := p.part,
      parts := m.parts.upd p.part fun x => { x with tokens := if paid then x.tokens - p.bytes * 1000 else x.tokens } }) s1
    enterTree p.tree p.msg (updSld (fun d => { d with
      pieces := d.pieces.map fun x => if x.id == p.id then { x with launched := true } else x }) s2)
/-! ### Staging (R324) -/

/-- The address of staging place `k` of a cluster: 16 places of 4 KiB. -/
def stageAddr (s : State) (c k : Nat) : Nat := fld s.sld.stage 16 40 * 65536 + c * 65536 + k * 4096
/-- Give a staging place to every unwritten piece of a move that finds one free, and write it there. -/
def feedStaging (s : State) : State :=
  each (s.sld.pieces.filter fun p => p.staging.isNone && !p.asked && (match p.for_ with | .move _ _ => true | _ => false))
    (fun s p =>
      let used := s.sld.pieces.filterMap fun x => if x.cluster == p.cluster then x.staging else none
      let k := leastFree used used.length 0
      if 16 ≤ k then s else
      let a := stageAddr s p.cluster k
      let s1 := updSld (fun d => { d with pieces := d.pieces.map fun x =>
        if x.id == p.id then { x with staging := some k, asked := true, msg := { x.msg with piece := a } } else x }) s
      startPlan (.piece p.id) islSld 63 [lineWrites 0xFFFF a (p.cmds.flatMap (copyWords s))] s1) s

end Sys2Proof.Machine
end

