-- ==== Sys2Proof/Machine/Moves.lean ====
section
/-! DEFINITION. Moving pages and objects: spills and fills (R262, R315), poison in tables and weights, refetch (R316, R406,
R407). -/
namespace Sys2Proof.Machine

/-- Cut a move of bytes into commands of at most 1 MiB. -/
def moveCmds (src dst bytes : Nat) : List CopyCmd :=
  (List.range ((bytes + 1048575) / 1048576)).map fun i =>
    ⟨2, false, false, min 1048576 (bytes - i * 1048576), src + i * 1048576, dst + i * 1048576, 0, 0, 0⟩
/-- The launch of a move's pieces: context 0xFFFF, no seat's entry (R315, R324). -/
def moveMsg (s : State) : LaunchMsg :=
  { LaunchMsg.blank .piece with epoch := epochBit s, ctx := 0xFFFF, seat := 63, entry := 0xFFFFFFFF }
/-- Clusters that can copy. -/
def copyClusters (s : State) : List Nat :=
  (List.range s.build.clusters).filter fun c =>
    (List.range s.build.engines).any fun e => s.rig.now.classes.get (c * 8 + e) == s.rig.now.copyClass

/-- Make the pieces of one page of a move, two commands each, spread over some clusters from a free value on. -/
def addMoves (id page tree part : Nat) (cs : List Nat) (cmds : List CopyCmd) (s : State) : State :=
  let groups := chunks 2 cmds.length cmds
  let start := s.freeValue 13
  let s1 := updMem (fun m => { m with moves := m.moves.map fun x => if x.id == id then { x with left := x.left + groups.length } else x })
    s.nextFree
  feedStaging (each groups.zipIdx (fun s p =>
    addPiece (.move id page) (cs.getD ((start + p.2) % max 1 cs.length) 0) tree part 0 0xFFFF (moveMsg s) p.1 none false s) s1)

/-- The pieces that move a table's pages to new homes; a page that is there already needs none. -/
def movePages (id t : Nat) (homes : List PageEnt) (s : State) : State :=
  let tab := s.mem.tabs.get t
  let p := s.mem.pools.get tab.pool
  each (tab.pages.zip homes).zipIdx (fun s x =>
    if x.1.1 == x.1.2 then s
    else addMoves id x.2 (tab.pool % s.build.trees) (poolPart p) (copyClusters s)
      (moveCmds (pageAddr s tab.pool x.1.1) (pageAddr s tab.pool x.1.2) (pageBytes p)) s) s

/-- Set or clear the spilled bit of a table and of its object, with the root's write (R315). -/
def setSpilled (t : Nat) (b : Bool) (s : State) : State :=
  let s1 := updObj t (fun o => { o with spilled := b }) (updTab t (fun x => { x with spilled := b }) s)
  startPlan .table islRck 63 [tabWrites s s1 t] s1

/-- Begin a spill of a sequence's table; without room in the tier area nothing is spilled (R315). -/
def startSpill (l i : Nat) (s : State) : State :=
  let t := hIdx ((s.loop l).seqs.get i).kv
  let tab := s.mem.tabs.get t
  match tierRoom s (pageBytes (s.mem.pools.get tab.pool)) tab.pages.length (tierUsed s) with
  | none => logRec .nothing { LogRec.zero with code := eTierFull, island := islRck, loop := l, ctx := (s.loop l).ctx } s
  | some as =>
    let homes := (tab.pages.zip as).map fun x => { x.1 with tier := some x.2 }
    let id := s.mem.nextId
    let s1 := updMem (fun m => { m with
      nextId := id + 1, moves := m.moves ++ [⟨id, .spill, t, l, i, homes, tab.pages, 0, none, false, s.now⟩] }) (s.nextFree)
    let s2 := updSeq l i (fun e => { e with st := .spilled, kvWait := false, starvedSince := none }) (setSpilled t true s1)
    movePages id t homes s2

/-- Choose a page of a pool for each page of a fill (R311, R315), adding it to the move's homes. -/
def fillHomes (id q crew : Nat) : Nat → State → State
  | 0, s => s
  | n + 1, s => match pickStack s q crew with
    | none => s
    | some st => fillHomes id q crew n (updMem (fun m => { m with moves := m.moves.map fun x =>
        if x.id == id then { x with homes := x.homes ++ [⟨st, pickIndex s q st, none⟩] } else x }) s.nextFree)
/-- Begin a fill of a spilled sequence for a crew that Heat names. -/
def startFill (l i crew : Nat) (s : State) : State :=
  let t := hIdx ((s.loop l).seqs.get i).kv
  let tab := s.mem.tabs.get t
  let id := s.mem.nextId
  let s1 := updMem (fun m => { m with nextId := id + 1, moves := m.moves ++ [⟨id, .fill, t, l, i, [], [], 0, none, false, s.now⟩] }) s
  let s2 := fillHomes id tab.pool crew tab.pages.length s1
  match s2.mem.moves.find? fun x => x.id == id with
  | none => s2
  | some m => movePages id t m.homes s2

/-- Rack rewrites the entry of a page whose copies have ended (R315). -/
def rewritePage (m : MoveJob) (page : Nat) (s : State) : State :=
  let s1 := updTab m.obj (fun x => { x with pages := x.pages.set page (m.homes.getD page (x.pages.getD page ⟨0, 0, none⟩)) }) s
  startPlan (.move m.id) islRck 63 [tabWrites s s1 m.obj] s1
/-- A spill or fill whose copies have ended (R315): a spill returns the pages, or takes its entries back when a copy has failed; a
fill clears the spilled bit, or the sequence is retired. What waited for the table then comes to it (R314). -/
def endMove (m : MoveJob) (s0 : State) : State :=
  let s := updMem (fun x => { x with moves := x.moves.filter fun y => y.id != m.id }) s0
  let e := (s.loop m.loop).seqs.get m.seq
  if m.obj = 0 || e.st != .spilled || hIdx e.kv != m.obj then s else
  let resident (s : State) : State :=
    writeEntry m.loop m.seq (updSeq m.loop m.seq (fun e => { e with st := .decode }) (setSpilled m.obj false s))
  let back (s : State) : State :=
    let s1 := updTab m.obj (fun x => { x with pages := m.olds }) s
    startPlan (.move m.id) islRck 63 [tabWrites s s1 m.obj] s1
  match m.kind, m.failed with
  | .spill, none => retireDue m.loop m.seq (writeEntry m.loop m.seq (pagesFreed s))
  | .spill, some _ => retireDue m.loop m.seq (resident (back s))
  | .fill, none => retireDue m.loop m.seq (resident s)
  | .fill, some c => retireSeq m.loop m.seq 3 0 c s
  | .refetch, _ => s

/-! ### Poison (R316, R406, R407) -/

/-- The loops whose valid model names an object as weights. -/
def loopsOf (s : State) (i : Nat) : List Nat :=
  (s.heat.loops.cells.filter fun g => (List.range 8).any fun m =>
    let x := g.2.models.get m
    x.valid && x.weights != 0 && hIdx x.weights == i).map Prod.fst
/-- Heat pauses the loops of an object and ends the residency of its models (R406 steps 1 and 2). -/
def pauseLoops (i : Nat) (s : State) : State :=
  let ls := loopsOf s i
  let s1 := each ls (fun s l => updLoop l (fun g =>
    if g.st == .running || g.st == .draining then { g with paused := some g.st, st := .paused } else g) s) s
  each s1.heat.residency.cells (fun s p => match p.2 with
    | some (l, m) => if ls.contains l && hIdx ((s.loop l).models.get m).weights == i then endModel p.1 s else s
    | none => s) s1

/-- A refetch cannot be made or has failed (R407): logged, and the object's loops stop. -/
def refetchFailed (i : Nat) (s : State) : State :=
  let o := s.rack.objs.get i
  let s1 := logRec .nothing { LogRec.zero with code := eRefetchFailed, island := islRck, ctx := o.owner, addr := o.base, info := i } s
  each (loopsOf s1 i) (fun s l => if (s.loop l).st == .stopped || (s.loop l).st == .failed then s else failLoop l ePoisonedObject s) s1

/-- Heat acts on one object that was marked poisoned. -/
def actPoison (s : State) (i : Nat) : State :=
  let o := s.rack.objs.get i
  if (s.mem.tabs.get i).isTable then
    each (s.heat.loops.cells.map Prod.fst) (fun s l => each (liveSeqs (s.loop l)) (fun s p =>
      if hIdx p.2.kv != i || p.2.kv = 0 then s
      else if p.2.inHeat then updSeq l p.1 (fun e => { e with ctxFailed := some ePoisonedObject }) s
      else retireSeq l p.1 3 0 ePoisonedObject s) s) s
  else if !o.shared || !o.poisoned then s
  else if !o.golden then refetchFailed i s
  else if refetching s i then
    updMem (fun m => { m with moves := m.moves.map fun x =>
      if x.kind == .refetch && x.obj == i then { x with failed := some ePoisonedObject } else x }) s
  else pauseLoops i (updMem (fun m => { m with refetchDue := m.refetchDue.filter (· != i) ++ [i] }) s)
/-- Heat acts on every object marked since it last looked. -/
def settlePoison (s : State) : State :=
  each s.mem.poisonSeen actPoison (updMem (fun m => { m with poisonSeen := [] }) s)

/-- Clusters that a refetch is spread over: those that no heat holds. -/
def refetchClusters (s : State) : List Nat :=
  let heldC := s.heat.loops.cells.flatMap fun g => (List.range 8).flatMap fun k =>
    let h := g.2.slots.get k
    if h.st == .free then [] else crewClusters s h.epoch h.crew
  (copyClusters s).filter fun c => !(heldC.contains c)

/-- Rack has Slide copy an object from its golden copy (R406 step 3). -/
def beginRefetch (i : Nat) (again : Bool) (s : State) : State :=
  let o := s.rack.objs.get i
  let id := s.mem.nextId
  let s1 := updMem (fun m => { m with nextId := id + 1, moves := m.moves ++ [⟨id, .refetch, i, 0, 0, [], [], 0, none, again, s.now⟩] }) s
  addMoves id 0 0 o.partition (refetchClusters s) (moveCmds o.goldenAddr.toNat o.base o.size) s1

/-- The loops of a clean object return to their remembered state (R406 step 5). -/
def resumeLoops (i : Nat) (s : State) : State :=
  each (loopsOf s i) (fun s l =>
    let dirty := (List.range 8).any fun m =>
      let x := (s.loop l).models.get m
      x.valid && x.weights != 0 && (objOf s x.weights).poisoned
    if dirty then s else checkLoop l (updLoop l (fun g => match g.paused with
      | some st => { g with st := st, paused := none }
      | none => g) s)) s

/-- The copies of a refetch have ended (R406 step 4, R407). -/
def endRefetch (m : MoveJob) (s0 : State) : State :=
  let s := updMem (fun x => { x with moves := x.moves.filter fun y => y.id != m.id }) s0
  match m.failed with
  | none => resumeLoops m.obj (updObj m.obj (fun o => { o with poisoned := false }) s)
  | some _ => if m.again then refetchFailed m.obj s else beginRefetch m.obj true s

/-- One piece of a page of a move has ended, with a code when it failed; it is Slide's no more. -/
def movePiece (id page : Nat) (code : Option (BitVec 16)) (s : State) : State :=
  let s1 := updMem (fun m => { m with moves := m.moves.map fun x =>
    if x.id == id then { x with left := x.left - 1, failed := x.failed.or code } else x }) s
  match s1.mem.moves.find? fun x => x.id == id with
  | none => s1
  | some m =>
    let more := s1.sld.pieces.any fun p => p.for_ == .move id page
    let s2 := if m.kind == .refetch || m.failed.isSome || more then s1 else rewritePage m page s1
    if m.left != 0 then s2 else match m.kind with
      | .refetch => endRefetch m s2
      | _ => endMove m s2

end Sys2Proof.Machine
end

