-- ==== Sys2Proof/Machine/Slide.lean ====
section
/-! DEFINITION. Slide: maps, copy pieces and the regulators, saving, vacating and restoring contexts (R307, R317 to R329). -/
namespace Sys2Proof.Machine

/-! ### Maps -/

/-- The slot that SLD_CTX_SEL names. -/
def sldSlot (s : State) : Nat := fld s.sld.sel 0 10
/-- A refused map command. -/
def mapRefuse (bad : Nat) (s : State) : State := updMap (sldSlot s) (fun c => { c with cmdErr := true, badRegion := bad }) s

/-- The handle entries of regions that name one, the later of two for one handle. -/
def mapHandles (ctx : CtxId) (l : List Region) : List (Nat × List W64) :=
  (l.filter fun r => r.handle != 0).map fun r => (r.handle, handleWords ctx r)

/-- MAP_REGISTER (R317, R322): the map is what Slide's reads of it found. -/
def mapRegisterOp (m : MemRead) (s0 : State) : State :=
  let slot := sldSlot s0
  let x := s0.slot slot
  let addr := fld (s0.map slot).map 6 50 * 64
  if blank s0 || !(computeUp s0) || x.st == .free then mapRefuse 0 s0
  else
    let s := ownRead islSld addr x.ctxId (64 + 16 * (mapRegions m.bytes).length) s0
    match m.err with
    | .target => targetLost 0 islSld addr x.ctxId s
    | .ok =>
      let l := mapRegions m.bytes
      if l.isEmpty then mapRefuse 0 s
      else match firstBadRegion s slot [] l with
        | some i => mapRefuse i s
        | none =>
          let hs := mapHandles x.ctxId l
          let s1 := updSld (fun d => { d with handles := each hs (fun t h => t.set h.1 (some slot)) d.handles }) s
          startHandles slot hs (updMap slot (fun c => { c with cmdErr := false, badRegion := 0, regions := l }) s1)
    | e => mapRefuse 0 (if e == .poison then poisonMark addr s else s)
/-- The driver must not write SLD_CTX_CMD while busy reads 1 (R332; R1: a violation's behaviour is not defined). -/
def execMapRegister (m : MemRead) (s : State) : Out :=
  if (s.map (sldSlot s)).busy != 0 then .fault (.portProtocol "SLD_CTX_CMD") else powered s (mapRegisterOp m s)

/-- The context of a slot is held by a save at some cluster. -/
def slotHeld (s : State) (slot : Nat) : Bool := saveHolds s (s.slot slot).ctxId
/-- UNREGISTER (R332). -/
def unregisterOp (s : State) : State :=
  let slot := sldSlot s
  if blank s || !(computeUp s) || (s.slot slot).st == .free || slotHeld s slot then mapRefuse 0 s
  else unregisterMap slot (updMap slot (fun c => { c with cmdErr := false, badRegion := 0 }) s)
def execUnregister (s : State) : Out :=
  if (s.map (sldSlot s)).busy != 0 then .fault (.portProtocol "SLD_CTX_CMD") else powered s (unregisterOp s)

/-! ### Copy pieces and jobs -/

def execCopyPieceLaunch (s : State) : Out := .next (copyPieceLaunchOp s)

/-- The sync records of a restore's clusters are read (R328). -/
def readBlocks (j : SaveJob) (s : State) : State :=
  each j.clusters (fun s x =>
    startFetch (.restore j.id x.cluster) islSld 63 false j.ctx ((List.range 5).map fun i => blockAddr j x.cluster + 64 * i) s) s
/-- Begin a restore (R328) of an area whose header gives the block size; Heat's reads the header first (R329). -/
def startRestore (who : JobWho) (ctx : CtxId) (area : Nat) (need : Option Nat) (cs : List Nat) (m : LaunchMsg) (s : State) : State :=
  let id := s.sld.nextId
  let j : SaveJob := ⟨id, .restore, who, ctx, area, 0, cs.map (newCl .fetch s.now), m, need.getD 0, false⟩
  let s1 := updSld (fun d => { d with nextId := id + 1, jobs := d.jobs ++ [j] }) s
  if need.isSome then readBlocks j s1 else startFetch (.restoreHead id) islSld 63 false ctx [area, area + 64] s1
/-- A save area's header, read as memory answered, fits a restore of a context on clusters (R328). -/
def headerFits (b : List Byte) (ctx : CtxId) (cs : List Nat) : Bool :=
  leAt b 0 2 == ctx.toNat && leAt b 2 1 % 4 == 2 && (List.range 512).all fun c => (Nat.testBit (leAt b 64 64) c) == cs.contains c

/-- The tree a job's messages travel on. -/
def jobTree (s : State) (j : SaveJob) : Nat := seatTree s j.msg.seat

/-- Send the RELEASE of one cluster's hold and forget it (R204, R328). -/
def releaseHold (j : SaveJob) (c hold : Nat) (s : State) : State :=
  let m : LaunchMsg := { LaunchMsg.blank .release with
    epoch := j.msg.epoch, replay := j.msg.replay, seat := j.msg.seat, entry := j.msg.entry, tag := j.msg.tag,
    ctx := j.ctx, target := c, scope := 0, holdId := hold }
  let s1 := sendTree (jobTree s j) m (updSld (fun d => { d with
    held := d.held.filter fun h => !(h.2.1 == c && h.2.2 == hold && h.1 == j.ctx) }) s)
  recheckCores s1

/-- The hold slot that a restore's cluster is held with. -/
def restoreHold (s : State) (j : SaveJob) (c : Nat) : Option Nat :=
  (s.sld.held.find? fun h => h.1 == j.ctx && h.2.1 == c).map fun h => h.2.2

/-- Marshal hears that one cluster of a program's job is done: its group counter falls (R137). -/
def reportCluster (j : SaveJob) (s : State) : State :=
  match j.who with
  | .prog o seat g => seatEvent seat o (subGroup o g 1 s)
  | _ => s

/-- Remove a finished job. -/
def dropJob (id : Nat) (s : State) : State := updSld (fun d => { d with jobs := d.jobs.filter fun j => j.id != id }) s

/-- A cluster of a job is finished and reported. When all are, the area's last header is written (R325), of which a restore leaves
saved_at as it is; a save's last report waits for it (DEDUCED, assumption 44). -/
def clusterDone (id c : Nat) (s : State) : State :=
  let s1 := updCl id c (fun x => { x with st := .done }) s
  match jobOf s1 id with
  | none => s1
  | some j =>
    if j.clusters.any fun x => x.st != .done then reportCluster j s1
    else if j.failed || j.kind == .vacate then reportCluster j (dropJob id s1)
    else
      let line := (lineWrites j.ctx j.area (headerWords s1 j (if j.kind == .save then 2 else 3))).take 1
      if j.kind == .save then startPlan (.saveFinal id) islSld 63 [line] s1
      else reportCluster j (startPlan (.saveFinal id) islSld 63 [line.map fun w => { w with bytes := w.bytes.take 8 }] s1)
/-- The last header is written. -/
def jobFinal (id : Nat) (s : State) : State :=
  match jobOf s id with
  | none => s
  | some j => if j.kind == .save then reportCluster j (dropJob id s) else dropJob id s

/-- Finish a cluster of a failed job: no hold of this job stays, and Marshal's count falls. -/
def abandonCluster (j : SaveJob) (c : Nat) (s : State) : State :=
  let s1 := match j.kind with
    | .restore => s
    | _ => releaseHold j c j.holdId s
  clusterDone j.id c s1

/-- A job stops: pieces not launched go, and every cluster that waits for nothing in flight is finished (R202). -/
def abortJob (id : Nat) (s : State) : State :=
  match jobOf s id with
  | none => s
  | some j =>
    if j.failed then s else
    let mine (p : CopyPiece) : Bool := match p.for_ with | .job i _ => i == id | _ => false
    let out := (s.sld.pieces.filter fun p => mine p && p.launched).map (·.cluster)
    let s1 := updSld (fun d => { d with pieces := d.pieces.filter fun p => !(mine p) || p.launched })
      (updJob id (fun j => { j with failed := true }) s)
    each (j.clusters.filter fun x => x.st != .done && !(out.contains x.cluster)) (fun s x => abandonCluster j x.cluster s) s1

/-- The jobs of an owner stop. -/
def abortOwner (o : Owner) (s : State) : State :=
  let mine (j : SaveJob) : Bool := match j.who, o with
    | .prog p _ _, _ => p == o
    | .heat l k, .heat l' k' => l == l' && k == k'
    | _, _ => false
  each (s.sld.jobs.filter mine) (fun s j => abortJob j.id s) s

/-- A job meets an error of its own: its owner fails with class 1 and the job stops. -/
def jobError (id : Nat) (code : BitVec 16) (addr : Nat) (s : State) : State :=
  match jobOf s id with
  | none => s
  | some j =>
    let r : LogRec := { LogRec.zero with cls := 1, code := code, island := islSld, ctx := j.ctx, addr := addr }
    abortJob id (match j.who with
      | .prog o _ _ => ownerError o 1 r s
      | .heat l k => ownerError (.heat l k) 1 r s
      | .heatRestore => logRec .nothing r s)

/-! ### Capture and blocks (R229, R325) -/

/-- The 64 lines of a cluster block's head: sync record, overflow, bytes saved. -/
def blockWords (s : State) (j : SaveJob) (x : ClJob) : List W64 :=
  let ctr (i : Nat) : Nat := if x.valid then x.ctrs.getD i 0 else 0
  [w64 (j.ctx.toNat + put x.cluster 16 9 + putb x.valid 25), w64 s.now] ++
  ((List.range 24).map fun i => w64 (ctr (2 * i) + ctr (2 * i + 1) * 2 ^ 32)) ++ List.replicate 6 0 ++
  [w64 x.overflow, w64 x.bytes] ++ List.replicate 478 0

/-- The Rowlock captures a context's counters at a cluster whose hold is complete (R229). -/
def captureRow (ctx : CtxId) (c : Nat) (s : State) : (Bool × List Nat) × State :=
  let row := s.row c
  if row.resident == some ctx then
    ((true, (List.range 48).map row.sync.get), updRow c (fun r => { r with resident := none, sync := Tab.const 0 }) s)
  else ((false, []), s)

/-- The copies of a cluster are done: capture, then write the block, or for a vacate release and report. -/
def captureCluster (j : SaveJob) (c : Nat) (s : State) : State :=
  let ((valid, ctrs), s1) := captureRow j.ctx c s
  if j.kind == .vacate then settleRow c (clusterDone j.id c (releaseHold j c j.holdId s1))
  else
    let s2 := updCl j.id c (fun x => { x with st := .sync, valid := valid, ctrs := ctrs }) s1
    match jobOf s2 j.id with
    | none => s2
    | some j2 => match j2.clusters.find? fun x => x.cluster == c with
      | none => s2
      | some x => settleRow c (startPlan (.saveBlock j.id c) islSld 63 [lineWrites j.ctx (blockAddr j2 c) (blockWords s j2 x)] s2)

/-- The partition a context's copies are charged to (R307). -/
def jobPart (s : State) (j : SaveJob) : Nat := ctxPartition s j.ctx

/-- Copy between a cluster and its block, or go on at once when there is nothing to copy. -/
def copyCluster (j : SaveJob) (c : Nat) (cmds : List CopyCmd) (overflow : Nat) (s : State) : State :=
  let s1 := updCl j.id c (fun x => { x with st := .write, overflow := overflow, bytes := cmdBytes cmds }) s
  addPiece (.job j.id c) c (jobTree s j) (jobPart s j) (blockAddr j c + 0x1000) j.ctx
    { j.msg with ctx := j.ctx, priority := ctxPriority s j.ctx, scope := 0, holdId := 0 } cmds none true s1

/-- HOLD_COMPLETE (R326, R327): Slide takes the counters and copies, or captures at once. -/
def holdCompleteOp (c hold : Nat) (s : State) : State :=
  if !(computeUp s) then s else
  match (s.row c).holds.find? fun h => h.1 == hold with
  | none => s
  | some (_, h) =>
    match s.sld.jobs.find? fun j => j.kind != .restore && !j.failed && j.holdId == hold && j.ctx == h.ctx &&
        j.clusters.any fun x => x.cluster == c && x.st == .hold with
    | none => s
    | some j =>
      if !h.complete then s
      else if j.kind == .vacate then captureCluster j c s
      else
        let row := s.row c
        let (cmds, ovf) := if row.resident == some j.ctx
          then regionCmds 0 (blockAddr j c + 0x2000) ((List.range 48).map row.sync.get) (fun _ => false) (ctxRegions s j.ctx)
          else ([], 0)
        if cmds.isEmpty then captureCluster j c (updCl j.id c (fun x => { x with overflow := ovf }) s)
        else copyCluster j c cmds ovf s
def execHoldComplete (c hold : Nat) (s : State) : Out :=
  if s.build.clusters ≤ c then .fault (.notBuilt "cluster") else .next (holdCompleteOp c hold s)

/-- RESTORE_BEGIN (R230, R328): no context is resident: the Rowlock restores, and the copies in begin. -/
def restoreBeginOp (c : Nat) (s : State) : State :=
  if !(computeUp s) || (s.row c).resident.isSome then s else
  match s.sld.jobs.find? fun j => j.kind == .restore && !j.failed && j.clusters.any fun x => x.cluster == c && x.st == .waitRow with
  | none => s
  | some j => match j.clusters.find? fun x => x.cluster == c with
    | none => s
    | some x =>
      let load (i : Nat) : Nat := if x.valid then x.ctrs.getD i 0 else 0
      let s1 := updRow c (fun r => { r with sync := each (List.range 48) (fun t i => t.set i (load i)) (Tab.const 0) }) s
      let s2 := becomeResident c j.ctx s1
      let (cmds, _) := if x.valid
        then regionCmds 1 (blockAddr j c + 0x2000) x.ctrs (fun i => Nat.testBit x.overflow i) (ctxRegions s j.ctx)
        else ([], 0)
      if cmds.isEmpty then
        let s3 := match restoreHold s2 j c with | some k => releaseHold j c k s2 | none => s2
        settleRow c (clusterDone j.id c s3)
      else settleRow c (copyCluster j c cmds x.overflow s2)
def execRestoreBegin (c : Nat) (s : State) : Out :=
  if s.build.clusters ≤ c then .fault (.notBuilt "cluster") else .next (restoreBeginOp c s)

/-! ### What answers continue -/

/-- The writes of a copy piece are answered. -/
def pieceWritten (id : Nat) (err : RespErr) (addr : Nat) (s : State) : State :=
  match s.sld.pieces.find? fun p => p.id == id with
  | none => s
  | some p =>
    if err == .ok then updSld (fun d => { d with pieces := d.pieces.map fun x => if x.id == id then { x with written := true } else x })
      (match p.for_ with | .job j c => updCl j c (fun x => { x with st := .copy }) s | .move _ _ => s)
    else
      let s1 := updSld (fun d => { d with pieces := d.pieces.filter fun x => x.id != id }) s
      match p.for_ with
      | .job j _ => jobError j (respCode err) addr s1
      | .move m i => recheckCores (movePiece m i (some (respCode err)) s1)

/-- The writes of a save's header, block or last header are answered. -/
def saveHeadDone (id : Nat) (err : RespErr) (addr : Nat) (s : State) : State :=
  if err == .ok then s else jobError id (respCode err) addr s
def saveBlockDone (id c : Nat) (err : RespErr) (addr : Nat) (s : State) : State :=
  match jobOf s id with
  | none => s
  | some j =>
    if j.failed then s
    else if err != .ok then jobError id (respCode err) addr s
    else clusterDone id c (updSld (fun d => { d with held := d.held ++ [(j.ctx, c, j.holdId)] }) s)
def saveFinalDone (id : Nat) (err : RespErr) (addr : Nat) (s : State) : State :=
  jobFinal id (if err == .ok then s else jobError id (respCode err) addr s)

/-- The sync record of a cluster has been read (R230, R325). -/
def restoreRead (id c : Nat) (f : Fetch) (s : State) : State :=
  match jobOf s id with
  | none => s
  | some j =>
    if j.failed then s
    else if f.err != .ok then jobError id (respCode f.err) f.errAddr s
    else
      let ws := (sortBy (fun a b => a.1 < b.1) f.got).flatMap fun l => l.2.take 8
      let half (i : Nat) : Nat := fld (wordAt ws (2 + i / 2)) (i % 2 * 32) 32
      updCl id c (fun x => { x with
        st := .waitRow, valid := bit (wordAt ws 0) 25, ctrs := (List.range 48).map half, overflow := fld (wordAt ws 32) 0 32 }) s

/-- The header of the save area of a restore of Heat's has been read (R328, R329). -/
def restoreHeadRead (id : Nat) (f : Fetch) (s : State) : State :=
  match jobOf s id with
  | none => s
  | some j =>
    if j.failed then s
    else if f.err != .ok then jobError id (respCode f.err) f.errAddr s
    else
      let b := wordsToBytes ((sortBy (fun a b => a.1 < b.1) f.got).flatMap fun l => l.2.take 8)
      if !(headerFits b j.ctx (j.clusters.map (·.cluster))) then jobError id eSaveState j.area s
      else
        let j1 : SaveJob := { j with needKib := leAt b 4 4 }
        readBlocks j1 (updJob id (fun _ => j1) s)

/-- A copy piece of a job has been reported. -/
def jobPieceDone (j : SaveJob) (c : Nat) (s : State) : State :=
  match j.kind with
  | .restore =>
    let s1 := match restoreHold s j c with | some k => releaseHold j c k s | none => s
    clusterDone j.id c s1
  | _ => captureCluster j c s

/-- The class of an error acts as far as it can for a copy that no entry or heat asked for: class 3 fails the context (R200). -/
def ownerlessReport (ctx : CtxId) (err : Option (Nat × BitVec 16)) (s : State) : State :=
  match err with
  | some (3, c) => failContext ctx 3 c s
  | _ => s

/-- A report of one of Slide's pieces (R307, R326, R328, R332). -/
def slideReport (c : Nat) (q : Report) (s : State) : State :=
  match s.sld.pieces.find? fun p => p.id == q.slide with
  | none => s
  | some p =>
    let n := if q.err.isNone then p.bytes else 0
    let s1 := updSld (fun d => { d with
      pieces := d.pieces.filter (fun x => x.id != p.id), copyBytes := satAdd 64 d.copyBytes n }) s
    let s2 := feedStaging (if q.err.isNone then ergCount 17 n { ctx := some p.msg.ctx } s1 else s1)
    match p.for_ with
    | .move m i => recheckCores (movePiece m i (q.err.map (·.2)) (ownerlessReport p.msg.ctx q.err s2))
    | .job id _ => match jobOf s2 id with
      | none => s2
      | some j =>
        if j.failed then abandonCluster j c s2
        else match q.err with
          | some e =>
            let s3 := match j.who with
              | .prog o _ _ => reportError o (some e) s2
              | .heat l k => reportError (.heat l k) (some e) s2
              | .heatRestore => ownerlessReport p.msg.ctx (some e) s2
            abortJob id s3
          | none => jobPieceDone j c s2

/-- PIECE_REPORT (R199): the oldest report of a cluster's Rowlock reaches Marshal, or Slide when the piece was Slide's. -/
def pieceReportOp (c : Nat) (s : State) : State :=
  if !(computeUp s) then s else
  match (s.row c).reports with
  | [] => s
  | q :: rest =>
    let s1 := updRow c (fun r => { r with reports := rest }) s
    if q.origin == 1 then slideReport c q s1 else programReport q s1
def execPieceReport (c : Nat) (s : State) : Out := .next (pieceReportOp c s)

/-- CANCEL_SEND (R202): Cox has no launch of the seat held and Slide's jobs of the entry have stopped; the CANCEL of the
oldest failure waiting goes out. -/
def cancelSendOp (s : State) : State :=
  if !(computeUp s) then s else
  match s.mar.cancels with
  | [] => s
  | (o, ctx, seat, entry) :: rest =>
    let seats := match o with
      | some _ => [seat]
      | none => (List.range s.build.seats).filter fun i => match s.prog? i with | some p => p.ctx == ctx | none => false
    if seats.any (launchHeld s) then s else
    let owners := match o with
      | some w => [w]
      | none => (s.mar.works.filter fun w => w.ctx == ctx).map (·.owner)
    let s1 := each owners (fun s o => abortOwner o s) (updMar (fun m => { m with cancels := rest }) s)
    sendCancel o ctx seat entry s1
def execCancelSend (s : State) : Out := .next (cancelSendOp s)

/-! ### SAVECTX and LOADCTX (R120, R326 to R328) -/

/-- The clusters and the hold scope that V names; none for an undefined crew. -/
def saveScope (s : State) (epoch : Bool) (v : Nat) : Option (List Nat × Nat × Nat) :=
  if v / 64 % 2 = 1 then some (List.range s.build.clusters, 2, 0)
  else
    let c := crewFor s epoch (v % 64)
    if c.defined then some (sortBy (fun a b => a < b) c.members, 1, v % 64) else none

/-- The message template of a program's job. -/
def jobMsg (s : State) (seat : Nat) (p : Prog) (ctx : CtxId) (g : Nat) : LaunchMsg :=
  progMsg s seat p ctx .piece g

def savectxWord : WordMeaning := fun k seat p w s =>
  let a := operandA p.regs w
  let v := (operandV p.regs w).toNat
  let g := w.opf % 4
  match actCtx s p w with
  | .error (cl, er) => wordFailAt k seat p cl er a s
  | .ok ctx =>
    let m := jobMsg s seat p ctx g
    match (if 128 ≤ v || a % 4096 != 0 then none else saveScope s m.epoch v) with
    | none => wordFailAt k seat p 1 eBadOperand a s
    | some (cs, scope, target) =>
      if (ctxRegions s ctx).isEmpty then wordFailAt k seat p 1 eSaveMap a s
      else if cs.any (heldBySave s ctx) then wordFailAt k seat p 1 eSaveState a s
      else if groupFull s p.owner g cs.length then stallCore k .order s
      else if treeRefuses s (seatTree s seat) then stallCore k .tree s
      else match freeHold s cs with
        | none => stallCore k .order s
        | some h =>
          let kind : JobKind := if a = 0 then .vacate else .save
          advance seat (startSave kind (.prog p.owner seat g) ctx a h (seatTree s seat) cs { m with scope := scope, target := target }
            (addGroup p.owner g cs.length (unreplayable p.owner s)))
def execWSavectx (k : Nat) (s : State) : Out := .next (runWord 0x40 true savectxWord k s)

/-- LOADCTX (R328): Slide's own read of the area's header is `header`. -/
def loadctxWord (header : MemRead) : WordMeaning := fun k seat p w s =>
  let a := operandA p.regs w
  let v := (operandV p.regs w).toNat
  let g := w.opf % 4
  match actCtx s p w with
  | .error (cl, er) => wordFailAt k seat p cl er a s
  | .ok ctx =>
    let m := jobMsg s seat p ctx g
    match (if 128 ≤ v || a % 4096 != 0 then none else saveScope s m.epoch v) with
    | none => wordFailAt k seat p 1 eBadOperand a s
    | some (cs, _, _) =>
      if (ctxRegions s ctx).isEmpty then wordFailAt k seat p 1 eSaveMap a s
      else if poisonedAt s a 4096 then wordFailAt k seat p 1 ePoisonedObject a s
      else if groupFull s p.owner g cs.length then stallCore k .order s
      else
        let s1 := ownRead islSld a ctx 128 s
        match header.err with
        | .target => targetLost 0 islSld a ctx s1
        | .ok =>
          if !(headerFits header.bytes ctx cs) then wordFailAt k seat p 1 eSaveState a s1
          else advance seat (startRestore (.prog p.owner seat g) ctx a (some (leAt header.bytes 4 4)) cs m
            (addGroup p.owner g cs.length (unreplayable p.owner s1)))
        | e => wordFailAt k seat p 1 (respCode e) a (if e == .poison then poisonMark a s1 else s1)
def execWLoadctx (k : Nat) (header : MemRead) (s : State) : Out := .next (runWord 0x41 true (loadctxWord header) k s)

end Sys2Proof.Machine
end

