-- ==== Sys2Proof/Machine/Stakeboat.lean ====
section
/-! DEFINITION. Stakeboat: waiters, the watch table, polling, release (R211 to R221). -/
namespace Sys2Proof.Machine

/-! ### Releasing a waiter (R128, R218) -/

/-- A seat's wait is over and its program may go on: at once when it was not parked, else when a core is free (R148). -/
def resumeWait (seat : Nat) (s : State) : State :=
  if (s.seat seat).st == .wait then releaseProg seat s
  else
    let s1 := updProg seat (fun p => { p with park := .none, deadline := none, pc := p.pc + 1 }) s
    match coreOf s1 seat with
    | some k => if (s1.core k).seats.head? == some seat && (s1.core k).st == .stall then runCore k s1 else s1
    | none => s1

/-- A seat's WAITF is released with the observed word (R128). -/
def releaseSeatWait (seat : Nat) (polled : Bool) (obs : W64) (s : State) : State :=
  match s.prog? seat with
  | none => s
  | some p => match p.park with
    | .waitf rd soft a =>
      let e := bit obs 63
      let s1 := noteRelease seat p 0 a e polled ((s.seat seat).st == .wait) s
      let s2 := updProg seat (fun p => { p with
        regs := p.regs.set rd obs, f := if soft then e else p.f }) s1
      if e && !soft then
        let k := (coreOf s2 seat).getD 0
        ownerError p.owner 1 { wordRec s2 k seat p eUpstreamFence with addr := a, aux := obs } s2
      else resumeWait seat s2
    | _ => s

/-- Release waiter `i` with the observed word (R218, R220). -/
def releaseWaiter (i : Nat) (obs : W64) (s : State) : State :=
  let w := s.stb.waiters.get i
  let s1 := dropWaiter i s
  match w.gate with
  | some (loop, seq) => updStb (fun b => { b with gateDone := b.gateDone ++ [(loop, seq, .ok, obs)] }) s1
  | none => releaseSeatWait i w.wasPolled obs s1

/-- A read for a wait returned xlat or poison: the waiter is removed and its command fails, soft or not (R128). -/
def failWaiter (i : Nat) (err : RespErr) (s : State) : State :=
  let w := s.stb.waiters.get i
  let s1 := dropWaiter i s
  match w.gate with
  | some (loop, seq) => updStb (fun b => { b with gateDone := b.gateDone ++ [(loop, seq, err, 0)] }) s1
  | none => match s1.prog? i with
    | some p => wordFailAt ((coreOf s1 i).getD 0) i p 1 (respCode err) w.addr s1
    | none => s1

/-- The waiters on one fence whose value an observed word meets (R75, R218). -/
def metWaiters (s : State) (addr : Nat) (ctx : CtxId) (obs : W64) : List Nat :=
  (s.stb.waiters.cells.filter fun p =>
    p.2.st != .idle && p.2.addr == addr && p.2.ctx == ctx && p.2.value.toNat ≤ obs.toNat).map Prod.fst
/-- Every waiter that an observed word meets is released by it (R218). -/
def releaseMet (addr : Nat) (ctx : CtxId) (obs : W64) (s : State) : State :=
  each (metWaiters s addr ctx obs) (fun s i => releaseWaiter i obs s) s

/-! ### The watch table (R211, R213) -/

/-- The entry that covers a line in a context. -/
def covering (s : State) (line : Nat) (ctx : CtxId) : Option Nat :=
  (s.stb.watch.cells.find? fun p => p.2.st != .free && p.2.line == line && p.2.ctx == ctx).map Prod.fst
/-- A free entry: which one is taken is not said (R213), so a free value chooses where the search starts. -/
def freeWatch (s : State) : Option Nat :=
  let n := 2 ^ s.build.watchLog2
  let used := (s.stb.watch.cells.filter fun p => p.2.st != .free).map Prod.fst
  if n ≤ used.length then none
  else
    let i := leastFree used (used.length + 1) (s.freeValue 3 % n)
    some (if i < n then i else leastFree used (used.length + 1) 0)
/-- The oldest lingering entry (R217). -/
def oldestLinger (s : State) : Option Nat :=
  (best (fun a b => a.2.linger.getD 0 < b.2.linger.getD 0)
    (s.stb.watch.cells.filter fun p => p.2.st == .armed && p.2.linger.isSome)).map Prod.fst

/-- Ask the memory to disarm an entry (R217). -/
def disarm (e : Nat) (s : State) : State :=
  hangEv islStb 0x01 (6 + put ((s.stb.watch.get e).line / 256) 16 48)
    (updWatch e (fun w => { w with st := .disarming, linger := none, dirty := false, asked := s.now, late := false }) s)
/-- Ask the memory to arm an entry for a line. -/
def arm (e line : Nat) (ctx : CtxId) (s : State) : State :=
  hangEv islStb 0x01 (6 + put (line / 256) 16 48)
    (updWatch e (fun _ => { Watch.reset with st := .arming, line := line, ctx := ctx, asked := s.now }) s)

/-- A waiter waits on an entry's answer. -/
def awaitEntry (i e : Nat) (s : State) : State :=
  let n := s.stb.nextOrder
  moveWaiter i (fun w => { w with st := .arming, entry := some e, order := n }) (updStb (fun b => { b with nextOrder := n + 1 }) s)
/-- Issue a read of a waiter's own fence; `verify` tells the verify read of R213. -/
def readFor (i : Nat) (verify : Bool) (s : State) : State :=
  let w := s.stb.waiters.get i
  ergCount 11 1 { ctx := some w.ctx } (issueAt opOr w.addr w.ctx 0 0 (.waitRead i w.gen verify) islStb
    (updWaiter i (fun w => { w with reads := w.reads + 1 }) s))
/-- The fence words of an entry's line that have a waiter attached, one each. -/
def watchedWords (s : State) (e : Nat) : List Nat :=
  ((s.stb.waiters.cells.filter fun p =>
    (p.2.st == .verify || p.2.st == .watched) && p.2.entry == some e).map fun p => p.2.addr).eraseDups

/-- Read every fence word of a dirty entry that has a waiter (R214). -/
def rereadEntry (e : Nat) (s : State) : State :=
  let w := s.stb.watch.get e
  let l := watchedWords s e
  if w.st == .armed && w.dirty && w.reads == 0 && !l.isEmpty then
    let s1 := updWatch e (fun w => { w with dirty := false, reads := l.length }) s
    each l (fun s a => ergCount 11 1 { ctx := some w.ctx } (issueAt opOr a w.ctx 0 0 (.watchRead e a) islStb
      (updStb (fun b => { b with rereads := satAdd 64 b.rereads 1 }) s))) s1
  else s

/-- Attach a waiter to an ARMED entry and make its verify read. An entry that was dirty without waiters is now read for (R214). -/
def attach (i e : Nat) (s : State) : State :=
  rereadEntry e <| readFor i true (moveWaiter i (fun w => { w with st := .verify, entry := some e })
    (updWatch e (fun w => { w with linger := none }) s))
/-- A waiter is polled (R216). -/
def pollWaiter (i : Nat) (s : State) : State :=
  moveWaiter i (fun w => { w with st := .polled, entry := none, wasPolled := true, lastPoll := s.now }) s

/-- The procedure of R213 from the search for an entry on. -/
def seekEntry (i : Nat) (s : State) : State :=
  let w := s.stb.waiters.get i
  let line := lineOf w.addr
  match covering s line w.ctx with
  | some e => if (s.stb.watch.get e).st == .armed then attach i e s else awaitEntry i e s
  | none => match freeWatch s with
    | some e => awaitEntry i e (arm e line w.ctx s.nextFree)
    | none => match oldestLinger s with
      | some e => awaitEntry i e (disarm e s)
      | none => pollWaiter i s

/-- The waiters on an entry's answer, the first first. -/
def awaiting (s : State) (e : Nat) : List Nat :=
  (sortBy (fun a b => a.2.order < b.2.order)
    (s.stb.waiters.cells.filter fun p => p.2.st == .arming && p.2.entry == some e)).map Prod.fst
/-- Polled waiters, the one that has waited longest first. -/
def polledWaiters (s : State) : List Nat :=
  (sortBy (fun a b => if a.2.since != b.2.since then a.2.since < b.2.since else a.1 < b.1)
    (s.stb.waiters.cells.filter fun p => p.2.st == .polled)).map Prod.fst

/-- Offer a free entry to the polled waiters: one whose line is covered joins that entry, the first other arms it (R216). -/
def offerPolled (e : Nat) : List Nat → State → State
  | [], s => s
  | i :: rest, s =>
    let w := s.stb.waiters.get i
    if (covering s (lineOf w.addr) w.ctx).isSome then offerPolled e rest (seekEntry i s)
    else awaitEntry i e (arm e (lineOf w.addr) w.ctx s)

/-- A disarm is answered: the entry goes to the first waiter on it, else to a polled one (R213, R216). -/
def disarmed (e : Nat) (s : State) : State :=
  let ws := awaiting s e
  let s1 := updWatch e (fun _ => Watch.reset) s
  match ws with
  | [] => offerPolled e (polledWaiters s1) s1
  | i :: rest =>
    let w := s1.stb.waiters.get i
    let s2 := match covering s1 (lineOf w.addr) w.ctx with
      | some _ => seekEntry i s1
      | none => awaitEntry i e (arm e (lineOf w.addr) w.ctx s1)
    each rest (fun s j => seekEntry j s) s2

/-- An arm is answered (R213, R220). -/
def armed (e : Nat) (ok : Bool) (s : State) : State :=
  let ws := awaiting s e
  if ok then
    let s1 := updWatch e (fun w => { w with st := .armed, linger := if ws.isEmpty then some s.now else none }) s
    each ws (fun s i => attach i e s) s1
  else
    each ws (fun s i => pollWaiter i s)
      (updStb (fun b => { b with armRefused := satAdd 64 b.armRefused 1 }) (updWatch e (fun _ => Watch.reset) s))

/-- A watch-table index that the build has. -/
def watchBuilt (s : State) (e : Nat) : Bool := e < 2 ^ s.build.watchLog2

/-- MW_RESPONSE (R28, R213): the answer to an arm or a disarm. One that a compute reset discards leaves a disarm owed
(R215). -/
def execMwResponse (e : Nat) (ok : Bool) (s : State) : Out :=
  if !(watchBuilt s e) then .fault (.notBuilt "mw_req_idx") else
  let w := s.stb.watch.get e
  let s1 := rspEv islStb 6 e .ok s
  if s.ump.rst == .dead then .next s
  else if w.owed then .fault (.portProtocol "mw_rsp")
  else match w.st with
  | .arming => .next (if inReset s then updWatch e (fun w => { w with owed := true }) s1 else armed e ok s1)
  | .disarming => .next (if inReset s then updWatch e (fun w => { w with owed := true }) s1 else disarmed e s1)
  | _ => .fault (.portProtocol "mw_rsp")

/-! ### Notices (R214, R215) -/

/-- Mark an ARMED entry dirty and read for it. -/
def dirtyEntry (s : State) (e : Nat) : State :=
  if (s.stb.watch.get e).st == .armed then rereadEntry e (updWatch e (fun w => { w with dirty := true }) s) else s

/-- NOTICE (R214); discarded during a compute reset (R47). -/
def execNotice (e : Nat) (s : State) : Out :=
  if !(watchBuilt s e) then .fault (.notBuilt "mn_idx")
  else if !(computeUp s) then .next s
  else .next (dirtyEntry (ergCount 14 1 {} s) e)

/-- Mark every ARMED entry dirty (R215). -/
def dirtyAll (s : State) : State := each (s.stb.watch.cells.map Prod.fst) dirtyEntry s
/-- NOTICE_LOST (R215). -/
def noticeLostOp (s : State) : State :=
  let s1 := updStb (fun b => { b with noticesLost := satAdd 64 b.noticesLost 1 }) s
  if computeUp s then dirtyAll s1 else s1
def execNoticeLost (s : State) : Out := powered s (noticeLostOp s)

/-! ### Answers to reads (R213, R214, R216) -/

/-- A timeout that waited for a read in flight fires once no read is left for the waiter (R218). -/
def checkTimedOut (i : Nat) (s : State) : State :=
  let w := s.stb.waiters.get i
  if w.st != .idle && w.timedOut && !(readOut s w) then
    match w.gate with
    | some _ => dropWaiter i s
    | none => match s.prog? i with
      | some p => failWait i p s
      | none => s
  else s

/-- A read made for waiter `i` has returned (R213, R220). -/
def waitReadDone (i gen : Nat) (verify : Bool) (err : RespErr) (obs : W64) (s : State) : State :=
  let w := s.stb.waiters.get i
  if w.st == .idle || w.gen != gen then s else
    let s1 := updWaiter i (fun w => { w with reads := w.reads - 1 }) s
    if err != .ok then failWaiter i err s1
    else
      let s2 := releaseMet w.addr w.ctx obs s1
      if (s2.stb.waiters.get i).st == .idle || (s2.stb.waiters.get i).gen != gen then s2
      else if w.timedOut then checkTimedOut i s2
      else match w.st with
        | .read =>
          let s3 := seekEntry i s2
          match w.gate, s3.prog? i with
          | none, some p => (match p.park, coreOf s3 i with
            | .waitf _ _ _, some k => if (s3.seat i).st == .run then parkSeat k i p.park s3 else s3
            | _, _ => s3)
          | _, _ => s3
        | .verify => if verify then moveWaiter i (fun w => { w with st := .watched }) s2 else s2
        | _ => s2

/-- A read made for a dirty entry has returned (R214). -/
def watchReadDone (e addr : Nat) (ctx : CtxId) (err : RespErr) (obs : W64) (s : State) : State :=
  let on := (s.stb.waiters.cells.filter fun p =>
    p.2.st != .idle && p.2.addr == addr && p.2.entry == some e).map Prod.fst
  let s1 := updWatch e (fun w => { w with reads := w.reads - 1 }) s
  let s2 := if err != .ok then each on (fun s i => failWaiter i err s) s1 else releaseMet addr ctx obs s1
  rereadEntry e (each on (fun s i => checkTimedOut i s) s2)

/-- POLL_READ (R216): one poll read of a polled waiter whose interval has passed. -/
def pollReadOp (i : Nat) (s : State) : State :=
  let w := s.stb.waiters.get i
  let n := (polledWaiters s).length
  let p := max (max 100 (fld s.stb.cfg 0 16) * 4) (16 * n)
  if w.st == .polled && !w.timedOut && computeUp s && p ≤ s.now - w.lastPoll then
    readFor i false (updWaiter i (fun w => { w with lastPoll := s.now }) s)
  else s
def execPollRead (i : Nat) (s : State) : Out := .next (pollReadOp i s)

/-- LINGER_EXPIRY (R217). -/
def lingerExpiryOp (e : Nat) (s : State) : State :=
  let w := s.stb.watch.get e
  match w.linger with
  | some t => if w.st == .armed && computeUp s && t + fld s.stb.cfg 16 8 * usTu ≤ s.now then disarm e s else s
  | none => s
def execLingerExpiry (e : Nat) (s : State) : Out := .next (lingerExpiryOp e s)

/-- When a compute reset begins every waiter is dropped (R220). -/
def dropWaiters (s : State) : State :=
  each ((s.stb.waiters.cells.filter fun p => p.2.st != .idle).map Prod.fst) (fun s i => dropWaiter i s)
    (updStb (fun b => { b with gateDone := [] }) s)

/-- When a compute reset ends: ARMED entries are dirty, and every entry whose answer was discarded is disarmed (R215). -/
def settleWatches (s : State) : State :=
  let s1 := each ((s.stb.watch.cells.filter fun p => p.2.st == .arming || p.2.st == .disarming).map Prod.fst)
    (fun s e => disarm e (updWatch e (fun w => { w with owed := false, reads := 0 }) s)) s
  dirtyAll (each ((s1.stb.watch.cells.filter fun p => p.2.st == .armed).map Prod.fst)
    (fun s e => updWatch e (fun w => { w with reads := 0 }) s) s1)

end Sys2Proof.Machine
end

