-- ==== Sys2Proof/Machine/Loops.lean ====
section
/-! DEFINITION. Heat's loops: the loop commands, request rings, result rings and gates (R246 to R258, R274). -/
namespace Sys2Proof.Machine

/-! ### The loop descriptor (R247 to R249) -/

/-- The word at an offset of a descriptor. -/
def dword (b : List Byte) (o : Nat) : W64 := w64 (leAt b o 8)

/-- Request ring `r` of a descriptor. -/
def descReq (now : Nat) (b : List Byte) (r : Nat) : ReqRing :=
  let w := dword b (0x80 + 16 * r)
  { ReqRing.reset with
    enabled := bit w 0, dev := bit w 1, log2 := fld w 2 5, base := fld w 12 52 * 4096, ctx := w16 (fld (dword b (0x88 + 16 * r)) 0 16),
    lastLook := now }
/-- Result ring `r` of a descriptor. -/
def descRes (b : List Byte) (r : Nat) : ResRing :=
  let w := dword b (0x180 + 16 * r)
  let v := dword b (0x188 + 16 * r)
  { ResRing.reset with
    enabled := bit w 0, dev := bit w 1, log2 := fld w 2 5, base := fld w 12 52 * 4096, irq := bit v 0, vector := fld v 1 11,
    holdoff := fld v 12 8 }
/-- Model record `m` of a descriptor (R248). -/
def descModel (b : List Byte) (m : Nat) : Model :=
  let w := dword b (0x280 + 32 * m)
  let v := dword b (0x288 + 32 * m)
  { valid := bit w 9, pool := fld w 0 4, drafts := fld w 4 5, minChunk := fld w 16 16, weights := w32 (fld w 32 32),
    load := w32 (fld v 0 32), loadVersion := fld v 32 16 }
/-- Shape record `i` of a descriptor (R248). -/
def descShape (b : List Byte) (i : Nat) : Shape :=
  let o := 0x380 + 32 * i
  let w := dword b o
  let v := dword b (o + 8)
  { valid := bit w 51, course := w32 (fld w 0 32), version := fld w 32 16, model := fld w 48 3, decodeMax := fld v 0 13,
    seqMax := fld v 16 13, tokenMax := fld v 32 32, chunkMax := fld (dword b (o + 0x10)) 0 32, crews := dword b (o + 0x18) }

/-- The tables of a descriptor. -/
def descTab {α : Type} (d : α) (f : Nat → α) (n : Nat) : Tab α := each (List.range n) (fun t i => t.set i (f i)) (Tab.const d)

/-- A course handle resolves to a course that is not retired (R249). -/
def courseLive (s : State) (h : W32) : Bool :=
  let c := s.rack.courses.get (hIdx h)
  !(objStale s h) && c.isCourse && !c.retired

/-- The checks of R249 on the models and shapes: the byte offset of the word, and whether it fails. -/
def modelChecks (s : State) (models : Tab Model) (shapes : Tab Shape) : List (Nat × Bool) :=
  let ofModel (m : Nat) (p : Shape → Bool) : Bool :=
    (List.range 16).any fun i => let x := shapes.get i; x.valid && x.model == m && p x
  ((List.range 8).flatMap fun m =>
    let x := models.get m
    [(0x280 + 32 * m, x.valid && (s.build.kvPools ≤ x.pool || !(ofModel m fun y => 1 ≤ y.decodeMax) ||
        !(ofModel m fun y => 1 ≤ y.chunkMax) ||
        (x.weights != 0 && (match refAddOp none x.weights 1 s with | .ok _ => false | .error _ => true)))),
     (0x288 + 32 * m, x.valid && x.load != 0 && !(courseLive s x.load))]) ++
  ((List.range 16).flatMap fun i =>
    let x := shapes.get i
    let m := models.get x.model
    let o := 0x380 + 32 * i
    [(o, x.valid && (!m.valid || !(courseLive s x.course))),
     (o + 8, x.valid && !(x.decodeMax ≤ x.seqMax && x.seqMax ≤ 2 ^ s.build.heatBatchLog2 &&
        x.decodeMax * (1 + m.drafts) ≤ x.tokenMax && 1 ≤ x.tokenMax)),
     (o + 0x10, x.valid && x.chunkMax != 0 && x.chunkMax < m.minChunk),
     (o + 0x18, x.valid && (x.crews == 0 ||
        (List.range 64).any fun k => bit x.crews k && !(s.rig.now.crews.get k).defined))])

/-- The checks of R249 on the rest of a descriptor. -/
def startChecks (s : State) (l : Nat) (b : List Byte) : List (Nat × Bool) :=
  let ctx : CtxId := w16 (fld (dword b 0) 0 16)
  let log2 := fld (dword b 0) 19 5
  let others := (List.range s.build.heatLoops).any fun k => k != l && (s.loop k).st != .stopped && (s.loop k).ctx == ctx
  let ringBad (o r : Nat) : Bool := let w := dword b (o + 16 * r); bit w 0 && (fld w 2 5 < 4 || 16 < fld w 2 5)
  let noRing (o : Nat) : Bool := (List.range 16).all fun r => !(bit (dword b (o + 16 * r)) 0)
  [(0, ctxSt s ctx != .live || others || log2 < 10 || s.build.heatLiveLog2 < log2 || fld s.mar.seatCfg 32 6 == 0),
   (0x08, fld (dword b 0x08) 0 6 != 0), (0x10, fld (dword b 0x10) 0 6 != 0), (0x18, fld (dword b 0x18) 0 6 != 0),
   (0x20, fld (dword b 0x20) 0 8 != 0), (0x28, fld (dword b 0x28) 0 6 != 0), (0x30, fld (dword b 0x30) 0 8 != 0),
   (0x80, noRing 0x80), (0x180, noRing 0x180)] ++
  (List.range 16).flatMap fun r =>
    [(0x80 + 16 * r, ringBad 0x80 r), (0x180 + 16 * r, ringBad 0x180 r),
     (0x88 + 16 * r, bit (dword b (0x80 + 16 * r)) 0 && ctxSt s (w16 (fld (dword b (0x88 + 16 * r)) 0 16)) != .live)]

/-- The least offset of a failing check. -/
def firstFail (l : List (Nat × Bool)) : Option Nat :=
  ((l.filter (·.2)).map Prod.fst).foldl (fun a o => match a with | none => some o | some x => some (min x o)) none

/-! ### Loop commands (R250) -/

/-- The loop that HEA_LOOP_SEL names. -/
def selLoop (s : State) : Nat := fld s.heat.loopSel 0 4
/-- A loop that the build has. -/
def loopBuilt (s : State) (l : Nat) : Bool := s.build.hasHeat && l < s.build.heatLoops
/-- A loop that has heats to begin or to finish. -/
def loopLive (g : Loop) : Bool := g.st == .running || g.st == .draining || g.st == .paused
/-- A refused loop command. -/
def loopRefuse (l bad : Nat) (s : State) : State := updLoop l (fun g => { g with cmdErr := true, badOffset := bad }) s
/-- Take the references on the valid models' weights. -/
def takeWeights (models : Tab Model) (s : State) : State :=
  each (List.range 8) (fun s m =>
    let x := models.get m
    if x.valid && x.weights != 0 then (match refAddOp none x.weights 1 s with | .ok s' => s' | .error _ => s) else s) s

/-- A loop command meets xlat or poison on its descriptor: class 2, E_LOOP_STATE (R386). -/
def loopReadError (l addr : Nat) (err : RespErr) (s : State) : State :=
  let s1 := if err == .poison then poisonMark addr s else s
  logRec (.loop l) { LogRec.zero with cls := 2, code := eLoopState, island := islHea, loop := l, addr := addr, ctx := 0xFFFF } s1

/-- The loop that START makes of a descriptor; the sequences, and the writes that Heat still owes, stay those of the loop. -/
def startedLoop (now : Nat) (g : Loop) (b : List Byte) : Loop :=
  { Loop.reset with
    st := .running, desc := g.desc, seqs := g.seqs, intent := g.intent, ctx := w16 (fld (dword b 0) 0 16), slotsM1 := fld (dword b 0) 16 3,
    liveLog2 := fld (dword b 0) 19 5, seqTable := fld (dword b 0x08) 0 56, paramArea := fld (dword b 0x10) 0 56,
    judgeArea := fld (dword b 0x18) 0 56, logitsArea := fld (dword b 0x20) 0 56, judgeStride := fld (dword b 0x28) 0 48,
    logitsStride := fld (dword b 0x30) 0 48, tag := fld (dword b 0x38) 0 48, timeout := fld (dword b 0x40) 0 16,
    kvWaitMs := fld (dword b 0x40) 16 16, reqs := descTab ReqRing.reset (descReq now b) 16, ress := descTab ResRing.reset (descRes b) 16,
    models := descTab Model.reset (descModel b) 8, shapes := descTab Shape.reset (descShape b) 16 }

/-- The gates of a loop's sequences are waited for no longer. -/
def dropGates (l : Nat) (s : State) : State :=
  each (liveSeqs (s.loop l)) (fun s p => dropGate l p.1 p.2.waiter s) s

/-- START (R250): the descriptor is what Heat's reads of it found. -/
def startLoop (clear : Bool) (desc : MemRead) (s0 : State) : State :=
  let l := selLoop s0
  let g := s0.loop l
  let addr := fld g.desc 6 50 * 64
  if !(loopBuilt s0 l) || !(computeUp s0) then s0
  else if blank s0 || !(g.st == .stopped || (clear && g.st == .failed)) then loopRefuse l 0 s0
  else
    let s := ownRead islHea addr 0xFFFF 2048 s0
    match desc.err with
    | .target => targetLost 0 islHea addr 0xFFFF s
    | .ok =>
      let b := desc.bytes
      let x := startedLoop s.now g b
      match firstFail (startChecks s l b ++ modelChecks s x.models x.shapes) with
      | some o => loopRefuse l o s
      | none =>
        let s1 := takeWeights x.models s
        if clear then
          let y : Loop := { x with st := .stopped, starting := true, seqs := Tab.const SeqEnt.reset }
          addIntent l { kind := .clear, writes := [] } (updLoop l (fun _ => y) (dropGates l s1))
        else updLoop l (fun _ => x) s1
    | e => updLoop l (fun g => { g with st := .stopped, errCode := eLoopState }) (loopRefuse l 0 (loopReadError l addr e s))

/-- The driver must not write HEA_LOOP_CMD while busy reads 1 (R274; R1: the behaviour is not defined). -/
def loopCmd (f : State → State) (s : State) : Out :=
  if (s.loop (selLoop s)).starting then .fault (.portProtocol "HEA_LOOP_CMD") else .next (f s)

def execLoopStart (desc : MemRead) (s : State) : Out := loopCmd (startLoop false desc) s
def execLoopStartClear (desc : MemRead) (s : State) : Out := loopCmd (startLoop true desc) s

/-- The writes of START with clear = 1 are answered: RUNNING, or E_LOOP_STATE. -/
def loopCleared (l : Nat) (err : RespErr) (addr : Nat) (s : State) : State :=
  if !(s.loop l).starting then s
  else if err == .ok then updLoop l (fun g => { g with st := .running, starting := false }) s
  else endLoop l .stopped eLoopState (loopReadError l addr err s)

/-- A command with nothing but a condition on the loop's state (R250). -/
def simpleLoopCmd (ok : LoopSt → Bool) (f : Loop → Loop) (s : State) : State :=
  let l := selLoop s
  if !(loopBuilt s l) || !(computeUp s) then s
  else if blank s || !(ok (s.loop l).st) then loopRefuse l 0 s
  else checkLoop l (updLoop l (fun g => { f g with cmdErr := false, badOffset := 0 }) s)

def stopLoopOp (s : State) : State :=
  simpleLoopCmd (fun st => st == .running || st == .draining) (fun g => { g with stopping := true }) s
def execLoopStop (s : State) : Out := loopCmd stopLoopOp s
def drainLoopOp (s : State) : State := simpleLoopCmd (fun st => st == .running) (fun g => { g with st := .draining }) s
def execLoopDrain (s : State) : Out := loopCmd drainLoopOp s

/-- Crews that hold a model whose weights a RELOAD has changed hold it no longer (R259). -/
def reloadResidency (l : Nat) (old new : Tab Model) (s : State) : State :=
  each s.heat.residency.cells (fun s p => match p.2 with
    | some (k, m) => if k == l && (old.get m).weights != (new.get m).weights then endModel p.1 s else s
    | none => s) s

/-- RELOAD (R250). -/
def reloadOp (desc : MemRead) (s0 : State) : State :=
  let l := selLoop s0
  let g := s0.loop l
  let addr := fld g.desc 6 50 * 64
  if !(loopBuilt s0 l) || !(computeUp s0) then s0
  else if blank s0 || !(g.st == .running || g.st == .draining) then loopRefuse l 0 s0
  else
    let s := ownRead islHea addr 0xFFFF 2048 s0
    match desc.err with
    | .target => targetLost 0 islHea addr 0xFFFF s
    | .ok =>
      let models := descTab Model.reset (descModel desc.bytes) 8
      let shapes := descTab Shape.reset (descShape desc.bytes) 16
      match firstFail (modelChecks s models shapes) with
      | some o => loopRefuse l o s
      | none =>
        let s1 := dropWeights l (takeWeights models s)
        reloadResidency l g.models models
          (updLoop l (fun x => { x with models := models, shapes := shapes, cmdErr := false, badOffset := 0 }) s1)
    | e => failLoop l eLoopState (loopRefuse l 0 (loopReadError l addr e s))
def execReload (desc : MemRead) (s : State) : Out := loopCmd (reloadOp desc) s

/-! ### Request rings (R251 to R253) -/

/-- Read the next record of a request ring, when Heat may (R252). -/
def readRequest (l r : Nat) (second : Bool) (s : State) : State :=
  let g := s.loop l
  let q := g.reqs.get r
  if !(loopLive g) || g.stopping || !q.enabled || q.stopped || q.reading || q.rec_.isSome || !(computeUp s) then s else
    startFetch (.request l r) islHea 63 (!q.dev) g.ctx [q.base + 64 * (q.next.toNat % 2 ^ q.log2)]
      (updLoop l (fun g => { g with reqs := g.reqs.upd r fun q =>
        { q with reading := true, second := second, again := false, lastLook := s.now } }) s)

/-- RQ_DOORBELL (R252): Heat reads the ring; when a read of it is out, again once that one has come back. -/
def rqDoorbellOp (ring : Nat) (s : State) : State :=
  let l := selLoop s
  if blank s || !(loopBuilt s l) then s
  else readRequest l ring false (updLoop l (fun g => { g with reqs := g.reqs.upd ring fun q =>
    { q with lastLook := s.now, again := q.reading } }) s)
def execRqDoorbell (ring : BitVec 4) (s : State) : Out := .next (rqDoorbellOp ring.toNat s)

/-- REQUEST_POLL (R252): 50 µs without a doorbell. -/
def requestPollOp (l r : Nat) (s : State) : State :=
  let q := (s.loop l).reqs.get r
  if loopBuilt s l && r < 16 && q.lastLook + 50 * usTu ≤ s.now then readRequest l r false s else s
def execRequestPoll (l r : Nat) (s : State) : Out := .next (requestPollOp l r s)

/-- RQ_RING_RESTART (R252, R274). -/
def rqRingRestartOp (bits : BitVec 16) (s : State) : State :=
  let l := selLoop s
  if !(loopBuilt s l) then s else
    each ((List.range 16).filter fun r => bits.getLsbD r && ((s.loop l).reqs.get r).stopped) (fun s r =>
      readRequest l r false (updLoop l (fun g => { g with reqs := g.reqs.upd r fun q => { q with stopped := false } }) s)) s
def execRqRingRestart (bits : BitVec 16) (s : State) : Out := .next (rqRingRestartOp bits s)

/-- A record of a request ring has been read (R252). -/
def requestRead (l r : Nat) (f : Fetch) (s : State) : State :=
  let upd (h : ReqRing → ReqRing) (s : State) : State := updLoop l (fun g => { g with reqs := g.reqs.upd r h }) s
  let s1 := upd (fun q => { q with reading := false }) s
  let ws := (f.got.headD (0, [])).2
  if f.err != .ok then
    logRec .nothing { LogRec.zero with
        cls := 2, code := eRequestRead, island := islHea, loop := l, addr := f.errAddr, ctx := (s.loop l).ctx, info := r }
      (upd (fun q => { q with stopped := true, second := false }) s1)
  else if !(bit (wordAt ws 0) 0) then
    let s2 := upd (fun q => { q with second := false }) s1
    if ((s1.loop l).reqs.get r).again then readRequest l r false s2 else s2
  else upd (fun q => { q with rec_ := some (ws.take 8, q.second, s.now), second := false }) s1

/-- Fields of a request record (R251). -/
def rqKind (w : List W64) : Nat := fld (wordAt w 0) 1 3
def rqGate (w : List W64) : Bool := bit (wordAt w 0) 5
def rqModel (w : List W64) : Nat := fld (wordAt w 0) 6 3
def rqRing (w : List W64) : Nat := fld (wordAt w 0) 9 4
def rqCharge (w : List W64) : CtxId := w16 (fld (wordAt w 0) 32 16)
/-- The check code over bytes 0x00 to 0x37 and 0x3A to 0x3F, with OWN taken as 1 (R251). -/
def requestCrc (w : List W64) : Nat :=
  let b := wordsToBytes ((wordAt w 0 ||| 1) :: (w.drop 1).take 7)
  crc16 (b.take 56 ++ b.drop 58)
def requestIntact (w : List W64) : Bool := fld (wordAt w 7) 0 16 == requestCrc w
/-- A request's fields fail a check (R251, R252). -/
def requestBad (g : Loop) (q : ReqRing) (w : List W64) : Bool :=
  let w0 := wordAt w 0
  rqCharge w != q.ctx || fld w0 13 19 != 0 || fld w0 48 16 != 0 ||
  (match rqKind w with
   | 1 =>
     fld (wordAt w 2) 56 8 != 0 || fld (wordAt w 3) 48 16 != 0 || fld (wordAt w 4) 56 8 != 0 || fld (wordAt w 5) 56 8 != 0 ||
     fld (wordAt w 6) 56 8 != 0 || !(g.models.get (rqModel w)).valid || !(g.ress.get (rqRing w)).enabled ||
     fld (wordAt w 2) 0 2 != 0 || fld (wordAt w 3) 0 24 == 0 || fld (wordAt w 3) 24 24 == 0 || fld (wordAt w 4) 0 2 != 0 ||
     fld (wordAt w 5) 0 6 != 0 ||
     (if rqGate w then fld (wordAt w 6) 0 3 != 0 else wordAt w 6 != 0 || fld (wordAt w 7) 16 48 != 0)
   | 2 =>
     fld w0 4 9 != 0 || wordAt w 2 != 0 || wordAt w 3 != 0 || wordAt w 4 != 0 || wordAt w 5 != 0 || wordAt w 6 != 0 ||
     fld (wordAt w 7) 16 48 != 0
   | _ => true)

/-- The write that clears OWN of a ring's next record. -/
def ownWrite (g : Loop) (r : Nat) (w : List W64) : MemWrite :=
  let q := g.reqs.get r
  ⟨!q.dev, q.base + 64 * (q.next.toNat % 2 ^ q.log2), g.ctx, [(wordAt w 0).setWidth 8 &&& 0xFE#8]⟩
/-- The ring goes on with its next record, which Heat reads. -/
def nextRequest (l r : Nat) (s : State) : State :=
  readRequest l r false
    (updLoop l (fun g => { g with reqs := g.reqs.upd r fun q => { q with next := q.next + 1, rec_ := none } }) s)

/-- Reject a malformed record (R252). -/
def rejectRequest (l r : Nat) (w : List W64) (s : State) : State :=
  let g := s.loop l
  let ring := if (g.ress.get (rqRing w)).enabled then rqRing w else 0
  let (rw, s1) := addResult l ring
    { kind := 4, seq := 0, charge := rqCharge w, code := eBadRequest, requestId := wordAt w 1, first := 0, total := 0 } s
  let s2 := logRec .nothing { LogRec.zero with code := eBadRequest, island := islHea, loop := l, ctx := rqCharge w, info := r } s1
  nextRequest l r (addIntent l { kind := .rejection, ring := r, count := (g.reqs.get r).next
                                 result := if rw.isEmpty then none else some (ring, (g.ress.get ring).written)
                                 rings := if rw.isEmpty then 0 else 2 ^ ring, writes := [rw, [ownWrite g r w]] } s2)

/-- The sequence that a NEW request claims (R251, R257, R258). -/
def newSeq (g : Loop) (r : Nat) (w : List W64) (kv : W32) : SeqEnt :=
  { SeqEnt.reset with
    st := if rqGate w then .gated else .prefill, stream := bit (wordAt w 0) 4, model := rqModel w, resultRing := rqRing w,
    requestRing := r, chargeCtx := rqCharge w, requestId := wordAt w 1, promptAddr := fld (wordAt w 2) 0 56,
    promptLen := fld (wordAt w 3) 0 24, maxNew := fld (wordAt w 3) 24 24, outputAddr := fld (wordAt w 4) 0 56,
    judgeParams := fld (wordAt w 5) 0 56, kv := kv, admitted := g.nextAdmit, gateFence := fld (wordAt w 6) 0 56,
    gateValue := fld (wordAt w 7) 16 48 }

/-- A FREE entry of the sequence table; which one is claimed is not said, so a free value chooses. -/
def freeSeq (s : State) (l : Nat) : Option Nat :=
  let g := s.loop l
  let n := 2 ^ g.liveLog2
  let used := (liveSeqs g).map Prod.fst
  if n ≤ used.length then none else
    let i := leastFree used (used.length + 1) (s.freeValue 10 % n)
    some (if i < n then i else leastFree used (used.length + 1) 0)

/-- Register the wait of a gate with a waiter record beyond the first 64, or try again in 10 µs (R254). -/
def startGate (l i : Nat) (s : State) : State :=
  let e := (s.loop l).seqs.get i
  let n := 2 ^ s.build.watchLog2
  match ((List.range (n - 64)).map (· + 64)).find? fun k => (s.stb.waiters.get k).st == .idle with
  | some k => registerWait k e.gateFence (s.loop l).ctx (w64 e.gateValue) (some (l, i))
      (updSeq l i (fun e => { e with waiter := some k }) s)
  | none => updSeq l i (fun e => { e with waiter := none, retryAt := s.now + 10 * usTu }) s

/-- Admit a NEW request, or leave it posted (R252, R258). -/
def admitRequest (l r : Nat) (w : List W64) (s : State) : State :=
  let g := s.loop l
  if g.st != .running || g.stopping then s else
  match freeSeq s l with
  | none => s
  | some i => match newTab (g.models.get (rqModel w)).pool g.ctx s.nextFree with
    | none => s
    | some (t, s1) =>
      let e := newSeq g r w (mkHandle t (s1.rack.objs.get t).gen)
      let s2 := updSeq l i (fun _ => e) (updLoop l (fun g => { g with nextAdmit := g.nextAdmit + 1 }) s1)
      let s3 := addIntent l { kind := .admission, ring := r, count := (g.reqs.get r).next, seq := i, kv := e.kv
                              writes := [tabWrites s s2 t, [seqWrite s2 l i], [ownWrite g r w]] } s2
      let s4 := if rqGate w then startGate l i s3 else s3
      let s5 := if ctxSt s (rqCharge w) == .failed then retireSeq l i 3 0 (ctxFailCode s (rqCharge w)) s4 else s4
      nextRequest l r s5

/-- A record whose check code does not match is read once more 2 µs after the first read (R89, R252). -/
def rereadRequest (l r at_ : Nat) (s : State) : State :=
  if s.now < at_ + 2 * usTu then s
  else readRequest l r true (updLoop l (fun g => { g with reqs := g.reqs.upd r fun q => { q with rec_ := none } }) s)

/-- Heat acts on the record a ring holds; `cancel` says which of the two rows asks. -/
def actRequest (cancel : Bool) (go : List W64 → State → State) (l r : Nat) (s : State) : State :=
  let g := s.loop l
  if !(loopLive g) || !(computeUp s) then s else
  match (g.reqs.get r).rec_ with
  | none => s
  | some (w, second, at_) =>
    if (rqKind w == 2) != cancel then s
    else if !(requestIntact w) && !second then rereadRequest l r at_ s
    else if !(requestIntact w) || requestBad g (g.reqs.get r) w then rejectRequest l r w s
    else go w s

/-- REQUEST_NEW (R252). -/
def requestNewOp (l r : Nat) (s : State) : State := actRequest false (admitRequest l r) l r s
def execRequestNew (l r : Nat) (s : State) : Out := .next (requestNewOp l r s)

/-- REQUEST_CANCEL (R253). -/
def cancelRequest (l r : Nat) (w : List W64) (s : State) : State :=
  let g := s.loop l
  let hits := (liveSeqs g).filter fun p => seqLive p.2 && p.2.requestId == wordAt w 1 && p.2.chargeCtx == rqCharge w
  let s1 := each hits (fun s p =>
    if p.2.inHeat then updSeq l p.1 (fun e => { e with cancel := true }) s else retireSeq l p.1 2 4 0 s) s
  nextRequest l r
    (addIntent l { kind := .cancel, ring := r, count := (g.reqs.get r).next, writes := [[ownWrite g r w]] } s1)
def requestCancelOp (l r : Nat) (s : State) : State := actRequest true (cancelRequest l r) l r s
def execRequestCancel (l r : Nat) (s : State) : Out := .next (requestCancelOp l r s)

/-! ### Result rings (R256, R274) -/

/-- RESULT_CONSUMED: a count is taken only when it lies between the one last taken and the records written. -/
def resultConsumedOp (ring : Nat) (v : W32) (s : State) : State :=
  let l := selLoop s
  if blank s || !(loopBuilt s l) then s else
    updLoop l (fun g => { g with ress := g.ress.upd ring fun x =>
      if (v - x.consumed).toNat ≤ (x.written - x.consumed).toNat then { x with consumed := v } else x }) s
def execResultConsumed (ring : BitVec 4) (v : W32) (s : State) : Out := .next (resultConsumedOp ring.toNat v s)

/-! ### Gates (R254) -/

/-- GATE_RELEASE (R254). -/
def gateReleaseOp (l i : Nat) (s : State) : State :=
  match s.stb.gateDone.find? fun g => g.1 == l && g.2.1 == i with
  | none => s
  | some (_, _, err, obs) =>
    let s1 := updStb (fun b => { b with gateDone := b.gateDone.filter fun g => !(g.1 == l && g.2.1 == i) }) s
    if ((s.loop l).seqs.get i).st != .gated || !(computeUp s) then s1
    else if err != .ok then retireAs .gateFailure l i 3 0 (respCode err) s1
    else if bit obs 63 then retireAs .gateFailure l i 3 0 eUpstreamFence s1
    else writeEntry l i (updSeq l i (fun e => { e with st := .prefill, waiter := none }) s1)
def execGateRelease (l i : Nat) (s : State) : Out := .next (gateReleaseOp l i s)

/-- GATE_RETRY (R254). -/
def gateRetryOp (l i : Nat) (s : State) : State :=
  let e := (s.loop l).seqs.get i
  let pending := e.waiter.isSome || s.stb.gateDone.any fun g => g.1 == l && g.2.1 == i
  if e.st == .gated && !pending && e.retryAt ≤ s.now && computeUp s then startGate l i s else s
def execGateRetry (l i : Nat) (s : State) : Out := .next (gateRetryOp l i s)

/-! ### What Heat's writes continue -/

/-- An address lies in a page table (R310). -/
def isTableAddr (s : State) (a : Nat) : Bool :=
  s.mem.tabs.cells.any fun t => t.2.isTable &&
    (let b := (s.rack.objs.get t.1).base
     (b ≤ a && a < b + 4096) || t.2.leaves.any fun l => l.2.2 ≤ a && a < l.2.2 + 4096)
/-- A page-table access returned xlat or poison (R386). -/
def tableError (addr : Nat) (s : State) : State :=
  raise5 { LogRec.zero with code := eBlockAccess, island := islRck, addr := addr, ctx := 0xFFFF } s
/-- A write of a plan of page-table writes is answered. -/
def tableWritten (err : RespErr) (addr : Nat) (s : State) : State := if err == .ok then s else tableError addr s

/-- A response error on one of Heat's writes (R275, R386): page tables, the sequence table, or results and output. -/
def heatWriteError (l addr : Nat) (s : State) : State :=
  let g := s.loop l
  if isTableAddr s addr then tableError addr s
  else
    let code := if g.seqTable ≤ addr && addr < g.seqTable + 64 * 2 ^ g.liveLog2 then eLoopState else eResultWrite
    let s1 := logRec (.loop l) { LogRec.zero with cls := 2, code := code, island := islHea, loop := l, addr := addr, ctx := g.ctx } s
    if g.st == .stopped || g.st == .failed then s1 else failLoop l code s1

/-- The writes of an intent other than a clear or a grow are answered. -/
def ringsWritten (l rings : Nat) (err : RespErr) (addr : Nat) (s : State) : State :=
  if err == .ok then ringIrqs l rings s else heatWriteError l addr s

end Sys2Proof.Machine
end

