-- ==== Sys2Proof/Machine/Placing.lean ====
section
/-! DEFINITION. Placing and composing heats, taking crews and giving them back, starting courses (R259 to R265, R270 to
R272). -/
namespace Sys2Proof.Machine

/-! ### Order (R259, R270) -/

/-- Heat's account of a context. -/
def shareOf (s : State) (c : CtxId) : Share :=
  match slotOf s c with
  | some i => s.heat.shares.get i
  | none => ⟨0, 0, 0⟩
/-- 1 for a share weight of 0, else 0 (R259, R270). -/
def zeroWeight (x : Share) : Nat := if x.weight = 0 then 1 else 0
/-- key(s) of a sequence. -/
def seqKey (s : State) (p : Nat × SeqEnt) : List Nat :=
  let x := shareOf s p.2.chargeCtx
  [zeroWeight x, x.vtime, p.2.admitted, p.1]
/-- Compare keys in order. -/
def keyLt : List Nat → List Nat → Bool
  | a :: r, b :: t => if a != b then a < b else keyLt r t
  | _, _ => false
/-- The ready sequences of a loop, the least key first. -/
def readySeqs (s : State) (l : Nat) : List (Nat × SeqEnt) :=
  sortBy (fun a b => keyLt (seqKey s a) (seqKey s b)) ((s.loop l).seqs.cells.filter fun p => seqReady p.2)

/-- A candidate of placement. -/
inductive Cand where
  | loop (l : Nat)
  | saved (x : SavedCtx)

/-- Recovery has steps of a loop left before placement resumes for it (R403 step 5). -/
def loopRecovers (s : State) (l : Nat) : Bool :=
  recovers s l || s.bhs.reruns.any fun x => x.1 == l

/-- A loop may begin a heat: running or draining, not stopping, a free heat slot, and not waiting for pages (R260). -/
def mayBeginHeat (s : State) (l : Nat) : Bool :=
  let g := s.loop l
  (g.st == .running || g.st == .draining) && !g.stopping && !g.barren && !(loopRecovers s l) &&
  (List.range (g.slotsM1 + 1)).any fun k => (g.slots.get k).st == .free
/-- What orders a candidate: priority; then, as between loops under R59 and R270, work of share weight 0 last; vtime; the loop or
context id. -/
def candKey (s : State) : Cand → List Nat
  | .loop l =>
    let (frozen, v) : Nat × Nat := match (readySeqs s l).head? with
      | some p => (zeroWeight (shareOf s p.2.chargeCtx), (shareOf s p.2.chargeCtx).vtime)
      | none => (0, 0)
    [3 - ctxPriority s (s.loop l).ctx, frozen, v, l]
  | .saved x => [3 - ctxPriority s x.ctx, zeroWeight (shareOf s x.ctx), (shareOf s x.ctx).vtime, x.ctx.toNat]
/-- The candidates in order. -/
def candidates (s : State) : List Cand :=
  let loops := (s.heat.loops.cells.map Prod.fst).filter fun l => mayBeginHeat s l && !(readySeqs s l).isEmpty
  sortBy (fun a b => keyLt (candKey s a) (candKey s b))
    (loops.map Cand.loop ++ (s.heat.saved.filter fun x => !x.restoring && ctxSt s x.ctx != .failed && ctxLive s x.ctx).map Cand.saved)

/-! ### Crews (R259, R271) -/

/-- Clusters that a heat in flight, a save or restore, or an owed vacate holds. -/
def busyClusters (s : State) : List Nat :=
  (s.heat.loops.cells.flatMap fun g => (List.range 8).flatMap fun k =>
    let h := g.2.slots.get k
    if h.st == .free then [] else crewClusters s h.epoch h.crew) ++
  (s.sld.jobs.flatMap fun j => j.clusters.map (·.cluster)) ++
  (s.heat.owed.flatMap fun o => crewClusters s o.2.2.2 o.2.1)
/-- None of some clusters is busy. -/
def clustersFree (s : State) (cs : List Nat) : Bool := let b := busyClusters s; cs.all fun c => !(b.contains c)
/-- Contexts other than a loop's own with live state on some clusters: those resident there. -/
def foreignOn (s : State) (lctx : CtxId) (cs : List Nat) : List CtxId :=
  (cs.filterMap fun c => match (s.row c).resident with | some x => if x == lctx then none else some x | none => none).eraseDups
/-- The save area registered for a context, when it has a map and an area (R326, R329). -/
def saveAreaOf (s : State) (c : CtxId) : Option Nat :=
  match slotOf s c with
  | some i =>
    let a := fld (s.map i).area 12 44 * 4096
    if (s.map i).registered && a != 0 then some a else none
  | none => none
/-- Hold slots that are free at every named cluster. -/
def freeHolds (s : State) (cs : List Nat) : Nat :=
  ((List.range 4).filter fun k => cs.all fun c => !((holdsUsed s c).contains k)).length
/-- The foreign contexts of a crew can all be saved for a loop of a context. -/
def canSave (s : State) (lctx : CtxId) (cs : List Nat) (l : List CtxId) : Bool :=
  l.length ≤ freeHolds s cs && l.all fun c =>
    ctxPriority s c < ctxPriority s lctx && (saveAreaOf s c).isSome && !(s.heat.saved.any fun x => x.ctx == c) &&
    !(cs.any (heldBySave s c))
/-- The rank of a free crew for model `m` of loop `l` (R259). -/
def affinityRank (s : State) (l m k : Nat) : Option Nat :=
  let cs := crewClusters s (epochBit s) k
  let lctx := (s.loop l).ctx
  match foreignOn s lctx cs with
  | [] => some (match s.heat.residency.get k with
    | some (l', m') => if l' == l && m' == m then 1 else 3
    | none => 2)
  | f => if canSave s lctx cs f then some 4 else none
/-- The first crew in affinity order among the free crews that a valid shape of model `m` names. -/
def pickCrew (s : State) (l m : Nat) : Option Nat :=
  let named (k : Nat) : Bool := (List.range 16).any fun i =>
    let x := (s.loop l).shapes.get i
    x.valid && x.model == m && bit x.crews k
  let l' := (List.range 64).filterMap fun k =>
    if named k && (s.rig.now.crews.get k).defined && clustersFree s (crewClusters s (epochBit s) k)
    then (affinityRank s l m k).map fun r => (r, k) else none
  (best (fun a b => if a.1 != b.1 then a.1 < b.1 else a.2 < b.2) l').map Prod.snd
/-- A free seat reserved for Heat and enabled; which one is taken is not said, so a free value chooses. -/
def pickHeatSeat (s : State) : Option Nat :=
  let used := s.heat.loops.cells.flatMap fun g => (List.range 8).filterMap fun k =>
    let h := g.2.slots.get k
    if h.st == .free then none else some h.seat
  let l := (List.range s.build.seats).filter fun i =>
    heatSeat s i && bit s.mar.seatEnable i && !(used.contains i) && (s.seat i).st == .empty
  l[s.freeValue 11 % max 1 l.length]?

/-! ### Composing (R260) -/

/-- The valid shapes of a model that may run on a crew. -/
def shapesFor (g : Loop) (m crew : Nat) : List (Nat × Shape) :=
  ((List.range 16).map fun i => (i, g.shapes.get i)).filter fun x => x.2.valid && x.2.model == m && bit x.2.crews crew
/-- The largest of a field over shapes. -/
def maxOf (f : Shape → Nat) (l : List (Nat × Shape)) : Nat := (l.map fun x => f x.2).foldl max 0

/-- A composition in progress. `waits` lists the decode sequences left out for want of pages. -/
structure Comp where
  members : List Member
  tokens : Nat
  decodes : Nat
  free : Nat
  waits : List Nat
  used : List Nat

/-- Result slots that a sequence's membership reserves (R256). -/
def slotsNeeded (e : SeqEnt) : Nat := if e.stream then 2 else 1
/-- A result ring's room (R256), less what the composition has taken. -/
def ringRoom (g : Loop) (c : Comp) (ring : Nat) : Nat :=
  let r := g.ress.get ring
  2 ^ r.log2 - (r.written - r.consumed).toNat - r.reserved - (c.used.filter (· == ring)).length
/-- A member is added. -/
def Comp.add (c : Comp) (i : Nat) (e : SeqEnt) (prefill sample : Bool) (drafts count pages : Nat) : Comp :=
  { c with
    members := c.members ++ [⟨i, e.chargeCtx, prefill, sample, drafts, count, e.pos, e.generated, slotsNeeded e, true, none⟩],
    tokens := c.tokens + count, decodes := if prefill then c.decodes else c.decodes + 1, free := c.free - pages,
    used := c.used ++ List.replicate (slotsNeeded e) e.resultRing }

/-- The decode sequences. -/
def composeDecodes (g : Loop) (p : Pool) (d dmax smax tmax : Nat) : List (Nat × SeqEnt) → Comp → Comp
  | [], c => c
  | (i, e) :: rest, c =>
    if c.decodes = dmax || c.members.length = smax || tmax < c.tokens + 1 + d then c
    else if ringRoom g c e.resultRing < slotsNeeded e then composeDecodes g p d dmax smax tmax rest c
    else
      let need := pagesFor p (e.pos + 1 + d) - pagesFor p e.pos
      if c.free < need then composeDecodes g p d dmax smax tmax rest { c with waits := c.waits ++ [i] }
      else composeDecodes g p d dmax smax tmax rest (c.add i e false true d (1 + d) need)
/-- The prefill sequences. -/
def composePrefills (g : Loop) (p : Pool) (minChunk smax tmax cmax : Nat) : List (Nat × SeqEnt) → Comp → Comp
  | [], c => c
  | (i, e) :: rest, c =>
    let room := tmax - c.tokens
    if c.members.length = smax || room < minChunk then c
    else if ringRoom g c e.resultRing < slotsNeeded e then composePrefills g p minChunk smax tmax cmax rest c
    else
      let left := e.promptLen - e.pos
      let n := min (min left cmax) (min room ((pagesFor p e.pos + c.free) * pageTokens p - e.pos))
      if n < min minChunk left || n = 0 then composePrefills g p minChunk smax tmax cmax rest c
      else composePrefills g p minChunk smax tmax cmax rest
        (c.add i e true (e.pos + n == e.promptLen) 0 n (pagesFor p (e.pos + n) - pagesFor p e.pos))

/-- The shape for a set of members: the least token_max that holds them, then the least index. -/
def chooseShape (l : List (Nat × Shape)) (ms : List Member) : Option Nat :=
  let decodes := (ms.filter fun m => !m.prefill).length
  let tokens := (ms.map (·.count)).foldl (· + ·) 0
  (best (fun a b => if a.2.tokenMax != b.2.tokenMax then a.2.tokenMax < b.2.tokenMax else a.1 < b.1)
    (l.filter fun x => decodes ≤ x.2.decodeMax && ms.length ≤ x.2.seqMax && tokens ≤ x.2.tokenMax &&
      ms.all fun m => !m.prefill || m.count ≤ x.2.chunkMax)).map Prod.fst

/-- compose() of R260. -/
def compose (s : State) (l m crew : Nat) : Comp :=
  let g := s.loop l
  let x := g.models.get m
  let p := s.mem.pools.get x.pool
  let sh := shapesFor g m crew
  let of (st : SeqSt) : List (Nat × SeqEnt) := (readySeqs s l).filter fun q => q.2.st == st && q.2.model == m
  let tmax := maxOf (·.tokenMax) sh
  let smax := maxOf (·.seqMax) sh
  let c := composeDecodes g p x.drafts (maxOf (·.decodeMax) sh) smax tmax (of .decode) ⟨[], 0, 0, poolFree s x.pool, [], []⟩
  composePrefills g p x.minChunk smax tmax (maxOf (·.chunkMax) sh) (of .prefill) c

/-- Sequences left out for want of pages wait from now on unless they do already (R260, R262). -/
def markWaits (l : Nat) (waits : List Nat) (s : State) : State :=
  each waits (fun s i => updSeq l i (fun e => { e with
    kvWait := true, starvedSince := if e.kvWait then e.starvedSince else some s.now }) s) s

/-- The lines of a COMPOSE record (R400). -/
def composeRecord (s : State) (l k : Nat) (h : HeatSlot) : List W64 :=
  let n := h.members.length
  let one (m : Member) : List W64 :=
    [w64 (m.seq + putb m.prefill 16 + putb m.sample 17 + put m.drafts 18 5 + put m.count 32 32),
     w64 (put m.pos 0 32 + put m.generated 32 32)]
  let body := h.members.flatMap one
  let decodes := (h.members.filter fun m => !m.prefill).length
  journalHeader s l k h 1 (composeLines n)
    (h.course.toNat + put h.version 32 16 + put h.crew 48 6 + put h.shape 54 4 + put h.model 58 3)
    (put n 0 13 + put decodes 16 13 + put (heatTokens h) 32 32) 0 ++
  body ++ List.replicate ((n + 3) / 4 * 8 - body.length) 0

/-- The error of a heat (R268, R378). -/
def heatError (l k cls : Nat) (code : BitVec 16) (s : State) : State :=
  ownerError (.heat l k) cls { LogRec.zero with code := code, island := islHea } s
/-- The slot names the course version that a pin holds. -/
def nameCourse (l k : Nat) (p : Pin) (s : State) : State :=
  updHSlot l k (fun h => { h with course := p.course, version := p.version, layout := p.layout }) s
/-- Resolve and pin a heat's course (R163): the slot names what the resolution found. A re-run keeps the version that it
has pinned (R403). -/
def resolveHeat (l k : Nat) (course : W32) (version : Nat) (s : State) : Except (BitVec 16) State :=
  match (heatPins s l k).find? fun p => (s.hslot l k).rerun && p.course == course with
  | some p => .ok (nameCourse l k p s)
  | none => match resolveCourse (.heat l k) (s.loop l).ctx course version s with
    | .error c => .error c
    | .ok (pin, s1) => .ok (nameCourse l k pin s1)

/-- Grow one member's table (R261): a failed grow marks the member. -/
def growMember (l k crew : Nat) (s : State) (m : Member) : State :=
  let t := hIdx ((s.loop l).seqs.get m.seq).kv
  match growTab t (m.pos + m.count) crew s with
  | .ok s1 => s1
  | .error _ => updHSlot l k (fun h => { h with
      members := h.members.map fun x => if x.seq == m.seq then { x with grown := false } else x }) s

/-- The writes by which some sequences' tables and entries come up to date. -/
def seqTabWrites (old new : State) (l : Nat) (seqs : List Nat) : List MemWrite :=
  (seqs.flatMap fun i => tabWrites old new (hIdx ((new.loop l).seqs.get i).kv)) ++ seqs.map (seqWrite new l)

/-- COMPOSE has members: they are marked, result slots reserved, the record goes to Boathouse, Rack grows (R260, R263). -/
def beginGrow (l k : Nat) (ms : List Member) (shape : Nat) (step : Nat) (s : State) : State :=
  let s1 := each ms (fun s m =>
    let s1 := updSeq l m.seq (fun e => { e with inHeat := true, kvWait := false, starvedSince := none }) s
    updLoop l (fun g => { g with ress := g.ress.upd (g.seqs.get m.seq).resultRing fun r => { r with reserved := r.reserved + m.slots } }) s1) s
  let s2 := updWork (.heat l k) (fun w => { w with count := w32 step }) (moveHSlot l k (fun h => { h with
    st := .grow, members := ms, shape := shape, step := step, since := s.now, waiting := true }) s1)
  let x := ((s.loop l).shapes.get shape)
  match resolveHeat l k x.course x.version s2 with
  | .error c => heatError l k 1 c (updHSlot l k (fun h => { h with waiting := false }) s2)
  | .ok s3 =>
    let h := s3.hslot l k
    let s4 := journalAppend l k 1 h (composeRecord s3 l k h) s3
    let s5 := each ms (growMember l k h.crew) s4
    addIntent l { kind := .grow k, writes := [seqTabWrites s s5 l (ms.map (·.seq))] } s5

/-- COMPOSE with a crew and a model (R260, R263). A heat that the journal has no room for stays in COMPOSE (R399). -/
def composeSlot (l k : Nat) (s : State) : State :=
  let h := s.hslot l k
  let g := s.loop l
  let c := compose s l h.model h.crew
  if !(journalRoom s (composeLines c.members.length)) then s else
  let s1 := markWaits l c.waits s
  match chooseShape (shapesFor g h.model h.crew) c.members with
  | none => freeHeatSlot l k (updLoop l (fun g => { g with barren := true }) s1)
  | some sh =>
    if c.members.isEmpty then freeHeatSlot l k (updLoop l (fun g => { g with barren := true }) s1)
    else beginGrow l k c.members sh g.step (updLoop l (fun g => { g with step := g.step + 1 }) s1)

/-- COMPOSE of a slot, as soon as the journal has room. A re-run takes its members as they were (R403). -/
def tryCompose (l k : Nat) (s : State) : State :=
  let h := s.hslot l k
  if !h.rerun then composeSlot l k s
  else if journalRoom s (composeLines h.members.length) then beginGrow l k h.members h.shape h.step s else s
/-- Entry into COMPOSE: the heat timeout starts (R263). -/
def enterCompose (l k : Nat) (s : State) : State :=
  tryCompose l k (moveHSlot l k (fun h => { h with st := .compose, began := s.now, since := s.now, waiting := false }) s)

/-! ### The parameter table and the start of a course (R264, R265) -/

/-- Where a slot's areas lie (R247, R301). -/
def paramAddr (s : State) (l k : Nat) : Nat := (s.loop l).paramArea + k * 64 * (2 ^ s.build.heatBatchLog2 + 1)
def judgeAddr (s : State) (l k : Nat) : Nat := (s.loop l).judgeArea + k * (s.loop l).judgeStride
def logitsAddr (s : State) (l k : Nat) : Nat := (s.loop l).logitsArea + k * (s.loop l).logitsStride
def draftAddr (s : State) (l k i : Nat) : Nat := judgeAddr s l k + 128 * 2 ^ s.build.heatBatchLog2 + 128 * i

/-- Rows a member takes: 1 + drafts for a decode member, one for a sampled prefill member. -/
def memberRows (m : Member) : Nat := if !m.sample then 0 else if m.prefill then 1 else 1 + m.drafts
/-- The first row of each member. -/
def firstRows : Nat → List Member → List Nat
  | _, [] => []
  | n, m :: r => n :: firstRows (n + memberRows m) r

/-- The address of a member's input tokens. -/
def inputAddr (e : SeqEnt) (m : Member) : Nat :=
  if m.prefill then e.promptAddr + 4 * m.pos
  else if m.generated = 0 then e.promptAddr + 4 * (e.promptLen - 1)
  else e.outputAddr + 4 * (m.generated - 1)

/-- What runs on a slot's seat: in SWITCH a heat with no members (R263). -/
def runSlot (s : State) (l k : Nat) : HeatSlot :=
  let h := s.hslot l k
  if h.st == .switch then { h with members := [] } else h
/-- The words of a slot's parameter table (R265). -/
def paramWords (s : State) (l k : Nat) : List W64 :=
  let h := runSlot s l k
  let decodes := (h.members.filter fun m => !m.prefill).length
  let one (x : (Member × Nat) × Nat) : List W64 :=
    let m := x.1.1
    let e := (s.loop l).seqs.get m.seq
    [w64 (put m.seq 0 16 + put m.charge.toNat 16 16 + putb m.prefill 32 + putb m.sample 33 + put m.drafts 34 5),
     w64 (put m.pos 0 32 + put m.count 32 32), w64 (put (inputAddr e m) 0 56), w64 e.kv.toNat, w64 (put x.1.2 0 32),
     w64 (put (draftAddr s l k x.2) 0 56), e.requestId, 0]
  [w64 (put h.layout 0 16 + put l 16 4 + put h.shape 20 4 + put h.model 24 3 + put k 27 3 + put h.crew 30 12), w64 h.step,
   w64 (put h.members.length 0 13 + put decodes 16 13 + put (heatTokens h) 32 32), w64 (put (logitsAddr s l k) 0 56), 0, 0, 0, 0] ++
  ((h.members.zip (firstRows 0 h.members)).zipIdx.flatMap one)

/-- Write the parameter table; the course starts when it is written. -/
def writeParams (l k : Nat) (s : State) : State :=
  startPlan (.heatParams l k) islHea 63 [lineWrites (s.loop l).ctx (paramAddr s l k) (paramWords s l k)]
    (updHSlot l k (fun h => { h with waiting := true }) s)

/-- The registers of R264; c4 is set by the core that takes the seat. -/
def heatRegs (s : State) (l k : Nat) : Tab W64 :=
  let h := runSlot s l k
  let decodes := (h.members.filter fun m => !m.prefill).length
  each [(0, h.step), (1, (s.loop l).tag), (5, h.members.length), (6, decodes), (7, heatTokens h), (8, h.crew), (9, h.model),
      (13, 1), (14, h.version * 2 ^ 32 + h.course.toNat), (15, paramAddr s l k)]
    (fun t x => t.set x.1 (w64 x.2)) (Tab.const 0)

/-- Start a slot's course on its seat (R163, R264). -/
def startCourse (l k : Nat) (s : State) : State :=
  let h := s.hslot l k
  match (heatPins s l k).find? fun p => p.course == h.course && p.version == h.version with
  | none => s
  | some pin =>
    let p : Prog := { startProg (.heat l k) (s.loop l).ctx [] h.seat 0 s.now (if h.rerun then 2 else 0) with
      base := (objOf s pin.body).base, len := pin.words, regs := heatRegs s l k, tag := (s.loop l).tag }
    moveSeat h.seat (fun _ => { Seat.reset with st := .ready, prog := some p, readyAt := s.now })
      (updWork (.heat l k) (fun w => { w with ended := false, groups := [0, 0, 0, 0] }) s)

/-- The trace record of a heat (R359). -/
def heatTrace (l k phase : Nat) (s : State) : State :=
  let h := s.hslot l k
  wakeEv islHea 9 false (some (s.loop l).ctx)
    [w64 (put l 0 4 + put k 4 3 + put phase 7 1 + put h.members.length 8 13 + put h.step 32 32)] s

/-- The parameter table is written: the switch's or the heat's course starts. -/
def paramsWritten (l k : Nat) (err : RespErr) (s : State) : State :=
  let s1 := updHSlot l k (fun h => { h with waiting := false }) s
  match s.work? (.heat l k) with
  | none => s1
  | some w =>
    if w.failed.isSome then settleOwner (.heat l k) s1
    else if err != .ok then heatError l k 1 (respCode err) s1
    else match (s1.hslot l k).st with
      | .switch => startCourse l k s1
      | .grow => heatTrace l k 0 (startCourse l k (moveHSlot l k (fun h => { h with st := .run, since := s.now }) s1))
      | _ => s1

/-! ### SWITCH and SAVE (R263, R271) -/

/-- The crew holds the slot's model: its clusters were last loaded with it, so a crew that shares one holds nothing (R259). -/
def holdModel (l k : Nat) (s : State) : State :=
  let h := s.hslot l k
  let cs := crewClusters s h.epoch h.crew
  let s1 := each (s.heat.residency.cells.filter fun p => p.1 != h.crew && (crewClusters s h.epoch p.1).any cs.contains)
    (fun s p => endModel p.1 s) s
  updHeat (fun x => { x with residency := x.residency.set h.crew (some (l, h.model)) }) s1

/-- After SAVE: SWITCH when the crew does not hold the model, else COMPOSE. -/
def enterSwitch (l k : Nat) (s : State) : State :=
  let h := s.hslot l k
  let x := (s.loop l).models.get h.model
  if s.heat.residency.get h.crew == some (l, h.model) then enterCompose l k s
  else if x.load = 0 then enterCompose l k (holdModel l k s)
  else
    let step := if h.rerun then h.step else (s.loop l).step
    let s1 := if h.rerun then s else updLoop l (fun g => { g with step := g.step + 1 }) s
    let s2 := updWork (.heat l k) (fun w => { w with count := w32 step })
      (moveHSlot l k (fun h => { h with st := .switch, step := step, since := s.now }) s1)
    match resolveHeat l k x.load x.loadVersion s2 with
    | .error c => heatError l k 1 c s2
    | .ok s3 => writeParams l k s3

/-- A heat's work: what keeps the heat from being done (R105, R180). -/
def heatWork (l k seat : Nat) (ctx : CtxId) (now : Nat) (epoch : Bool) : Work :=
  { mkWork 0 seat Ring.reset ⟨0, [], none, false⟩ now epoch with
    owner := .heat l k, ctx := ctx, ended := true, skipFence := true }

/-- A slot starts with its crew and seat (R259, R263). -/
def startSlot (l k crew seat model : Nat) (pins : List Pin) (s : State) : State :=
  let ctx := (s.loop l).ctx
  let e := epochBit s
  let s1 := updMar (fun m => { m with works := m.works ++ [{ heatWork l k seat ctx s.now e with pins := pins }] })
    (moveHSlot l k (fun h => { HeatSlot.reset with
      st := .save, crew := crew, seat := seat, model := model, since := s.now, epoch := e, rerun := h.rerun, step := h.step,
      members := h.members, shape := h.shape }) s)
  let cs := crewClusters s e crew
  match foreignOn s ctx cs with
  | [] => enterSwitch l k s1
  | f => each f (fun s c =>
      match freeHold s cs, saveAreaOf s c with
      | some hold, some area =>
        startSave .save (.heat l k) c area hold (seatTree s seat) cs (heatMsg s e l crew seat 0 c)
          (updHeat (fun h => { h with saved := h.saved ++ [⟨c, cs, area, false⟩] }) s)
      | _, _ => s) s1

/-- HEAT_SAVE_DONE (R263): Slide has reported every save of the slot complete. -/
def heatSaveDoneOp (l k : Nat) (s : State) : State :=
  let failed := match s.work? (.heat l k) with | some w => w.failed.isSome | none => true
  if (s.hslot l k).st != .save || failed || !(heatUp s l) || (s.sld.jobs.any fun j => j.who == .heat l k) then s
  else enterSwitch l k s
def execHeatSaveDone (l k : Nat) (s : State) : Out := .next (heatSaveDoneOp l k s)

/-- The program of a slot has ended, and nothing of it is outstanding. -/
def courseOver (s : State) (l k : Nat) : Bool :=
  match s.work? (.heat l k) with
  | some w => w.ended && w.failed.isNone && w.reqs == 0 && w.groups.all (· == 0) && !(s.hslot l k).waiting &&
      (s.prog? (s.hslot l k).seat).isNone
  | none => false

/-- HEAT_SWITCH_DONE (R263): the crew holds the model; the switch's time passes to the loop's residue (R269). -/
def heatSwitchDoneOp (l k : Nat) (s : State) : State :=
  let h := s.hslot l k
  if h.st != .switch || !(courseOver s l k) || !(heatUp s l) then s else
    let s1 := updLoop l (fun g => { g with residue := g.residue + h.time }) (updHSlot l k (fun h => { h with time := 0 }) s)
    let mine := (heatPins s1 l k).filter fun p => p.course == h.course && p.version == h.version
    let s2 := updWork (.heat l k) (fun w => { w with pins := w.pins.filter fun p => !(mine.contains p) }) (each mine (dropPin (heatDropRec s1 l k)) s1)
    enterCompose l k (holdModel l k (vacateCrew h.epoch l h.crew h.seat s2))
def execHeatSwitchDone (l k : Nat) (s : State) : Out := .next (heatSwitchDoneOp l k s)

/-! ### GROW (R261, R263) -/

/-- Members whose grow failed leave with kv_wait = 1; one that was cancelled, or whose context failed, is in no heat any more and is
retired (R253, R258). -/
def dropUngrown (l k : Nat) (s : State) : State :=
  let out := (s.hslot l k).members.filter fun m => !m.grown
  let s1 := each out (fun s m =>
    updSeq l m.seq (fun e => { e with inHeat := false, kvWait := true, starvedSince := some s.now }) (unreserve l m s)) s
  each out (fun s m => retireDue l m.seq (writeEntry l m.seq s))
    (updHSlot l k (fun h => { h with members := h.members.filter (·.grown) }) s1)

/-- HEAT_GROW_DONE (R261): the shape is chosen again when members have left, and the parameter table is written. -/
def heatGrowDoneOp (l k : Nat) (s : State) : State :=
  let h := s.hslot l k
  let failed := match s.work? (.heat l k) with | some w => w.failed.isSome | none => true
  if h.st != .grow || h.waiting || failed || !(heatUp s l) || (s.prog? h.seat).isSome then s else
    let s1 := dropUngrown l k s
    let h1 := s1.hslot l k
    if h1.members.isEmpty then
      freeHeatSlot l k (journalAppend l k 4 h1 (journalHeader s1 l k h1 4 1 0 0 0) s1)
    else if h1.members.length = h.members.length then writeParams l k s1
    else match chooseShape (shapesFor (s1.loop l) h1.model h1.crew) h1.members with
      | none => writeParams l k s1
      | some sh =>
        if sh = h1.shape then writeParams l k s1
        else
          let x := (s1.loop l).shapes.get sh
          match resolveHeat l k x.course x.version (updHSlot l k (fun h => { h with shape := sh }) s1) with
          | .error c => heatError l k 1 c s1
          | .ok s2 => writeParams l k s2
def execHeatGrowDone (l k : Nat) (s : State) : Out := .next (heatGrowDoneOp l k s)

/-- The writes of a composition are answered. -/
def growWritten (l k : Nat) (err : RespErr) (addr : Nat) (s : State) : State :=
  let s1 := updHSlot l k (fun h => { h with waiting := false }) s
  let s2 := if err == .ok then s1 else heatWriteError l addr s1
  settleOwner (.heat l k) s2

/-- The writes of a loop's pending intent are answered (R398). -/
def intentWritten (l plan : Nat) (err : RespErr) (addr : Nat) (s : State) : State :=
  match (s.loop l).intent with
  | [] => s
  | x :: _ =>
    if x.plan != some plan then s else
      let s1 := intentDone l s
      checkLoop l (match x.kind with
        | .clear => loopCleared l err addr s1
        | .grow k => growWritten l k err addr s1
        | _ => ringsWritten l x.rings err addr s1)

/-! ### Placement (R259, R272) -/

/-- Restore a saved context on the clusters it was saved from, when they are free (R272). -/
def tryRestore (x : SavedCtx) (s : State) : State :=
  if !(clustersFree s x.clusters) || !(x.clusters.all fun c => s.sld.held.any fun h => h.1 == x.ctx && h.2.1 == c) then s else
  let m : LaunchMsg := { LaunchMsg.blank .piece with epoch := epochBit s, ctx := x.ctx, seat := 63, priority := ctxPriority s x.ctx }
  startRestore .heatRestore x.ctx x.area none x.clusters m
    (updHeat (fun h => { h with saved := h.saved.map fun y => if y.ctx == x.ctx then { y with restoring := true } else y }) s)

/-- One candidate of place(). -/
def tryCand (s : State) : Cand → State
  | .saved x => tryRestore x s
  | .loop l =>
    if !(mayBeginHeat s l) then s else
    match (readySeqs s l).head? with
    | none => s
    | some (_, e) => match pickCrew s l e.model, pickHeatSeat s with
      | some crew, some seat =>
        match (List.range ((s.loop l).slotsM1 + 1)).find? fun k => (s.hslot l k).st == .free with
        | some k => startSlot l k crew seat e.model [] (updHSlot l k (fun _ => HeatSlot.reset) s.nextFree)
        | none => s
      | _, _ => s
/-- place() of R259. -/
def place (s : State) : State := (candidates s).foldl tryCand s

/-- A heat waits to be re-run no longer. -/
def forgetRerun (l k : Nat) (s : State) : State :=
  updBhs (fun b => { b with reruns := b.reruns.filter fun y => !(y.1 == l && y.2.1 == k) }) s
/-- A member of a heat to be re-run is still the sequence it was, at the same position. -/
def rerunMember (g : Loop) (m : Member) : Bool :=
  let e := g.seqs.get m.seq
  e.st != .free && !e.inHeat && e.pos == m.pos && e.generated == m.generated && e.chargeCtx == m.charge && e.st != .spilled
/-- A heat that recovery re-runs takes its crew and a seat again (R403 step 4); without a loop that runs it is dropped. -/
def tryRerun (s : State) (x : Nat × Nat × HeatSlot × List Pin) : State :=
  let (l, k, h0, pins) := x
  let g := s.loop l
  let h : HeatSlot := { h0 with members := h0.members.filter (rerunMember g) }
  let cs := crewClusters s (epochBit s) h.crew
  let f := foreignOn s g.ctx cs
  if g.st == .stopped || g.st == .failed || h.members.isEmpty then
    each pins (dropPin { heatDropRec s l k with step := h.step }) (journalAppend l k 4 h (journalHeader s l k h 4 1 0 0 0) (forgetRerun l k s))
  else if g.st == .paused || g.stopping || recovers s l || (s.hslot l k).st != .free || !(clustersFree s cs) || !(f.isEmpty || canSave s g.ctx cs f) then s
  else match pickHeatSeat s with
    | none => s
    | some seat =>
      let h1 : HeatSlot := { h with st := .free, rerun := true, members := h.members.map fun m => { m with grown := true, result := none } }
      startSlot l k h.crew seat h.model pins (updHSlot l k (fun _ => h1)
        (updBhs (fun b => { b with rerunCount := satAdd 64 b.rerunCount 1 }) (forgetRerun l k s.nextFree)))

/-- Restores that have ended are forgotten. -/
def purgeRestored (s : State) : State :=
  updHeat (fun h => { h with saved := h.saved.filter fun x => !x.restoring || s.sld.jobs.any fun j => j.ctx == x.ctx }) s
/-- Heats that wait in COMPOSE for room in the journal try again. -/
def retryCompose (s : State) : State :=
  each s.heat.loops.cells (fun s g => each (List.range 8) (fun s k =>
    let h := s.hslot g.1 k
    let failed := match s.work? (.heat g.1 k) with | some w => w.failed.isSome | none => true
    if h.st == .compose && !failed && heatUp s g.1 then tryCompose g.1 k s else s) s) s

/-- HEAT_PLACE (R259). -/
def heatPlaceOp (s : State) : State :=
  if !(computeUp s) || !s.build.hasHeat || blank s then s else
    let s1 := settleOwed (settlePoison s)
    let s2 := retryCompose (purgeRestored (each (s1.heat.loops.cells.map Prod.fst) (fun s l => dueIrqs l s) s1))
    let s3 := updHeat (fun h => { h with lastPlace := s.now }) s2
    place (s3.bhs.reruns.foldl tryRerun s3)
def execHeatPlace (s : State) : Out := .next (heatPlaceOp s)

end Sys2Proof.Machine
end

