-- ==== Sys2Proof/Machine/Commit.lean ====
section
/-! DEFINITION. From HEATEND to commit, timeouts, spills and accounting (R262, R263, R266 to R269, R301). -/
namespace Sys2Proof.Machine

/-! ### The Judge job of a heat (R266, R301) -/

/-- The sampled members with their index in the heat and their first row. -/
def sampledOf (h : HeatSlot) : List (Member × Nat × Nat) :=
  ((h.members.zip (firstRows 0 h.members)).zipIdx.filter fun x => x.1.1.sample).map fun x => (x.1.1, x.2, x.1.2)

/-- The request record of a sampled member (R279, R301). -/
def requestWords (s : State) (l k : Nat) (x : Member × Nat × Nat) : List W64 :=
  let m := x.1
  let e := (s.loop l).seqs.get m.seq
  [w64 (put e.admitted 0 32 + put e.generated 32 32), w64 (put (logitsAddr s l k) 0 56),
   w64 (put x.2.2 0 32 + put (memberRows m) 32 5), w64 (put e.judgeParams 0 56), w64 (put (e.promptAddr + 4 * e.promptLen) 0 56),
   w64 (put (e.outputAddr + 4 * e.generated) 0 56), w64 (put e.promptLen 0 24),
   w64 (if m.drafts = 0 then 0 else put (draftAddr s l k x.2.1) 0 56)]

/-- Send the OUTCOME record and enter COMMIT (R263, R400). -/
def sendOutcome (l k : Nat) (s : State) : State :=
  let s1 := moveHSlot l k (fun h => { h with st := .commit, since := s.now, waiting := false }) s
  let h := s1.hslot l k
  journalAppend l k 2 h (journalHeader s1 l k h 2 1 0 0 0) s1

/-- HEAT_RUN_DONE (R263, R266): HEATEND, every group counter zero. The loop context is vacated on the crew (R329). -/
def heatRunDoneOp (l k : Nat) (s : State) : State :=
  let h := s.hslot l k
  if h.st != .run || !(courseOver s l k) || !(heatUp s l) then s else
    let s1 := vacateCrew h.epoch l h.crew h.seat s
    let l' := sampledOf h
    if l'.isEmpty then sendOutcome l k s1
    else startPlan (.heatRequests l k) islHea 63 [lineWrites (s.loop l).ctx (judgeAddr s l k) (l'.flatMap (requestWords s1 l k))]
      (moveHSlot l k (fun h => { h with st := .judge, since := s.now, waiting := true }) s1)
def execHeatRunDone (l k : Nat) (s : State) : Out := .next (heatRunDoneOp l k s)

/-- A job as it is submitted (R276, R277), with the current tag (R144) and the replay bit (R396). -/
def newJob (of_ : JobOf) (ctx : CtxId) (n table results : Nat) (s : State) : State :=
  let (tag, replay) : Nat × Bool := match of_ with
    | .prog o seat _ => (((s.prog? seat).map (·.tag)).getD 0, ((s.work? o).map fun w => decide (0 < w.replayed)).getD false)
    | .heat l k => ((s.loop l).tag, ((s.loop l).slots.get k).rerun)
  let j : JudgeJob := ⟨s.judge.nextId, of_, ctx, n, table, results, 0, false, [], [], 0, 0, none, [], s.now, 0, tag, replay⟩
  { s with judge := { s.judge with nextId := s.judge.nextId + 1, waiting := s.judge.waiting ++ [j] } }

/-- The requests of a heat are written: its job is submitted. -/
def requestsWritten (l k : Nat) (err : RespErr) (s : State) : State :=
  let s1 := updHSlot l k (fun h => { h with waiting := false }) s
  match s.work? (.heat l k) with
  | none => s1
  | some w =>
    if w.failed.isSome then settleOwner (.heat l k) s1
    else if err != .ok then heatError l k 1 (respCode err) s1
    else newJob (.heat l k) (s.loop l).ctx (sampledOf (s.hslot l k)).length (judgeAddr s l k)
      (judgeAddr s l k + 64 * 2 ^ s.build.heatBatchLog2) s1

/-- Give the sampled members their results, in order. -/
def giveResults : List Member → List JudgeResult → List Member
  | [], _ => []
  | m :: r, rs => if m.sample then { m with result := rs.head? } :: giveResults r rs.tail else m :: giveResults r rs

/-- HEAT_JUDGE_DONE (R263): Judge has reported the job; the OUTCOME record goes to Boathouse. -/
def heatJudgeDoneOp (l k : Nat) (s : State) : State :=
  match s.judge.done.find? fun d => d.1 == l && d.2.1 == k with
  | none => s
  | some (_, _, err, results) =>
    if !(heatUp s l) then s else
    let s1 : State := { s with judge := { s.judge with done := s.judge.done.filter fun d => !(d.1 == l && d.2.1 == k) } }
    let failed := match s.work? (.heat l k) with | some w => w.failed.isSome | none => true
    if (s.hslot l k).st != .judge || failed || err.isSome then settleOwner (.heat l k) s1
    else sendOutcome l k (updHSlot l k (fun h => { h with members := giveResults h.members results }) s1)
def execHeatJudgeDone (l k : Nat) (s : State) : Out := .next (heatJudgeDoneOp l k s)

/-! ### Committing (R256, R267) -/

/-- What a commit has collected: output tokens, page tables, entries (step 2), records (step 3), the entries as steps 3 and 4 leave
them, the sequences that end, the rings written. -/
structure Committing where
  st : State
  outputs : List MemWrite
  tables : List MemWrite
  entries : List MemWrite
  records : List MemWrite
  last : List MemWrite
  frees : List Nat
  rings : Nat

/-- The writes that append tokens to an output buffer from an index on. -/
def outputWrites (ctx : CtxId) (addr first : Nat) (tokens : List Nat) : List MemWrite :=
  tokens.zipIdx.map fun t => ⟨false, addr + 4 * (first + t.2), ctx, leBytes t.1 4⟩

/-- The records of a member that has gone on or ended well (R256): at most 15 tokens in each. -/
def memberRecords (i : Nat) (e : SeqEnt) (reason first : Nat) (tokens : List Nat) (ended : Bool) : List ResultRec :=
  let base : ResultRec :=
    { kind := 1, seq := i, charge := e.chargeCtx, requestId := e.requestId, first := first, total := first + tokens.length, tokens := tokens }
  let done (r : ResultRec) : ResultRec := if ended then { r with kind := 2, reason := reason } else r
  if !e.stream then (if ended then [done { base with first := base.total, tokens := [] }] else [])
  else if tokens.length ≤ 15 then [done base]
  else [{ base with tokens := tokens.take 15, total := first + 15 }, done { base with first := first + 15, tokens := tokens.drop 15 }]

/-- Add records to a ring in order. -/
def addResults (l ring : Nat) : List ResultRec → State → List MemWrite × State
  | [], s => ([], s)
  | r :: rest, s =>
    let (w, s1) := addResult l ring r s
    let (ws, s2) := addResults l ring rest s1
    (w ++ ws, s2)

/-- A member ends: its table goes, its entry becomes FREE after the records (R258). -/
def endMember (l i : Nat) (recs : List ResultRec) (c : Committing) : Committing :=
  let e := (c.st.loop l).seqs.get i
  let (tw, s1) := freeTable e.kv c.st
  let (rw, s2) := addResults l e.resultRing recs s1
  let s3 := updSeq l i SeqEnt.gone s2
  { c with
    st := s3, tables := c.tables ++ tw, records := c.records ++ rw, last := c.last ++ [seqWrite s3 l i], frees := c.frees ++ [i],
    rings := if rw.isEmpty then c.rings else c.rings ||| 2 ^ e.resultRing }

/-- A member's final record without tokens. -/
def finalRec (i : Nat) (e : SeqEnt) (kind reason : Nat) (code : BitVec 16) : ResultRec :=
  { kind := kind, reason := reason, seq := i, charge := e.chargeCtx, code := code, requestId := e.requestId,
    first := e.generated, total := e.generated }

/-- in_heat and fails are cleared (step 4 of R267). -/
def leaveHeat (e : SeqEnt) : SeqEnt := { e with inHeat := false, fails := 0 }

/-- Commit one member that goes on or ends with its tokens. -/
def commitTokens (l : Nat) (m : Member) (e : SeqEnt) (result : Option JudgeResult) (c : Committing) : Committing :=
  let all := (result.map (·.tokens)).getD []
  let stop := (result.map (·.stop)).getD 0
  let toks := all.take (e.maxNew - e.generated)
  let gen := e.generated + toks.length
  let pos := e.pos + (if m.prefill then m.count else all.length)
  let ended := m.sample && (stop != 0 || gen == e.maxNew)
  let t := hIdx e.kv
  let s1 := trimTab t pos c.st
  let s2 := updSeq l m.seq (fun e => { e with
    pos := pos, generated := gen, st := if m.sample then .decode else e.st }) s1
  let s3 := if toks.isEmpty then s2 else ergCount 19 toks.length { ctx := some e.chargeCtx } s2
  let c1 : Committing := { c with
    st := s3, outputs := c.outputs ++ outputWrites (c.st.loop l).ctx e.outputAddr e.generated toks,
    tables := c.tables ++ tabWrites c.st s2 t, entries := c.entries ++ [seqWrite s2 l m.seq] }
  let recs := memberRecords m.seq e (if stop != 0 then 1 else 3) e.generated toks ended
  if ended then endMember l m.seq recs c1
  else
    let (rw, s4) := addResults l e.resultRing recs c1.st
    { c1 with
      st := s4, records := c1.records ++ rw, last := c1.last ++ [entWrite s4 l m.seq (leaveHeat ((s4.loop l).seqs.get m.seq))],
      rings := if rw.isEmpty then c1.rings else c1.rings ||| 2 ^ e.resultRing }

/-- Steps 1 to 3 of R267 for one member. -/
def commitMember (l : Nat) (c : Committing) (m : Member) : Committing :=
  let e := (c.st.loop l).seqs.get m.seq
  match e.ctxFailed, e.cancel, m.result with
  | some code, _, _ => endMember l m.seq [finalRec m.seq e 3 0 code] c
  | none, true, _ => endMember l m.seq [finalRec m.seq e 2 4 0] c
  | none, false, some r =>
    if r.error != 0 then endMember l m.seq [finalRec m.seq e 3 0 r.error] c else commitTokens l m e (some r) c
  | none, false, none => commitTokens l m e none c

/-- The second line of a DONE record: the rings' written counts (R400). -/
def writtenWords (g : Loop) : List W64 :=
  (List.range 8).map fun i => w64 ((g.ress.get (2 * i)).written.toNat + (g.ress.get (2 * i + 1)).written.toNat * 2 ^ 32)
/-- Write DONE (R400). -/
def sendDone (l k : Nat) (s : State) : State :=
  let h := s.hslot l k
  journalAppend l k 3 h (journalHeader s l k h 3 2 0 0 (put h.rings 0 16) ++ writtenWords (s.loop l)) s

/-- The writes of a slot's commit go out, each step after the one before. -/
def startCommit (l k : Nat) (s : State) : State := startPlan (.heatCommit l k) islHea 63 (s.hslot l k).writes s
/-- Steps 1 to 3 of R267, with the writes of step 4. Members keep the pos and counts of COMPOSE for the charge at the end. -/
def commitHeat (l k : Nat) (s : State) : State :=
  let h := s.hslot l k
  let c := h.members.foldl (commitMember l) ⟨s, [], [], [], [], [], [], 0⟩
  let s1 := updLoop l (fun g => { g with committed := (g.committed + 1) % 2 ^ 32 })
    (updHSlot l k (fun x => { x with
      waiting := true, rings := c.rings, frees := c.frees
      writes := [c.outputs, c.tables ++ c.entries] ++ (c.records.map fun r => [r]) ++ [c.last] }) c.st)
  startCommit l k (heatTrace l k 1 (ergCount 18 1 { ctx := some (s.loop l).ctx } s1))

/-- Step 4 of R267: the members that go on are in no heat and have not failed, result slots are reserved no longer, and entries that
were retired are FREE (R258). One cancelled meanwhile, or whose context has failed, is retired. -/
def releaseMembers (l k : Nat) (s : State) : State :=
  let h := s.hslot l k
  let s1 := each h.frees (fun s i => updSeq l i (fun _ => SeqEnt.reset) s) (each h.members (fun s m => unreserve l m s) s)
  each (h.members.filter fun m => !(h.frees.contains m.seq)) (fun s m => retireDue l m.seq (updSeq l m.seq leaveHeat s))
    (updHSlot l k (fun h => { h with writes := [], frees := [] }) s1)

/-! ### Spill and fill (R262) -/

/-- A sequence's table is being moved. -/
def moving (s : State) (e : SeqEnt) : Bool := tabMoves s (hIdx e.kv)
/-- Pages of a sequence's table. -/
def pagesOf (s : State) (e : SeqEnt) : Nat := (s.mem.tabs.get (hIdx e.kv)).pages.length
/-- The pool of a sequence's model. -/
def seqPool (g : Loop) (e : SeqEnt) : Nat := (g.models.get e.model).pool

/-- Bring back the oldest SPILLED sequence of a loop whose pool can hold it, while no sequence of the pool waits (R262). -/
def tryFill (l : Nat) (s : State) : State :=
  let g := s.loop l
  let starving (q : Nat) : Bool := s.heat.loops.cells.any fun x => (liveSeqs x.2).any fun p => p.2.kvWait && seqPool x.2 p.2 == q
  let c := (liveSeqs g).filter fun p => p.2.st == .spilled && !(moving s p.2) &&
    pagesOf s p.2 ≤ poolFree s (seqPool g p.2) && !(starving (seqPool g p.2))
  match best (fun a b => a.2.admitted < b.2.admitted) c with
  | none => s
  | some (i, e) =>
    let crew := (s.heat.residency.cells.find? fun p => p.2 == some (l, e.model)).map Prod.fst
    startFill l i (crew.getD 63) s

/-- The DECODE sequences of a pool that may be spilled, of whatever loop: the loop, the index, the entry. -/
def spillable (s : State) (pool : Nat) : List (Nat × Nat × SeqEnt) :=
  s.heat.loops.cells.flatMap fun g => ((liveSeqs g.2).filter fun q =>
    q.2.st == .decode && !q.2.inHeat && !(moving s q.2) && seqPool g.2 q.2 == pool).map fun q => (g.1, q)
/-- The sequence that R262 spills for a starving one: its loop and index. -/
def spillChoice (s : State) (l : Nat) (x : Nat × SeqEnt) : Option (Nat × Nat) :=
  let g := s.loop l
  let p := s.mem.pools.get (seqPool g x.2)
  let need := pagesFor p (x.2.pos + 1 + (g.models.get x.2.model).drafts) - pagesFor p x.2.pos
  let c := (spillable s (seqPool g x.2)).filter fun q => !(q.1 == l && q.2.1 == x.1)
  let found := match best (fun a b => b.2.2.admitted < a.2.2.admitted) (c.filter fun q => need ≤ pagesOf s q.2.2) with
    | some q => some q
    | none => best (fun a b => pagesOf s b.2.2 < pagesOf s a.2.2) c
  found.map fun q => (q.1, q.2.1)

/-- Spill for the sequence of a loop that has starved longest, every kv_wait_ms (R262). -/
def spillStarved (l : Nat) (s : State) : State :=
  let g := s.loop l
  let w := g.kvWaitMs * msTu
  let starved := sortBy (fun a b => a.2.starvedSince.getD 0 < b.2.starvedSince.getD 0)
    ((liveSeqs g).filter fun p => p.2.st == .decode && p.2.kvWait && p.2.starvedSince.any fun t => t + w ≤ s.now)
  if g.kvWaitMs = 0 || s.now < g.lastSpill + w then s
  else match starved.findSome? (spillChoice s l) with
    | some (l', i) => startSpill l' i (updLoop l (fun g => { g with lastSpill := s.now }) s)
    | none => s
/-- KV_SPILL (R262): spill for a sequence that starves, and bring one back to a pool for which none waits. -/
def kvSpillOp (l : Nat) (s0 : State) : State :=
  let s := settlePoison s0
  if !(computeUp s) || !(loopLive (s.loop l)) || loopRecovers s l then s else tryFill l (spillStarved l s)
def execKvSpill (l : Nat) (s : State) : Out := .next (kvSpillOp l s)

/-- HEAT_COMMIT (R263, R267): Boathouse has acknowledged the OUTCOME record. -/
def heatCommitOp (l k : Nat) (s : State) : State :=
  let h := s.hslot l k
  if h.st != .commit || !h.acked || h.waiting || !(heatUp s l) then s else tryFill l (commitHeat l k s)
def execHeatCommit (l k : Nat) (s : State) : Out := .next (heatCommitOp l k s)

/-- The writes of a commit are answered: step 4 of R267, the interrupts, then DONE (R256, R400). -/
def commitWritten (l k : Nat) (err : RespErr) (addr : Nat) (s : State) : State :=
  let s1 := releaseMembers l k s
  sendDone l k (if err == .ok then ringIrqs l (s.hslot l k).rings s1 else heatWriteError l addr s1)

/-- HEAT_TIMEOUT (R263): from entry into COMPOSE to entry into COMMIT. -/
def heatTimeoutOp (l k : Nat) (s : State) : State :=
  let h := s.hslot l k
  let t := (s.loop l).timeout
  let on := h.st == .compose || h.st == .grow || h.st == .run || h.st == .judge
  if !on || t = 0 || s.now < h.began + t * 64 * usTu || !(heatUp s l) then s
  else match s.work? (.heat l k) with
    | some w => if w.failed.isSome then s else heatError l k 1 eHeatTimeout s
    | none => s
def execHeatTimeout (l k : Nat) (s : State) : Out := .next (heatTimeoutOp l k s)

/-! ### Accounting (R269) -/

/-- ACCOUNTING_ITEM: the oldest item from a Finish. -/
def accountingItemOp (s : State) : State :=
  match s.fab.items with
  | [] => s
  | x :: rest =>
    if !(computeUp s) then s else
    let s1 : State := { s with fab := { s.fab with items := rest } }
    match s.heat.loops.cells.find? fun g => g.2.ctx == x.ctx && (g.2.st != .stopped || loopInFlight g.2 != 0) with
    | none => charge x.ctx x.tu s1
    | some (l, g) =>
      match (List.range 8).find? fun k =>
          let h := g.slots.get k
          h.st != .free && (crewClusters s h.epoch h.crew).contains x.cluster with
      | some k => updHSlot l k (fun h => { h with time := h.time + x.tu }) s1
      | none => updLoop l (fun g => { g with residue := g.residue + x.tu }) s1
def execAccountingItem (s : State) : Out := .next (accountingItemOp s)

/-- The contexts with a ready sequence. -/
def readyCtxs (s : State) : List CtxId :=
  (s.heat.loops.cells.flatMap fun g => (g.2.seqs.cells.filter fun p => seqReady p.2).map fun p => p.2.chargeCtx).eraseDups
/-- The floor of the virtual times: the least of the ready contexts', else as it was (R269). -/
def nextFloor (s : State) : Nat :=
  match (readyCtxs s).map fun c => (shareOf s c).vtime with
  | [] => s.heat.floor
  | v :: r => r.foldl min v

/-- ACCOUNTING_PERIOD: weights are loaded again and the floor moves. -/
def accountingPeriodOp (s : State) : State :=
  let period := max 10 (fld s.heat.cfg 0 16) * usTu
  if !s.build.hasHeat || !(computeUp s) || s.now < s.heat.lastPeriod + period then s else
    let s1 := each (s.mar.slots.cells.filter fun p => p.2.st != .free) (fun s p =>
      updHeat (fun h => { h with shares := h.shares.upd p.1 fun x => { x with weight := p.2.weight.toNat } }) s)
      (updHeat (fun h => { h with lastPeriod := s.now }) s)
    each (s1.heat.loops.cells.map Prod.fst) (fun s l => dueIrqs l s) (updHeat (fun h => { h with floor := nextFloor s1 }) s1)
def execAccountingPeriod (s : State) : Out := .next (accountingPeriodOp s)

/-! ### Refetch (R406) -/

/-- A heat of a loop that names an object is in flight. -/
def loopsBusy (s : State) (i : Nat) : Bool := (loopsOf s i).any fun l => loopInFlight (s.loop l) != 0
/-- REFETCH_START (R406): the loops' heats have ended, and Rack has Slide copy the object from its golden copy. -/
def refetchStartOp (i : Nat) (s0 : State) : State :=
  let s := settlePoison s0
  let o := s.rack.objs.get i
  if !(computeUp s) || o.st == .free || !o.poisoned || !o.shared || !o.golden || loopsBusy s i ||
     !(s.mem.refetchDue.contains i) || refetching s i then s
  else beginRefetch i false (pauseLoops i (updMem (fun m => { m with refetchDue := m.refetchDue.filter (· != i) }) s))
def execRefetchStart (i : Nat) (s : State) : Out := .next (refetchStartOp i s)

end Sys2Proof.Machine
end

