-- ==== Sys2Proof/Machine/Courses.lean ====
section
/-! DEFINITION. Course commands: RECORD, PATCH, RETIRE, QUERY (R154 to R159). -/
namespace Sys2Proof.Machine

/-- One word of a body (R157): it meets R119 (contract level 3 is the one level there is), and an immediate target lies below the length. -/
def bodyWordOk (b : Build) (len : Nat) (w : CWord) : Bool :=
  wordLegal b w &&
  (match w.op with
   | 0x02 => w.ia || fld w.w1 0 24 < len
   | 0x03 => fld w.w1 0 24 < len
   | 0x04 => fld w.w1 0 24 < len
   | _ => true)

/-- The index of the first word of a body that fails its check; `none` when every word passes. -/
def firstBadWord (b : Build) (len : Nat) (i : Nat) : List (List W64) → Option Nat
  | [] => none
  | w :: r => if bodyWordOk b len (cword w) then firstBadWord b len (i + 1) r else some i

/-- The words of a body of a size. -/
def bodyWords (m : MemRead) (size : Nat) : List (List W64) :=
  chunks 4 (size / 32) (bytesToWords m.bytes (size / 8))

/-- The status registers after a course command (R156): version and body are the course's own after the command. -/
def crsStatus (result : Nat) (h : W32) (s : State) : State :=
  let c := s.rack.courses.get (hIdx h)
  let seen := handleOk s h && c.isCourse
  updRack (fun k => { k with
    crsResult := result, crsVersion := if seen then c.version else 0, crsBody := if seen then c.body else 0 }) s
/-- A result 3, with the first bad word. -/
def crsInvalid (bad : Nat) (h : W32) (s : State) : State := crsStatus 3 h (updRack (fun k => { k with crsBad := bad }) s)

/-- The body that RCK_CRS_ARG names, and its parameter layout. -/
def argBody (s : State) : W32 := w32 (fld s.rack.crsArg 0 32)
def argLayout (s : State) : Nat := fld s.rack.crsArg 32 16

/-- The words of a course descriptor (R154). -/
def descriptorWords (c : Course) : List W64 :=
  [w64 (c.body.toNat + put c.version 32 16), w64 (put c.bodyWords 0 24 + put c.paramLayout 32 16),
   w64 (putb c.isCourse 0 + putb c.retired 1)] ++ List.replicate 5 0

/-- Rack writes a descriptor (R154): one line in its owner's space, after the end of a compute reset in progress (R46). -/
def writeDescriptor (h : W32) (c : Course) (s : State) : State :=
  let o := objOf s h
  startPlan .none islRck 63 [[⟨false, o.base, o.owner, wordsToBytes (descriptorWords c)⟩]]
    { s with rack := { s.rack with courses := s.rack.courses.set (hIdx h) c } }

/-- The body may serve the descriptor: LIVE, and R155's same owner and shared bit. -/
def bodyFits (s : State) (h : W32) : Bool :=
  let d := objOf s h
  let b := objOf s (argBody s)
  b.st == .live && b.owner == d.owner && b.shared == d.shared

/-- The valid words of a body become version `v` of a course; the reference on the old body is dropped (R158). -/
def putVersion (h : W32) (v : Nat) (old : Option W32) (size : Nat) (s : State) : State :=
  let bh := argBody s
  match refAddOp none bh 1 s with
  | .error _ => crsStatus 6 h s
  | .ok s1 =>
    let s2 := writeDescriptor h ⟨true, false, bh, v, size / 32, argLayout s⟩
      (dropLines (fun _ => true) (objOf s bh).base size s1)
    let s3 := match old with
      | some b => (match refSubOp none b 1 s2 with | .ok s' => s' | .error _ => s2)
      | none => s2
    crsStatus 0 h s3

/-- Rack reads a body in its owner's space, checks it and installs it as version `v` by RECORD or PATCH (R155, R157). DESIGN CHOICE
(assumption 97): RCK_CRS_BAD is 0 when no word failed: a wrong size, or an error of the read. -/
def installBody (h : W32) (v : Nat) (old : Option W32) (m : MemRead) (s : State) : State :=
  let b := objOf s (argBody s)
  if b.size % 32 != 0 || b.size == 0 || 16777215 < b.size / 32 then crsInvalid 0 h s
  else
    let s1 := ownRead islRck b.base b.owner b.size s
    match m.err with
    | .target => targetLost 0 islRck b.base b.owner s1
    | .ok => match firstBadWord s.build (b.size / 32) 0 (bodyWords m b.size) with
      | some i => crsInvalid i h s1
      | none => putVersion h v old b.size s1
    | e => crsInvalid 0 h (if e == .poison then poisonMark b.base s1 else s1)

/-- RECORD (R158). A compute reset keeps Rack from reading the body (R46); DESIGN CHOICE (assumption 83): the row then changes
nothing. -/
def courseRecordOp (h : W32) (m : MemRead) (s : State) : State :=
  if inReset s then s
  else if blank s then crsStatus 6 h s
  else if objStale s h || objStale s (argBody s) then crsStatus 1 h s
  else if (s.rack.courses.get (hIdx h)).isCourse then crsStatus 2 h s
  else if (objOf s h).st != .live || (objOf s h).size != 64 || !(bodyFits s h) then crsStatus 6 h s
  else installBody h 1 none m s
def execCourseRecord (h : W32) (m : MemRead) (s : State) : Out := powered s (courseRecordOp h m s)

/-- PATCH (R158, R159), which waits out a compute reset as RECORD does. -/
def coursePatchOp (h : W32) (m : MemRead) (s : State) : State :=
  let c := s.rack.courses.get (hIdx h)
  if inReset s then s
  else if blank s then crsStatus 6 h s
  else if objStale s h then crsStatus 1 h s
  else if !c.isCourse then crsStatus 2 h s
  else if c.retired then crsStatus 5 h s
  else if 65535 ≤ c.version then crsStatus 4 h s
  else if objStale s (argBody s) then crsStatus 1 h s
  else if !(bodyFits s h) then crsStatus 6 h s
  else installBody h (c.version + 1) (some c.body) m s
def execCoursePatch (h : W32) (m : MemRead) (s : State) : Out := powered s (coursePatchOp h m s)

/-- RETIRE (R158). -/
def courseRetireOp (h : W32) (s : State) : State :=
  let c := s.rack.courses.get (hIdx h)
  if blank s then crsStatus 6 h s
  else if objStale s h then crsStatus 1 h s
  else if !c.isCourse then crsStatus 2 h s
  else if c.retired then crsStatus 5 h s
  else
    let s1 := writeDescriptor h { c with retired := true } s
    crsStatus 0 h (match refSubOp none c.body 1 s1 with | .ok s' => s' | .error _ => s1)
def execCourseRetire (h : W32) (s : State) : Out := powered s (courseRetireOp h s)

/-- QUERY (R158). -/
def courseQueryOp (h : W32) (s : State) : State :=
  if blank s then crsStatus 6 h s
  else if objStale s h then crsStatus 1 h s
  else if !(s.rack.courses.get (hIdx h)).isCourse then crsStatus 2 h s
  else crsStatus 0 h s
def execCourseQuery (h : W32) (s : State) : Out := powered s (courseQueryOp h s)

end Sys2Proof.Machine
end

