-- ==== Sys2Proof/Machine/Deadlock.lean ====
section
/-! DEFINITION. Entry timeouts, the wait-for graph and the breaking of a deadlock (R110, R111, R242, R243, R388). -/
namespace Sys2Proof.Machine

/-- A node of the wait-for graph: an entry of a ring by its count, its words, and its work when it has begun (R242). -/
structure GNode where
  ring : Nat
  count : Count
  words : List W64
  work : Option Work

/-- The fetched and posted entries of one ring that have not begun, from begun to begun + 15. -/
def waitingNodes (r : Nat) (g : Ring) (posted : List (Nat × Count × List W64)) : List GNode :=
  let cached := g.cache.filter fun c => (c.count - g.begun).toNat < 16
  let more := posted.filter fun p =>
    p.1 == r && (p.2.1 - g.begun).toNat < 16 && bit (wordAt p.2.2 0) 0 && !(cached.any fun c => c.count == p.2.1)
  (cached.map fun c => ⟨r, c.count, c.words, none⟩) ++ (more.map fun p => ⟨r, p.2.1, p.2.2, none⟩)
/-- The nodes of one bound ring. -/
def ringNodes (s : State) (posted : List (Nat × Count × List W64)) (r : Nat) : List GNode :=
  (((ringWorks s r).filter fun w => !w.done).map fun w => ⟨r, w.count, w.words, some w⟩) ++ waitingNodes r (s.ring r) posted
/-- All nodes (R242). -/
def graphNodes (s : State) (posted : List (Nat × Count × List W64)) : List GNode :=
  (s.mar.rings.cells.filter fun p => p.2.st != .unbound).flatMap fun p => ringNodes s posted p.1

/-- The fence, context and value an entry is parked in WAITF on. -/
def parkedOn (s : State) (x : GNode) : Option (Nat × CtxId × W64) :=
  match x.work with
  | none => none
  | some w => match s.prog? w.seat with
    | some p =>
      let v := s.stb.waiters.get w.seat
      match p.park with
      | .waitf _ _ _ => if p.owner == w.owner && (s.seat w.seat).st == .wait && !p.released && v.st != .idle
        then some (v.addr, v.ctx, v.value) else none
      | _ => none
    | none => none

/-- The kind of the edge from X to Y, if there is one (R242): 0 fence, 1 ring order, 2 serial, 3 window. -/
def edgeKind (s : State) (x y : GNode) : Option Nat :=
  let g := s.ring x.ring
  match parkedOn s x with
  | some (f, c, v) =>
    if !(enNoFence y.words) && enFenceAddr y.words == f && enCtx y.words == c && v.toNat ≤ (enFenceValue y.words).toNat
    then some 0 else none
  | none =>
    if x.work.isSome || x.ring != y.ring then none
    else if x.count == g.begun && y.count + 1 == g.begun && (match y.work with | some w => !w.ended && !w.marker | none => false)
    then some 1
    else if x.count != g.begun && y.count + 1 == x.count then some 1
    else if enSerial x.words && y.work.isSome then some 2
    else if x.count == g.begun && (g.begun - g.head).toNat = 16 && y.count == g.head then some 3
    else none
/-- Same entry. -/
def sameNode (a b : GNode) : Bool := a.ring == b.ring && a.count == b.count
/-- The nodes an edge leads to. -/
def nextNodes (s : State) (ns : List GNode) (x : GNode) : List GNode := ns.filter fun y => (edgeKind s x y).isSome
/-- The nodes an edge comes from. -/
def prevNodes (s : State) (ns : List GNode) (y : GNode) : List GNode := ns.filter fun x => (edgeKind s x y).isSome

/-- Breadth-first layers: the nodes found at each distance of at least 1 from a node. -/
def layers (step : GNode → List GNode) (seen : List GNode) (front : List GNode) (d : Nat) : Nat → List (GNode × Nat)
  | 0 => []
  | fuel + 1 =>
    let new := (front.flatMap step).foldl (fun acc y =>
      if (seen ++ acc).any (sameNode y) then acc else acc ++ [y]) []
    if new.isEmpty then [] else (new.map fun y => (y, d)) ++ layers step (seen ++ new) new (d + 1) fuel
/-- The length of the shortest path of at least one edge from or to a node. -/
def distIn (l : List (GNode × Nat)) (y : GNode) : Option Nat := (l.find? fun p => sameNode p.1 y).map Prod.snd

/-- A shortest path from `x` to `y` by distances to `y`; where several edges serve, which is followed is not defined, so
a free value chooses. The result lists `x` and the nodes before `y`. -/
def walk (s : State) (ns : List GNode) (y : GNode) (back : List (GNode × Nat)) (x : GNode) : Nat → List GNode
  | 0 => []
  | fuel + 1 =>
    match distIn back x with
    | none => []
    | some d =>
      if d ≤ 1 then [x]
      else
        let c := (nextNodes s ns x).filter fun z => distIn back z == some (d - 1) && !(sameNode z y)
        match (c.drop (s.freeValue 4 % max 1 c.length)).head? with
        | some z => x :: walk s ns y back z fuel
        | none => [x]

/-- A wait-for record of a cycle that starts at the failed node (R388). -/
def wfgRecord (s : State) (cycle : List GNode) : WfgRec :=
  let n := cycle.length
  let node (i : Nat) (x : GNode) : WfgNode :=
    let y := cycle[(i + 1) % n]?
    let k := match y with | some y => (edgeKind s x y).getD 0 | none => 0
    { ring := x.ring, seat := (s.ring x.ring).seat.getD 0, edge := k, parked := (parkedOn s x).isSome, count := x.count,
      fence := if k = 0 then (match parkedOn s x with | some (f, _, _) => f | none => 0) else 0 }
  { number := s.ump.wfgCount + 1, time := s.now, truncated := 60 < n, failed := 0,
    nodes := (cycle.zipIdx.map fun p => node p.2 p.1).take 60 }
/-- Umpire keeps the four most recent wait-for records. -/
def keepWfg (w : WfgRec) (s : State) : State :=
  updUmp (fun u => { u with wfgCount := w.number, wfg := (u.wfg ++ [w]).drop (u.wfg.length + 1 - 4) }) s

/-- The waiter whose WAITF issued latest, on the higher seat among equals (R243 step 2). -/
def latestWait (s : State) (l : List GNode) : Option (GNode × Work × Prog) :=
  best (fun a b => if a.2.2.issuedAt != b.2.2.issuedAt then b.2.2.issuedAt < a.2.2.issuedAt else b.2.1.seat < a.2.1.seat)
    (l.filterMap fun x => match x.work with
      | some w => if (parkedOn s x).isSome then (s.prog? w.seat).map fun p => (x, w, p) else none
      | none => none)

/-- The shortest cycles through a node: their length and the nodes on any of them (R243 step 1). -/
def shortCycles (s : State) (ns : List GNode) (x : GNode) : Option (List GNode) :=
  let fuel := ns.length + 1
  let fore := layers (nextNodes s ns) [] [x] 1 fuel
  let back := layers (prevNodes s ns) [] [x] 1 fuel
  match distIn fore x with
  | none => none
  | some len => some (ns.filter fun y => sameNode y x ||
      (match distIn fore y, distIn back y with
       | some a, some b => a + b == len
       | _, _ => false))

/-- Resolve the deadlock: record the cycle, fail the chosen WAITF, restart the expired entry's timer (R111, R243). -/
def resolveDeadlock (s : State) (ns : List GNode) (x : GNode) (o : Owner) (c : GNode) (w : Work) (p : Prog) : State :=
  let fuel := ns.length + 1
  let toX := layers (prevNodes s ns) [] [x] 1 fuel
  let toC := layers (prevNodes s ns) [] [c] 1 fuel
  let cycle := if sameNode c x then walk s ns x toX x fuel else walk s ns x toX c fuel ++ walk s ns c toC x fuel
  let rec_ := wfgRecord s cycle
  let s1 := keepWfg rec_ s.nextFree
  let s2 := if w.owner == o then s1 else updWork o (fun w => { w with timer := some s.now }) s1
  ownerError w.owner 1 { wordRec s2 0 w.seat p eDeadlock with
    island := islMar, addr := (s.stb.waiters.get w.seat).addr, aux := w64 rec_.number } s2

/-- The timeout of an entry in tu, if it has one (R110). -/
def entryTimeoutTu (w : Work) : Option Nat :=
  let t := if enTimeout w.words = 0 then w.ringTimeout else enTimeout w.words
  if t = 0 then none else some (t * 64 * usTu)

/-- ENTRY_TIMEOUT (R111). -/
def entryTimeoutOp (r : Nat) (c : Count) (posted : List (Nat × Count × List W64)) (s : State) : State :=
  let o := Owner.entry r c
  match s.work? o with
  | none => s
  | some w =>
    match w.timer, entryTimeoutTu w with
    | some t0, some t =>
      if w.done || s.now < t0 + t || s.ump.rst == .dead then s else
      let ns := graphNodes s posted
      let x : GNode := ⟨r, c, w.words, some w⟩
      match (shortCycles s ns x).bind (latestWait s) with
      | some (y, v, p) => resolveDeadlock s ns x o y v p
      | none =>
        let s1 := updWork o (fun w => { w with timer := none }) s
        failSeat o 8 eEntryTimeout (logRec (.ring r)
          (ownerRec o s1 { LogRec.zero with cls := 2, code := eEntryTimeout, island := islMar, tag := enTag w.words }) s1)
    | _, _ => s
def execEntryTimeout (r : Nat) (c : Count) (posted : List (Nat × Count × List W64)) (s : State) : Out :=
  .next (entryTimeoutOp r c posted s)

end Sys2Proof.Machine
end

