-- ==== Sys2Proof/Machine/Digest.lean ====
section
/-! DEFINITION. The two checksums of an image: CRC-32 of IEEE 802.3 (R415) and SHA-256 of FIPS 180-4 (R416, R417). -/
namespace Sys2Proof.Machine

/-- Eight reflected shifts of the CRC-32. -/
def crc32Byte (crc : Nat) : Nat → Nat
  | 0 => crc
  | k + 1 => crc32Byte (if crc % 2 = 1 then (crc >>> 1) ^^^ 0xEDB88320 else crc >>> 1) k
/-- CRC-32: reflected, polynomial 0x04C11DB7, started from and inverted with all ones (R415). -/
def crc32 (b : List Byte) : Nat := b.foldl (fun c x => crc32Byte (c ^^^ x.toNat) 8) 0xFFFFFFFF ^^^ 0xFFFFFFFF

/-- The first `n` primes below 18² (FIPS 180-4 takes its constants from the first 64 primes, of which 311 is the last). -/
def shaPrimes (n : Nat) : List Nat :=
  ((List.range 310).map (· + 2)).filter (fun p => (List.range 16).all fun d => p ≤ d + 2 || p % (d + 2) != 0) |>.take n
/-- The greatest number whose `k`-th power does not exceed `n`, built on `r` from bit `b - 1` down. -/
def rootFrom (k n : Nat) : Nat → Nat → Nat
  | 0, r => r
  | b + 1, r => rootFrom k n b (if (r + 2 ^ b) ^ k ≤ n then r + 2 ^ b else r)
/-- The first 32 bits of the fractional part of the `k`-th root of `p`. -/
def rootBits (k p : Nat) : W32 := w32 (rootFrom k (p * 2 ^ (32 * k)) 37 0)
/-- The round constants of SHA-256: cube roots of primes. -/
def shaRounds : List W32 := (shaPrimes 64).map (rootBits 3)
/-- The initial hash value of SHA-256: square roots of primes. -/
def shaStart : List W32 := (shaPrimes 8).map (rootBits 2)

/-- A big-endian number. -/
def ofBe (b : List Byte) : Nat := b.foldl (fun n x => n * 256 + x.toNat) 0
/-- The big-endian bytes of a number. -/
def beBytes (n k : Nat) : List Byte := (leBytes n k).reverse

/-- The padded message. -/
def shaPad (b : List Byte) : List Byte :=
  b ++ [0x80#8] ++ List.replicate ((119 - b.length % 64) % 64) 0 ++ beBytes (8 * b.length) 8

/-- The exclusive or of a word rotated right by each of some amounts. -/
def rotations (x : W32) (l : List Nat) : W32 := l.foldl (fun y k => y ^^^ x.rotateRight k) 0

/-- The words of a block's schedule, the newest first: `n` more, each made of those 2, 7, 15 and 16 places back. -/
def shaExtend (w : List W32) : Nat → List W32
  | 0 => w
  | n + 1 =>
    let back (k : Nat) : W32 := w.getD (k - 1) 0
    let mixed : W32 := (rotations (back 15) [7, 18] ^^^ back 15 >>> 3) + (rotations (back 2) [17, 19] ^^^ back 2 >>> 10)
    shaExtend ((back 7 + back 16 + mixed) :: w) n

/-- One round: the eight working variables move down a place, the first and the fifth with what the round adds. `k` is the round
constant plus the word of the schedule. -/
def shaRound (v : List W32) (k : W32) : List W32 :=
  let at_ (i : Nat) : W32 := v.getD i 0
  let choice : W32 := (at_ 4 &&& at_ 5) ||| (~~~(at_ 4) &&& at_ 6)
  let majority : W32 := (at_ 0 &&& (at_ 1 ||| at_ 2)) ||| (at_ 1 &&& at_ 2)
  let added : W32 := k + at_ 7 + choice + rotations (at_ 4) [6, 11, 25]
  (added + majority + rotations (at_ 0) [2, 13, 22]) :: v.take 3 ++ (at_ 3 + added) :: (v.drop 4).take 3

/-- One block. -/
def shaBlock (h : List W32) (b : List Byte) : List W32 :=
  let block := (List.range 16).reverse.map fun i => w32 (ofBe ((b.drop (4 * i)).take 4))
  List.zipWith (· + ·) h ((List.zipWith (· + ·) shaRounds (shaExtend block 48).reverse).foldl shaRound h)

/-- The blocks of a padded message; `n` bounds their number. -/
def shaBlocks (h : List W32) (b : List Byte) : Nat → List W32
  | 0 => h
  | n + 1 => if b.isEmpty then h else shaBlocks (shaBlock h (b.take 64)) (b.drop 64) n

/-- SHA-256, as 32 bytes. -/
def sha256 (b : List Byte) : List Byte :=
  let p := shaPad b
  (shaBlocks shaStart p (p.length / 64)).flatMap fun w => beBytes w.toNat 4

end Sys2Proof.Machine
end

