-- ==== Sys2Proof/Machine/Images.lean ====
section
/-! DEFINITION. Rigger images: the checks of R417, and what an image says
(R7, R51, R181, R341, R347, R348, R415 to R417). -/
namespace Sys2Proof.Machine

/-! ### Reading an image -/

/-- The 64-bit word at a byte offset of an image. -/
def imgWord (b : List Byte) (off : Nat) : Nat := leAt b off 8
/-- A field of it. -/
def imgFld (b : List Byte) (off lo len : Nat) : Nat := nbits (imgWord b off) lo len

/-- A directory entry: its index, section id, offset and length (R415). -/
structure DirEntry where
  k : Nat
  id : Nat
  off : Nat
  len : Nat
deriving DecidableEq, Repr

/-- The directory. -/
def directory (b : List Byte) : List DirEntry :=
  (List.range (imgFld b 0x28 32 4)).map fun k =>
    ⟨k, imgFld b (0x40 + 16 * k) 0 8, imgFld b (0x40 + 16 * k) 32 32, imgWord b (0x48 + 16 * k)⟩
/-- The first entry of a section. -/
def sectionOf (b : List Byte) (id : Nat) : Option DirEntry := (directory b).find? fun d => d.id == id
/-- The bytes of a section; none when the directory lacks it. -/
def sectionBytes (b : List Byte) (id : Nat) : List Byte :=
  match sectionOf b id with
  | some d => (b.drop d.off).take d.len
  | none => []

/-- Engine classes by cluster and engine (`c * 8 + e`) of an ENGINES section (R208, R416). -/
def classOf (engines : List Byte) (c e : Nat) : Nat := nbits (leAt engines (4 * c) 4) (4 * e) 4
def imgClasses (bd : Build) (engines : List Byte) : Tab Nat :=
  ⟨0, (List.range bd.clusters).flatMap fun c => (List.range bd.engines).map fun e => (c * 8 + e, classOf engines c e)⟩

/-- The clusters of a 512-bit set (R181, R348). -/
def clusterSet (b : List Byte) (off : Nat) : List Nat :=
  (List.range 512).filter fun c => imgFld b (off + 8 * (c / 64)) (c % 64) 1 == 1
/-- A crew record (R181). -/
def imgCrew (crews : List Byte) (k : Nat) : Crew :=
  let h := imgWord crews (72 * k)
  if nbits h 0 1 == 0 then Crew.reset
  else ⟨true, nbits h 1 1 == 1, nbits h 16 12, clusterSet crews (72 * k + 8)⟩

/-- A Stroke section (R348). -/
def imgStroke (b : List Byte) : StkImg :=
  let f (off lo len : Nat) : Nat := imgFld b off lo len
  let nodes := f 0x18 12 4
  { iPerWu := f 0 0 16, sUp := f 0 16 16, sDn := f 0 32 16, iIdle := f 0 48 16, iLsb := f 8 0 16, vLsb := f 8 16 16,
    fillNs := f 8 32 16, tAmb := f 8 48 16, burst := f 0x10 0 32, crewStep := f 0x10 32 32, horizon := f 0x18 0 8,
    gainShift := f 0x18 8 4, nodes := nodes
    weights := ⟨0, (List.range 16).map fun k => (k, f (0x20 + 8 * (k / 4)) (16 * (k % 4)) 16)⟩
    node := ⟨⟨0, 15, 0, 0, 0, []⟩, (List.range nodes).map fun n => (n, {
      tLim := f (0x40 + 32 * n) 0 16, parent := f (0x40 + 32 * n) 16 4, rn := f (0x40 + 32 * n) 32 32,
      tau := f (0x48 + 32 * n) 0 32, floor := f (0x48 + 32 * n) 32 32, members := clusterSet b (0x140 + 64 * n) })⟩
    fills := ⟨[], (List.range 16).map fun k => (k, bytesToWords (b.drop (0x400 + 64 * k)) 8)⟩ }

/-- What an image says. -/
def imageOf (bd : Build) (base : Nat) (b : List Byte) : Image :=
  let sld := imgWord (sectionBytes b 5) 0
  { base := base, bytes := b
    crews := ⟨Crew.reset, (List.range 64).map fun k => (k, imgCrew (sectionBytes b 3) k)⟩
    classes := imgClasses bd (sectionBytes b 2)
    copyClass := nbits sld 0 4, spadKib := nbits sld 4 11, accKib := nbits sld 15 8
    stroke := if bd.hasStroke then imgStroke (sectionBytes b 4) else StkImg.none }

/-! ### Checking an image (R417) -/

/-- A failed check: the result code, the directory entry and the byte offset of the first failing word. -/
structure Bad where
  result : Nat
  entry : Nat
  off : Nat
deriving DecidableEq, Repr

/-- The first rule of a list that does not hold. -/
def firstBad (l : List (Bool × Nat × Nat)) (entry : Nat) : Option Bad :=
  (l.find? fun x => !x.1).map fun x => ⟨x.2.1, entry, x.2.2⟩

/-- Step 1: the header fields but crc (R415). -/
def badHeader (bd : Build) (b : List Byte) : Option Bad :=
  let n := imgFld b 8 32 32
  let s := imgFld b 0x28 32 4
  firstBad ([
    (imgFld b 0 0 32 == 0x52474952, 1, 0), (imgFld b 0 32 16 == 1, 1, 0), (imgFld b 0 48 8 == 3, 1, 0), (imgFld b 0 56 8 == 0, 1, 0),
    (imgFld b 8 16 16 == lndVersion / 65536, 2, 8), (256 ≤ n && n ≤ 4 * 1024 * 1024, 1, 8),
    (imgWord b 0x10 == lndBuildA bd, 3, 0x10), (imgWord b 0x18 == lndBuildB bd, 3, 0x18),
    (imgFld b 0x20 0 17 == lndUnits bd, 3, 0x20), (imgFld b 0x20 17 47 == 0, 1, 0x20),
    (1 ≤ s && s ≤ 12, 1, 0x28), (imgFld b 0x28 36 28 == 0, 1, 0x28), (imgWord b 0x30 == 0, 1, 0x30), (imgWord b 0x38 == 0, 1, 0x38)] ++
    (List.range s).map fun k => (imgFld b (0x40 + 16 * k) 8 24 == 0, 1, 0x40 + 16 * k)) 0

/-- The offsets of the words of a section at which a rule fails; the least of them decides. -/
def leastOff (l : List (Bool × Nat)) : Option Nat :=
  ((l.filter fun x => !x.1).map Prod.snd).foldl (fun a x => some (match a with | some y => min x y | none => x)) none

/-- The rules on a CREWS section (R181). -/
def crewRules (bd : Build) (b : List Byte) : List (Bool × Nat) :=
  (List.range 64).flatMap fun k =>
    let h := imgWord b (72 * k)
    let defined := nbits h 0 1 == 1
    let c := imgCrew b k
    [(nbits h 2 14 == 0 && nbits h 28 36 == 0, 72 * k),
     (!defined || (k < bd.crews && (nbits h 1 1 == 0 || (1 ≤ nbits h 16 12 && nbits h 16 12 ≤ 4000))), 72 * k),
     (!defined || !c.members.isEmpty, 72 * k + 8)] ++
    (List.range 8).map fun j =>
      (!defined || (c.members.filter fun m => bd.clusters ≤ m && m / 64 == j).isEmpty, 72 * k + 8 + 8 * j)

/-- The rules on a fill command's header (R341). -/
def fillRules (b : List Byte) (k : Nat) : List (Bool × Nat) :=
  let o := 0x400 + 64 * k
  let f (lo len : Nat) : Nat := imgFld b o lo len
  [(f 0 4 == k && f 4 1 == 1 && f 5 1 == 1 && f 6 1 == 0 && f 7 1 == 0 && f 8 6 == 63 && f 15 1 == 0 && f 48 6 == 63 && f 54 10 == 0, o),
   (imgFld b (o + 8) 16 48 == 0, o + 8)]

/-- The weight of each built engine of a cluster, in a Stroke section with an ENGINES section. -/
def imgWeights (bd : Build) (x : StkImg) (engines : List Byte) (c : Nat) : List Nat :=
  (List.range bd.engines).map fun e => x.weights.get (classOf engines c e)

/-- The rules on a STROKE section (R341, R347, R348). -/
def strokeRules (bd : Build) (b engines : List Byte) : List (Bool × Nat) :=
  let x := imgStroke b
  let all := (List.range bd.clusters).flatMap (imgWeights bd x engines)
  let nodes := List.range (min 8 x.nodes)
  [(0 < x.sUp && 0 < x.sDn, 0), (x.fillNs ≤ 20000, 8), (all.all (· ≤ x.burst), 0x10),
   (8 ≤ x.horizon && 3 ≤ x.gainShift && x.nodes ≤ 8 && imgFld b 0x18 16 48 == 0, 0x18)] ++
  nodes.flatMap (fun n =>
    let y := x.node.get n
    [(y.parent == 15 || y.parent < n, 0x40 + 32 * n),
     (x.horizon ≤ y.tau && ((y.members.filter (· < bd.clusters)).flatMap (imgWeights bd x engines)).all (· ≤ y.floor), 0x48 + 32 * n)] ++
    (List.range 8).map fun j =>
      (((clusterSet b (0x140 + 64 * n)).filter fun c => c / 64 == j &&
        (List.range n).any fun m => (x.node.get m).members.contains c).isEmpty, 0x140 + 64 * n + 8 * j)) ++
  (List.range 8).flatMap (fun n => [(imgWord b (0x50 + 32 * n) == 0, 0x50 + 32 * n), (imgWord b (0x58 + 32 * n) == 0, 0x58 + 32 * n)]) ++
  (List.range 24).map (fun j => (imgWord b (0x340 + 8 * j) == 0, 0x340 + 8 * j)) ++
  (List.range 16).flatMap (fillRules b)

/-- The rules on a FOANTONG section. -/
def firmwareRules (b : List Byte) : List (Bool × Nat) :=
  let n := imgFld b 8 0 32
  [(imgFld b 0 32 32 < n, 0), (n % 64 == 0 && imgFld b 8 32 32 == 0, 8), (imgWord b 0x30 == 0, 0x30), (imgWord b 0x38 == 0, 0x38)]

/-- A section's length is in rule (R416). -/
def lengthOk (bd : Build) (b : List Byte) (d : DirEntry) : Bool :=
  match d.id with
  | 1 => 64 ≤ d.len && d.len == 64 + imgFld b (d.off + 8) 0 32 && d.len ≤ 64 + 1024 * 1024
  | 2 => d.len == 4 * bd.clusters
  | 3 => d.len == 64 * 72
  | 4 => d.len == 2048
  | _ => d.len == 64

/-- The rules on an ENGINES section: the classes of engines not built are 0 (R416). -/
def engineRules (bd : Build) (b : List Byte) : List (Bool × Nat) :=
  (List.range bd.clusters).map fun c => ((List.range 8).all fun e => e < bd.engines || classOf b c e == 0, 4 * c)

/-- The rules on a section's content. -/
def sectionRules (bd : Build) (b : List Byte) (d : DirEntry) : List (Bool × Nat) :=
  let x := (b.drop d.off).take d.len
  match d.id with
  | 1 => firmwareRules x
  | 2 => engineRules bd x
  | 3 => crewRules bd x
  | 4 => strokeRules bd x (sectionBytes b 2)
  | _ => [(imgFld x 0 23 41 == 0, 0)] ++ (List.range 7).map fun j => (imgWord x (8 + 8 * j) == 0, 8 + 8 * j)

/-- Step 3 on one directory entry and its section. -/
def badEntry (bd : Build) (b : List Byte) (seen : List Nat) (d : DirEntry) : Option Bad :=
  let n := imgFld b 8 32 32
  let o := 0x40 + 16 * d.k
  if d.id < 1 || 5 < d.id || seen.contains d.id || (d.id == 4 && !bd.hasStroke) || d.off % 64 != 0 || d.off < 0x100 || n < d.off then
    some ⟨5, d.k, o⟩
  else if n < d.off + d.len || !(lengthOk bd b d) then some ⟨5, d.k, o + 8⟩
  else (leastOff (sectionRules bd b d)).map fun w => ⟨5, d.k, d.off + w⟩

/-- Step 3 over the directory. -/
def badEntries (bd : Build) (b : List Byte) (seen : List Nat) : List DirEntry → Option Bad
  | [] =>
    if ([1, 2, 3, 5] ++ (if bd.hasStroke then [4] else [])).all seen.contains then none else
      some ⟨5, 15, Config.freeNat 60 0⟩
  | d :: r => match badEntry bd b seen d with
    | some x => some x
    | none => badEntries bd b (seen ++ [d.id]) r

/-- Step 4: a cluster without an engine of the copy class (R416). -/
def badCopyClass (bd : Build) (b : List Byte) : Option Bad :=
  let cls := imgFld (sectionBytes b 5) 0 0 4
  match (List.range bd.clusters).find? fun c =>
      (List.range bd.engines).all fun e => classOf (sectionBytes b 2) c e != cls with
  | none => none
  | some c => (sectionOf b 2).map fun d => ⟨5, d.k, d.off + 4 * c⟩

/-- Step 5: the digest of the Foantong code, computed, claimed and approved (R417). -/
def badDigest (bd : Build) (b : List Byte) : Option Bad :=
  let fw := sectionBytes b 1
  let claimed := (fw.drop 0x10).take 32
  if sha256 (fw.drop 64) == claimed && bd.approved.contains claimed then none
  else (sectionOf b 1).map fun d => ⟨6, d.k, d.off + 0x10⟩

/-- The checks of R417 in order; `digest` is left out after a compute reset (R421). -/
def checkImage (bd : Build) (digest : Bool) (m : MemRead) : Option Bad :=
  if m.err != .ok then some ⟨11, 0, Config.freeNat 61 0⟩ else
  let b := m.bytes
  match badHeader bd b with
  | some x => some x
  | none =>
    if crc32 ((b.take (imgFld b 8 32 32)).drop 0x100) != imgFld b 0x28 0 32 then some ⟨4, 0, 0x28⟩ else
    match badEntries bd b [] (directory b) with
    | some x => some x
    | none => match badCopyClass bd b with
      | some x => some x
      | none => if digest then badDigest bd b else none

end Sys2Proof.Machine
end

