-- ==== Sys2Proof/Machine/Fp.lean ====
section
/-! DEFINITION. FP32 arithmetic of Judge (R284, R299): round to nearest even, subnormals flushed to zero. -/
namespace Sys2Proof.Machine

/-- A binary32 value. A finite value is a whole number of units of 2^-149, and a non-zero one is at least 2^23 of them. -/
inductive Fp where
  | nan
  | inf (neg : Bool)
  | fin (neg : Bool) (mag : Nat)
deriving DecidableEq, Repr

/-- One, in units of 2^-149. -/
def fpOne : Nat := 2 ^ 149

/-- Round a non-negative rational, in units of 2^-149, to 24 bits: nearest, ties to even; a subnormal result is zero. -/
def roundFp (neg : Bool) (num den : Nat) : Fp :=
  let q := num / den
  if q < 2 ^ 23 then .fin neg (if den * (2 ^ 25 - 1) ≤ 4 * num then 2 ^ 23 else 0)
  else
    let unit := 2 ^ (Nat.log2 q - 23)
    let d := den * unit
    let n := num / d
    let r := 2 * (num % d)
    let m := (if d < r || (r == d && n % 2 == 1) then n + 1 else n) * unit
    if 2 ^ 277 ≤ m then .inf neg else .fin neg m

/-- Read a floating-point pattern with `eb` exponent bits and `mb` mantissa bits; `inf` says whether the top exponent holds
infinities. Subnormals are exact; FP32's are flushed by the caller. -/
def decodeFp (eb mb : Nat) (ieee : Bool) (w : Nat) : Fp :=
  let neg := nbits w (eb + mb) 1 == 1
  let e := nbits w mb eb
  let m := nbits w 0 mb
  let bias := 2 ^ (eb - 1) - 1
  if ieee && e + 1 == 2 ^ eb then (if m = 0 then .inf neg else .nan)
  else if !ieee && e + 1 == 2 ^ eb && m + 1 == 2 ^ mb then .nan
  else if e = 0 then .fin neg (m * 2 ^ (150 - bias - mb))
  else .fin neg ((2 ^ mb + m) * 2 ^ (149 + e - bias - mb))

/-- A binary32 pattern, subnormals flushed (R284). -/
def fp32 (w : Nat) : Fp :=
  match decodeFp 8 23 true w with
  | .fin neg m => .fin neg (if m < 2 ^ 23 then 0 else m)
  | x => x

/-- The logit formats of R280: FP32, BF16, FP16, E4M3, E5M2. BF16 is the upper half of FP32. -/
def fpOf (format w : Nat) : Fp :=
  match format with
  | 0 => fp32 w
  | 1 => fp32 (w * 65536)
  | 2 => decodeFp 5 10 true w
  | 3 => decodeFp 4 3 false w
  | _ => decodeFp 5 2 true w
/-- Bytes per element. -/
def fpBytes (format : Nat) : Nat := match format with | 0 => 4 | 1 => 2 | 2 => 2 | _ => 1

/-- The binary32 pattern of a value. -/
def fpBits : Fp → Nat
  | .nan => 0x7FC00000
  | .inf neg => putb neg 31 + 0x7F800000
  | .fin neg m => if m < 2 ^ 23 then putb neg 31
      else putb neg 31 + (Nat.log2 m - 22) * 2 ^ 23 + m / 2 ^ (Nat.log2 m - 23) % 2 ^ 23

/-- A finite value as a signed number of units. -/
def fpInt (neg : Bool) (m : Nat) : Int := if neg then -(Int.ofNat m) else Int.ofNat m
def fpNeg : Fp → Fp
  | .nan => .nan
  | .inf n => .inf (!n)
  | .fin n m => .fin (!n) m
/-- Round a signed number of units. -/
def fpOfInt (z : Int) (zeroNeg : Bool) : Fp := if z = 0 then .fin zeroNeg 0 else roundFp (z < 0) z.natAbs 1
def fpAdd : Fp → Fp → Fp
  | .nan, _ => .nan
  | _, .nan => .nan
  | .inf a, .inf b => if a == b then .inf a else .nan
  | .inf a, _ => .inf a
  | _, .inf b => .inf b
  | .fin a x, .fin b y => fpOfInt (fpInt a x + fpInt b y) (a && b)
def fpSub (a b : Fp) : Fp := fpAdd a (fpNeg b)
def fpMul : Fp → Fp → Fp
  | .nan, _ => .nan
  | _, .nan => .nan
  | .inf a, .inf b => .inf (a != b)
  | .inf a, .fin b y => if y = 0 then .nan else .inf (a != b)
  | .fin a x, .inf b => if x = 0 then .nan else .inf (a != b)
  | .fin a x, .fin b y => roundFp (a != b) (x * y) fpOne
/-- Division by a finite value that is not zero. -/
def fpDiv : Fp → Fp → Fp
  | .inf a, .fin b _ => .inf (a != b)
  | .fin a x, .fin b y => if y = 0 then .nan else roundFp (a != b) (x * fpOne) y
  | _, _ => .nan
/-- The binary32 of a small count. -/
def fpNat (n : Nat) : Fp := roundFp false (n * fpOne) 1

/-- a < b; NaN is below nothing. -/
def fpLt : Fp → Fp → Bool
  | .nan, _ => false
  | _, .nan => false
  | .inf a, .inf b => a && !b
  | .inf a, .fin _ _ => a
  | .fin _ _, .inf b => !b
  | .fin a x, .fin b y => decide (fpInt a x < fpInt b y)
/-- Equal values: the two zeros are equal. -/
def fpEq (a b : Fp) : Bool := a != .nan && b != .nan && !(fpLt a b) && !(fpLt b a)
def fpFinite : Fp → Bool
  | .fin _ _ => true
  | _ => false
def fpPos (a : Fp) : Bool := fpLt (.fin false 0) a
/-- The magnitude of a finite value, in units. -/
def fpMag : Fp → Nat
  | .fin _ m => m
  | _ => 0

/-! ### The exponential (R287, R299) -/

/-- Terms of the Taylor series of exp at `y`, in fixed point with 200 fractional bits. -/
def expSeries (y term i : Nat) : Nat → Nat
  | 0 => 0
  | fuel + 1 => term + expSeries y (term * y / 2 ^ 200 / i) (i + 1) fuel
/-- Square a fixed-point number some times. -/
def squareUp (x : Nat) : Nat → Nat
  | 0 => x
  | n + 1 => squareUp (x * x / 2 ^ 200) n
/-- exp of a number of units of 2^-149 up to about 90, in fixed point with 200 fractional bits, to far within R299's bound. -/
def expFix (units : Nat) : Nat := squareUp (expSeries (units * 2 ^ 51 / 256) (2 ^ 200) 1 45) 8

/-- What R299 allows for exp of a finite operand: any binary32 within a relative 2^-22, which a free value chooses; where the
free value lies outside, the nearest. Results that would be subnormal are zero, those past the format infinite. -/
def expFinite (neg : Bool) (m : Nat) : Fp :=
  if m = 0 then .fin false fpOne
  else if 90 * fpOne ≤ m then (if neg then .fin false 0 else .inf false)
  else
    let e := expFix m
    let (num, den) : Nat × Nat := if neg then (2 ^ 349, e) else (e, 2 ^ 51)
    let near := roundFp false num den
    match fp32 (Config.judgeExp (BitVec.ofNat 32 (fpBits (.fin neg m)))).toNat with
    | .fin false v => if num * (2 ^ 22 - 1) ≤ v * den * 2 ^ 22 && v * den * 2 ^ 22 ≤ num * (2 ^ 22 + 1) then .fin false v else near
    | _ => near
/-- exp. -/
def fpExp : Fp → Fp
  | .nan => .nan
  | .inf neg => if neg then .fin false 0 else .inf false
  | .fin neg m => expFinite neg m

/-- ê of a token from z_t and m (R287). -/
def expWeight (z m : Fp) : Fp :=
  if fpEq z m then .fin false fpOne
  else
    let d := fpSub z m
    if fpLt d (.fin true (87 * fpOne)) then .fin false 0 else fpExp d

/-- A sum as Judge computes it: the exact sum with a free error of at most a relative 2^-21 (R299). -/
def freeSum (seed site : Nat) (sum : Nat) : Nat :=
  let e := Config.judgeSumError seed site
  let b : Nat := sum / 2 ^ 21
  (Int.ofNat sum + max (-(Int.ofNat b)) (min (Int.ofNat b) e)).toNat

end Sys2Proof.Machine
end

