-- ==== Sys2Proof/Machine/Sampling.lean ====
section
/-! DEFINITION. What Judge computes for one request from the bytes it has read (R279 to R297). -/
namespace Sys2Proof.Machine

/-! ### Reading -/

/-- Why a request cannot be decided yet, or at all: with a failure, what its rows have counted (non-finite elements, rows,
elements). -/
inductive Need where
  | lines (addrs : List Nat)
  | wide (blocks : List (Nat × Nat))
  | fail (code : BitVec 16) (nonfinite rows elems : Nat)

/-- What a request can read: the job's bytes, the build's lanes, and the job's seed of free values. -/
structure JEnv where
  got : List (Nat × List Byte)
  blocks : List (Nat × List Byte)
  lanes : Nat
  seed : Nat

/-- The bytes of a listed line or block. -/
def findBytes (l : List (Nat × List Byte)) (a : Nat) : Option (List Byte) := (l.find? fun p => p.1 == a).map Prod.snd
/-- Bytes that lie in 64-byte lines, read through the narrow path. -/
def readLines (e : JEnv) (addr len : Nat) : Except Need (List Byte) :=
  if len = 0 then .ok [] else
    let first := addr / 64
    let ls := (List.range ((addr + len - 1) / 64 - first + 1)).map fun i => (first + i) * 64
    let missing := ls.filter fun a => (findBytes e.got a).isNone
    if missing.isEmpty then .ok (((ls.flatMap fun a => (findBytes e.got a).getD []).drop (addr - first * 64)).take len)
    else .error (.lines missing)
/-- The most bytes of one request on the wide port: 16 beats of 2 × lanes bytes. -/
def wideMax (e : JEnv) : Nat := 32 * max 1 e.lanes
/-- Bytes from a 256-byte aligned address, read through the wide port in requests of at most 16 beats. What is read again is told
apart by `pass`, which stands above the 56 bits of an address. -/
def readWide (e : JEnv) (pass addr len : Nat) : Except Need (List Byte) :=
  let n := wideMax e
  let bs := (List.range ((len + n - 1) / n)).map fun i => (pass * 2 ^ 56 + (addr + i * n) % 2 ^ 56, min n (len - i * n))
  let missing := bs.filter fun b => (findBytes e.blocks b.1).isNone
  if missing.isEmpty then .ok (bs.flatMap fun b => ((findBytes e.blocks b.1).getD []).take b.2) else .error (.wide missing)
/-- A check of a request. -/
def checkJ (bad : Bool) (code : BitVec 16) : Except Need Unit := if bad then .error (.fail code 0 0 0) else .ok ()
/-- The token in a 32-bit word: its low 20 bits (R279). -/
def tokenAt (b : List Byte) (off : Nat) : Nat := leAt b off 4 % 2 ^ 20
/-- Tokens packed three to a word from an offset (R282). -/
def packedToken (b : List Byte) (off i : Nat) : Nat := nbits (leAt b (off + 8 * (i / 3)) 8) (20 * (i % 3)) 20
/-- A packed list of 18 places is clean past its first `n`: unused slots and bits [63:60] are zero. -/
def packedClean (b : List Byte) (off n : Nat) : Bool :=
  ((List.range 18).all fun i => i < n || packedToken b off i == 0) && (List.range 6).all fun w => nbits (leAt b (off + 8 * w) 8) 60 4 == 0

/-! ### Requests, headers, parameters (R279 to R283) -/

/-- A request record (R279). -/
structure JReq where
  salt : Nat
  gen : Nat
  hdr : Nat
  first : Nat
  rows : Nat
  params : Nat
  promptEnd : Nat
  outEnd : Nat
  promptLen : Nat
  drafts : Nat

def reqOf (b : List Byte) : JReq :=
  { salt := leAt b 0 4, gen := leAt b 4 4, hdr := leAt b 8 7, first := leAt b 0x10 4, rows := leAt b 0x14 1 % 32,
    params := leAt b 0x18 7, promptEnd := leAt b 0x20 7, outEnd := leAt b 0x28 7, promptLen := leAt b 0x30 3, drafts := leAt b 0x38 7 }
/-- The checks of a request that need nothing else. -/
def reqBad (b : List Byte) : Bool :=
  let r := reqOf b
  leAt b 0x0F 1 != 0 || leAt b 0x14 4 / 32 != 0 || leAt b 0x1F 1 != 0 || leAt b 0x27 1 != 0 || leAt b 0x2F 1 != 0 ||
  leAt b 0x33 5 != 0 || leAt b 0x3F 1 != 0 || r.rows == 0 || 17 < r.rows || r.hdr % 256 != 0 || r.params % 64 != 0 ||
  r.promptEnd % 4 != 0 || r.outEnd % 4 != 0 || r.drafts % 64 != 0

/-- A logits header (R280). -/
structure JHdr where
  format : Nat
  cand : Bool
  vocab : Nat
  stride : Nat
  shards : Nat
  cands : Nat

def hdrOf (b : List Byte) : JHdr :=
  { format := leAt b 0 1 % 16, cand := leAt b 0 1 / 16 % 2 == 1, vocab := leAt b 8 4 % 2 ^ 21, stride := leAt b 0x0C 4,
    shards := leAt b 0x10 2 % 1024, cands := leAt b 0x12 2 % 2048 }
/-- Bytes of a shard block (R292). -/
def blockBytes (h : JHdr) : Nat := 256 * ((64 + 8 * h.cands + 255) / 256)
/-- Bytes of a row. -/
def rowBytes (h : JHdr) : Nat := if h.cand then h.shards * blockBytes h else h.vocab * fpBytes h.format
def hdrBad (b : List Byte) : Bool :=
  let h := hdrOf b
  leAt b 0 8 / 32 != 0 || leAt b 8 4 / 2 ^ 21 != 0 || leAt b 0x10 2 / 1024 != 0 || leAt b 0x12 6 / 2048 != 0 ||
  (b.drop 0x18).any (· != 0) || 4 < h.format || (h.cand && h.format != 0) || h.vocab == 0 || 1048576 < h.vocab || h.stride == 0 ||
  (h.cand && (h.shards == 0 || 512 < h.shards || h.cands == 0 || 1024 < h.cands)) || h.stride * 256 < rowBytes h

/-- A sampling-parameter record (R281). -/
structure JPar where
  invTemp : Fp
  tempBits : Nat
  topP : Fp
  minP : Fp
  topK : Nat
  rep : Fp
  freq : Fp
  presence : Fp
  window : Nat
  prompt : Bool
  nEnd : Nat
  nStop : Nat
  seed : Nat
  stream : Nat
  used : Nat
  ends : List Nat
  minNew : Nat
  stopList : Nat
  biasList : Nat
  nBias : Nat
  mask : Nat

def parOf (b : List Byte) : JPar :=
  let w := leAt b 0x1C 4
  { invTemp := fp32 (leAt b 0 4), tempBits := leAt b 0 4, topP := fp32 (leAt b 4 4), minP := fp32 (leAt b 8 4),
    topK := leAt b 0x0C 4 % 2048, rep := fp32 (leAt b 0x10 4), freq := fp32 (leAt b 0x14 4), presence := fp32 (leAt b 0x18 4),
    window := w % 8192, prompt := nbits w 13 1 == 1, nEnd := nbits w 14 3, nStop := nbits w 17 4, seed := leAt b 0x20 8,
    stream := leAt b 0x28 4, used := leAt b 0x2C 4 % 2 ^ 21,
    ends := ([nbits (leAt b 0x30 8) 0 20, nbits (leAt b 0x30 8) 20 20, nbits (leAt b 0x30 8) 40 20, nbits (leAt b 0x38 8) 0 20]).take
      (nbits w 14 3),
    minNew := nbits (leAt b 0x38 8) 20 24, stopList := leAt b 0x40 7, biasList := leAt b 0x48 7, nBias := leAt b 0x50 2 % 512,
    mask := leAt b 0x58 7 }
def fpZero : Fp := .fin false 0
def fpUnit : Fp := .fin false fpOne
def parBad (vocab : Nat) (b : List Byte) : Bool :=
  let p := parOf b
  !(fpFinite p.invTemp) || fpLt p.invTemp fpZero || !(fpPos p.topP) || fpLt fpUnit p.topP || p.minP == .nan || fpLt p.minP fpZero ||
  !(fpLt p.minP fpUnit) || 1024 < p.topK || leAt b 0x0C 4 / 2048 != 0 || !(fpFinite p.rep) || !(fpPos p.rep) || !(fpFinite p.freq) ||
  !(fpFinite p.presence) || 4096 < p.window || 4 < p.nEnd || 8 < p.nStop || nbits (leAt b 0x1C 4) 21 11 != 0 ||
  leAt b 0x2C 4 / 2 ^ 21 != 0 || vocab < p.used || nbits (leAt b 0x30 8) 60 4 != 0 || nbits (leAt b 0x38 8) 44 20 != 0 ||
  (p.ends.any fun t => vocab ≤ t) || leAt b 0x47 1 != 0 || leAt b 0x4F 1 != 0 || leAt b 0x50 8 / 512 != 0 || leAt b 0x5F 1 != 0 ||
  (b.drop 0x60).any (· != 0) || p.stopList % 64 != 0 || p.biasList % 8 != 0 || p.mask % 256 != 0 || 256 < p.nBias ||
  (p.nStop == 0 && p.stopList != 0) || (p.nBias == 0 && p.biasList != 0)

/-- A stop sequence, or none when its entry is out of range (R282). -/
def stopOf (vocab : Nat) (b : List Byte) : Option (List Nat) :=
  let n := leAt b 0 1 % 32
  let l := (List.range n).map (packedToken b 8)
  if n = 0 || 16 < n || leAt b 0 8 / 32 != 0 || leAt b 0x38 8 != 0 || !(packedClean b 8 n) || l.any (fun t => vocab ≤ t) then none else some l
/-- A bias entry: token and FP32; none when out of range. -/
def biasOf (vocab : Nat) (b : List Byte) : Option (Nat × Fp) :=
  let t := leAt b 0 4
  let x := fp32 (leAt b 4 4)
  if vocab ≤ t || !(fpFinite x || x == .inf true) then none else some (t, x)
/-- Every element, or none. -/
def allSome {α : Type} : List (Option α) → Option (List α)
  | [] => some []
  | none :: _ => none
  | some a :: r => (allSome r).map (a :: ·)
/-- Pieces of `n` bytes. -/
def pieces (n k : Nat) (b : List Byte) : List (List Byte) := (List.range k).map fun i => (b.drop (i * n)).take n

/-! ### From logits to a distribution (R284 to R288, R292, R293) -/

/-- What is known of a request's distribution before its rows: parameters, lists and the base history. -/
structure JCtx where
  req : JReq
  hdr : JHdr
  par : JPar
  stops : List (List Nat)
  bias : List (Nat × Fp)
  mask : List Byte
  base : List Nat
  recent : List Nat
  drafts : List Nat
  dist : Option (List (List (Nat × Fp)))

/-- The three steps of R285 on a token that the history holds `n` times. -/
def penalise (p : JPar) (n : Nat) (x : Fp) : Fp :=
  if n = 0 then x else
    let a := if fpPos x then fpDiv x p.rep else fpMul x p.rep
    fpSub (fpSub a (fpMul p.freq (fpNat n))) p.presence
/-- A token's mask bit. -/
def masked (c : JCtx) (t : Nat) : Bool :=
  c.par.mask != 0 && !(Nat.testBit ((c.mask.getD (t / 8) 0).toNat) (t % 8))
/-- R286 for one token with its penalised logit; `none` when it is made ineligible. -/
def adjust (c : JCtx) (j t : Nat) (x : Fp) : Option Fp :=
  let mine := (c.bias.filter fun b => b.1 == t).map Prod.snd
  if mine.contains (.inf true) || (c.par.used != 0 && c.par.used ≤ t) || masked c t ||
     (c.req.gen + j < c.par.minNew && c.par.ends.contains t) then none
  else some (mine.foldl fpAdd x)
/-- The history of row `j` (R285). -/
def history (c : JCtx) (j : Nat) : List Nat := c.base ++ c.drafts.take j
/-- R285 and R286 for one raw logit; NaN and +∞ are ineligible (R284). -/
def finalLogit (c : JCtx) (j : Nat) (h : List Nat) (t : Nat) (x : Fp) : Option Fp :=
  if x == .nan || x == .inf false then none else adjust c j t (penalise c.par (h.count t) x)

/-- A row as read: its tokens with raw logits, and the partial values of its shards. -/
structure JRow where
  elems : List (Nat × Fp)
  parts : List (Fp × Fp × Nat)

/-- A full-vocabulary row. -/
def fullRow (h : JHdr) (b : List Byte) : JRow :=
  let n := fpBytes h.format
  ⟨(List.range h.vocab).map fun t => (t, fpOf h.format (leAt b (t * n) n)), []⟩
/-- A candidate-list row; none when a block's fields are inconsistent (R293). -/
def candRow (h : JHdr) (b : List Byte) : Option JRow :=
  let bs := pieces (blockBytes h) h.shards b
  let count (x : List Byte) : Nat := leAt x 0x0C 2 % 2048
  let elems := bs.flatMap fun x => (List.range (min (count x) h.cands)).map fun i =>
    (tokenAt x (0x40 + 8 * i), fp32 (leAt x (0x44 + 8 * i) 4))
  let parts := bs.map fun x => (fp32 (leAt x 0 4), fp32 (leAt x 4 4), leAt x 8 4)
  let toks := elems.map Prod.fst
  if (bs.any fun x => h.cands < count x) || (parts.any fun p => !(fpFinite p.1) || !(fpFinite p.2.1) || fpLt p.2.1 fpZero) ||
     toks.eraseDups.length != toks.length || (toks.any fun t => h.vocab ≤ t) then none
  else some ⟨elems, parts⟩

/-- The distribution of a row: a greedy token, or the kept list with its weights in units of 2^-149, their exact sum, and the
cut bit. -/
inductive JDist where
  | greedy (t : Nat)
  | kept (l : List (Nat × Nat)) (sum : Nat) (cut : Bool)

/-- Larger values first, then the lower token. -/
def tokenBefore (a b : Nat × Fp) : Bool := if fpLt b.2 a.2 then true else if fpLt a.2 b.2 then false else a.1 < b.1
/-- The sum of weights. -/
def sumOf (l : List (Nat × Nat)) : Nat := (l.map Prod.snd).foldl (· + ·) 0

/-- The normaliser of a candidate-list row (R293), in units; none when it is not finite. `raw` are the candidates' scaled raw
logits and ê. -/
def candNorm (m : Fp) (parts : List (Fp × Fp × Nat)) (raw : List (Fp × Fp)) : Option Nat :=
  let a := parts.map fun p => fpMul p.2.1 (fpExp (fpSub p.1 m))
  let b := raw.map fun r => (r.2, fpExp (fpSub r.1 m))
  let shards := (a.map fpMag).foldl (· + ·) 0
  let z : Int := Int.ofNat shards + (b.map fun x => Int.ofNat (fpMag x.1) - Int.ofNat (fpMag x.2)).foldl (· + ·) 0
  let fits (n : Nat) : Bool := fpFinite (roundFp false n 1)
  if (a.all fpFinite) && (b.all fun x => fpFinite x.2) && fits shards && fits z.natAbs then some z.toNat else none

/-- The shortest prefix whose running sums reach a threshold, or everything; the sums carry R299's free errors. -/
def prefixTo (seed site : Nat) (enough : Nat → Bool) : Nat → Nat → List (Nat × Nat) → List (Nat × Nat)
  | _, _, [] => []
  | i, acc, x :: r =>
    let c := acc + x.2
    if enough (freeSum seed (site + i) c) then [x] else x :: prefixTo seed site enough (i + 1) c r

/-- R287, R288 and R293 for row `j`. -/
def rowDist (c : JCtx) (e : JEnv) (j : Nat) (row : JRow) : Except (BitVec 16) JDist :=
  let h := history c j
  let xs := row.elems.map fun p => (p, finalLogit c j h p.1 p.2)
  let el := xs.filterMap fun p => p.2.map fun x => (p.1.1, x)
  if el.isEmpty then .error eJudgeEmpty
  else if fpMag c.par.invTemp = 0 then
    (match best tokenBefore el with | some p => .ok (.greedy p.1) | none => .error eJudgeEmpty)
  else
    let zs := el.map fun p => (p.1, fpMul p.2 c.par.invTemp)
    let m := (zs.map Prod.snd).foldl (fun a b => if fpLt a b then b else a) (.inf true)
    let es := zs.map fun p => (p.1, fpMag (expWeight p.2 m))
    let exact := sumOf es
    let norm : Option Nat := if row.parts.isEmpty then some (freeSum e.seed (j * 4096) exact)
      else
        let raw := xs.map fun p => (fpMul p.1.2 c.par.invTemp,
          (match p.2 with | some x => expWeight (fpMul x c.par.invTemp) m | none => fpZero))
        if row.parts.any fun p => p.2.2 != c.par.tempBits then none
        else (candNorm m row.parts raw).map fun z => max (freeSum e.seed (j * 4096) z) exact
    match norm with
    | none => .error eJudgePartial
    | some z =>
      let cap := if c.par.topK = 0 then 1024 else min c.par.topK 1024
      let k0 := (sortBy tokenBefore zs).take cap
      let k1 := (k0.map fun p => (p.1, fpMag (expWeight p.2 m))).filter fun p => fpMag c.par.minP ≤ p.2
      let k := prefixTo e.seed (j * 4096 + 1) (fun s => fpMag c.par.topP * z ≤ s * fpOne) 0 0 k1
      .ok (.kept k (sumOf k) (c.par.topK = 0 && 1024 < el.length && k.length == k1.length))

/-! ### The draw (R289, R291) -/

/-- One round of the generator. -/
def philoxRound (c : Nat × Nat × Nat × Nat) (k : Nat × Nat) : Nat × Nat × Nat × Nat :=
  let a := 0xd2511f53 * c.1
  let b := 0xcd9e8d57 * c.2.2.1
  ((b / 2 ^ 32) ^^^ c.2.1 ^^^ k.1, b % 2 ^ 32, (a / 2 ^ 32) ^^^ c.2.2.2 ^^^ k.2, a % 2 ^ 32)
/-- Rounds with their keys. -/
def philox (c : Nat × Nat × Nat × Nat) (k : Nat × Nat) : Nat → Nat
  | 0 => c.1
  | n + 1 => philox (philoxRound c k) ((k.1 + 0x9e3779b9) % 2 ^ 32, (k.2 + 0xbb67ae85) % 2 ^ 32) n
/-- ctr0 of a draw; u is this number over 2^32. -/
def draw (c : JCtx) (j purpose : Nat) : Nat :=
  philox ((c.req.gen + j) % 2 ^ 32, purpose, c.par.stream, c.req.salt) (c.par.seed % 2 ^ 32, c.par.seed / 2 ^ 32) 10

/-- The first token whose running sum exceeds u × W, or the last (R291). -/
def pickFrom (seed site ctr w : Nat) : Nat → Nat → List (Nat × Nat) → Nat × Nat
  | _, _, [] => (0, 0)
  | _, _, [x] => x
  | i, acc, x :: r =>
    let c := acc + x.2
    if ctr * w < freeSum seed (site + i) c * 2 ^ 32 then x else pickFrom seed site ctr w (i + 1) c r
/-- A sample from a list with the draw (gen_index + j, 0): the token and its weight. -/
def sampleFrom (c : JCtx) (e : JEnv) (j : Nat) (l : List (Nat × Nat)) : Nat × Nat :=
  pickFrom e.seed (j * 4096 + 2048) (draw c j 0) (freeSum e.seed (j * 4096 + 2047) (sumOf l)) 0 0 l

/-- A token's share of a sum as the result shows it (R299): any FP32 number within a relative 2^-19, as a free error says; the
nearest one where the error leads further away. -/
def shareFp (e : JEnv) (j num den : Nat) : W32 :=
  let err := max (-(2 ^ 22 : Int)) (min (2 ^ 22 : Int) (Config.judgeSumError e.seed (j * 4096 + 4095)))
  let x := num * fpOne
  let d := max 1 den
  let v := roundFp false (x * (2 ^ 40 + err).toNat) (d * 2 ^ 40)
  let off := (Int.ofNat (fpMag v * d) - Int.ofNat x).natAbs
  w32 (fpBits (if off * 2 ^ 19 ≤ x then v else roundFp false x d))

/-! ### Deciding (R294 to R296) -/

/-- What a request has so far. -/
structure JOut where
  tokens : List Nat
  accepted : Nat
  stop : Nat
  cut : Bool
  nonfinite : Nat
  kept : Nat
  prob : W32
  rows : Nat
  elems : Nat

/-- Whether a list ends with another. -/
def endsWith (l s : List Nat) : Bool := s.length ≤ l.length && l.drop (l.length - s.length) == s
/-- The first test of R296 that holds after an append: 0 none, 1 end token, 2 stop sequence. -/
def stopTest (c : JCtx) (tokens : List Nat) : Nat :=
  if c.par.ends.contains (tokens.getLast?.getD 0) && !tokens.isEmpty then 1
  else if c.stops.any fun s => endsWith (c.recent ++ tokens) s then 2
  else 0
/-- Append a token decided with a kept list of some size and a probability. -/
def JOut.append (o : JOut) (c : JCtx) (t kept : Nat) (prob : W32) : JOut :=
  { o with tokens := o.tokens ++ [t], stop := stopTest c (o.tokens ++ [t]), kept := kept, prob := prob }

/-- The bits of 1.0. -/
def oneBits : W32 := 0x3F800000
/-- The probability the drafter gave a token, in units of 2^-149 (R294). -/
def draftProb (c : JCtx) (j t : Nat) : Nat :=
  match c.dist with
  | none => if c.drafts.getD j 0 == t then fpOne else 0
  | some ls => match (ls.getD j []).find? fun p => p.1 == t && fpPos p.2 with
    | some p => fpMag p.2
    | none => 0

/-- The mask, which Judge reads with each row of a full vocabulary (R300), and once for candidates. -/
def readMask (c : JCtx) (e : JEnv) (j : Nat) : Except Need JCtx :=
  if c.par.mask = 0 then .ok c else
    (readWide e (1 + (if c.hdr.cand then 0 else j)) c.par.mask ((c.hdr.vocab + 7) / 8)).map fun b => { c with mask := b }
/-- Read row `j`, with the counters it moves. -/
def readRow (c : JCtx) (e : JEnv) (j : Nat) (o : JOut) : Except Need (JRow × JOut) := do
  let b ← readWide e 0 (c.req.hdr + 256 + (c.req.first + j) * 256 * c.hdr.stride) (rowBytes c.hdr)
  let row ← if c.hdr.cand then (match candRow c.hdr b with | some r => .ok r | none => .error (.fail eJudgePartial o.nonfinite (o.rows + 1) o.elems))
    else .ok (fullRow c.hdr b)
  let bad := (row.elems.filter fun p => p.2 == .nan || p.2 == .inf false).length
  return (row, { o with nonfinite := o.nonfinite + bad, rows := o.rows + 1, elems := o.elems + row.elems.length })

/-- A row's distribution as a step of a request. -/
def distStep (c : JCtx) (e : JEnv) (j : Nat) (row : JRow) (o : JOut) : Except Need JDist :=
  match rowDist c e j row with
  | .ok d => .ok d
  | .error code => .error (.fail code o.nonfinite o.rows o.elems)

/-- decide() of R295 from row `j` on. -/
def decideFrom (c : JCtx) (e : JEnv) : Nat → Nat → JOut → Except Need JOut
  | 0, _, o => .ok o
  | fuel + 1, j, o => do
    let (row, o1) ← readRow c e j o
    let cj ← readMask c e j
    let d ← distStep cj e j row o1
    let last := j == c.drafts.length
    match d with
    | .greedy g =>
      let o2 := { o1 with cut := false }.append c g 1 oneBits
      if last then return o2
      else if g != c.drafts.getD j 0 then return o2
      else
        let o3 : JOut := { o2 with accepted := o2.accepted + 1 }
        if o3.stop != 0 then return o3 else decideFrom c e fuel (j + 1) o3
    | .kept k s cut =>
      let o2 : JOut := { o1 with cut := cut }
      if last then
        let x := sampleFrom c e j k
        return o2.append c x.1 k.length (shareFp e j x.2 s)
      else
        let dj := c.drafts.getD j 0
        let w := ((k.find? fun p => p.1 == dj).map Prod.snd).getD 0
        let sj := freeSum e.seed (j * 4096 + 2046) s
        if draw c j 1 * draftProb c j dj * sj < w * 2 ^ 32 * fpOne then
          let o3 : JOut := { o2.append c dj k.length (shareFp e j w s) with accepted := o2.accepted + 1 }
          if o3.stop != 0 then return o3 else decideFrom c e fuel (j + 1) o3
        else
          let res := k.map fun p => (p.1, p.2 * fpOne - draftProb c j p.1 * sj)
          let l := if res.all (fun p => p.2 == 0) then k else res
          let x := sampleFrom c e j l
          return o2.append c x.1 k.length (shareFp e j x.2 (sumOf l))

/-- Tokens that end at an address. -/
def tokensBefore (e : JEnv) (end_ n : Nat) : Except Need (List Nat) := do
  let b ← readLines e ((end_ + 2 ^ 56 - 4 * n) % 2 ^ 56) (4 * n)
  return (List.range n).map fun i => tokenAt b (4 * i)

/-- A draft slot (R294): its tokens and lists, or E_JUDGE_DRAFTS. -/
def readDrafts (e : JEnv) (r : JReq) (h : JHdr) : Except Need (List Nat × Option (List (List (Nat × Fp)))) := do
  if r.drafts = 0 then return ([], none)
  let b ← readLines e r.drafts 128
  let n := leAt b 0 1 % 32
  let isDist := leAt b 0 1 / 32 % 2 == 1
  let dist := leAt b 8 7
  let toks := (List.range n).map (packedToken b 0x10)
  checkJ (16 < n || r.rows < n + 1 || leAt b 0 8 / 64 != 0 || leAt b 0x0F 1 != 0 || !(packedClean b 0x10 n) ||
    (b.drop 0x40).any (· != 0) || (toks.any fun t => h.vocab ≤ t) || (if isDist then dist % 256 != 0 else dist != 0)) eJudgeDrafts
  if !isDist then return (toks, none)
  let all ← readWide e 0 dist (8192 * n)
  let lists := (pieces 8192 n all).map fun l => (pieces 8 1024 l).map fun x => (leAt x 0 4, fp32 (leAt x 4 4))
  let bad (p : Nat × List (Nat × Fp)) : Bool :=
    let live := p.2.filter fun x => x.2 != .fin false 0 && x.2 != .fin true 0
    (p.2.any fun x => !(fpFinite x.2) || fpLt x.2 fpZero || 2 ^ 20 ≤ x.1) ||
    (live.map Prod.fst).eraseDups.length != live.length || !(live.any fun x => x.1 == p.1)
  checkJ ((toks.zip lists).any bad) eJudgeDrafts
  return (toks, some lists)

/-- The whole of a request (R283, R285, R295): what it needs to read next, its error, or its outcome. -/
def decideRequest (e : JEnv) (addr : Nat) : Except Need JOut := do
  let rb ← readLines e addr 64
  checkJ (reqBad rb) eJudgeRequest
  let r := reqOf rb
  let hb ← readLines e r.hdr 256
  let pb ← readLines e r.params 128
  checkJ (r.promptEnd == 0 && r.promptLen != 0 && (parOf pb).prompt) eJudgeRequest
  checkJ (hdrBad hb) eJudgeHeader
  let h := hdrOf hb
  checkJ (parBad h.vocab pb) eJudgeParams
  let p := parOf pb
  let sb ← readLines e p.stopList (64 * p.nStop)
  let stops ← match allSome ((pieces 64 p.nStop sb).map (stopOf h.vocab)) with | some l => .ok l | none => .error (.fail eJudgeParams 0 0 0)
  let bb ← readLines e p.biasList (8 * p.nBias)
  let bias ← match allSome ((pieces 8 p.nBias bb).map (biasOf h.vocab)) with | some l => .ok l | none => .error (.fail eJudgeParams 0 0 0)
  let (drafts, dist) ← readDrafts e r h
  let hg := min p.window r.gen
  let gen ← tokensBefore e r.outEnd (max hg (min 15 r.gen))
  let pre ← tokensBefore e r.promptEnd (if p.prompt then min (p.window - hg) r.promptLen else 0)
  let c : JCtx := ⟨r, h, p, stops, bias, [], gen.drop (gen.length - hg) ++ pre, gen.drop (gen.length - min 15 r.gen), drafts, dist⟩
  decideFrom c e (drafts.length + 1) 0 ⟨[], 0, 0, false, 0, 0, 0, 0, 0⟩

/-- The words of a result record (R297). -/
def judgeWords (r : JudgeResult) : List W64 :=
  if r.error != 0 then [w64 (1 + put r.nonfinite 32 16 + put r.error.toNat 48 16), 0, 0, 0, 0, 0, 0, 0]
  else [w64 (put r.tokens.length 4 5 + put r.stop 9 2 + putb r.cut 11 + put r.accepted 12 5 + put r.nonfinite 32 16)] ++
    packTokens6 r.tokens ++ [w64 (put r.kept 0 32 + r.prob.toNat * 2 ^ 32)]
where
  packTokens6 (l : List Nat) : List W64 :=
    (List.range 6).map fun w => w64 (put (l.getD (3 * w) 0) 0 20 + put (l.getD (3 * w + 1) 0) 20 20 + put (l.getD (3 * w + 2) 0) 40 20)

end Sys2Proof.Machine
end

