-- ==== Sys2Proof/Machine/Judge.lean ====
section
/-! DEFINITION. Judge: jobs, requests, results (R276, R277, R295 to R298). -/
namespace Sys2Proof.Machine

def updJudge (f : Judge → Judge) (s : State) : State := { s with judge := f s.judge }
/-- Change an accepted job. -/
def updJJob (id : Nat) (f : JudgeJob → JudgeJob) (s : State) : State :=
  updJudge (fun g => { g with jobs := g.jobs.map fun j => if j.id == id then f j else j }) s
def jjob (s : State) (id : Nat) : Option JudgeJob := s.judge.jobs.find? fun j => j.id == id

/-- The owner of a job's program or heat. -/
def jobOwner (j : JudgeJob) : Owner :=
  match j.of_ with
  | .prog o _ _ => o
  | .heat l k => .heat l k
/-- A job's entry or heat has failed, or is gone. -/
def jobOrphan (s : State) (j : JudgeJob) : Bool :=
  match s.work? (jobOwner j) with
  | some w => w.failed.isSome
  | none => true

/-- A job leaves Judge: it is reported to Marshal, whose group counter falls, or to Heat (R277). -/
def reportJob (j : JudgeJob) (s : State) : State :=
  match j.of_ with
  | .prog o seat g => seatEvent seat o (subGroup o g 1 s)
  | .heat l k =>
    if j.err.isSome then settleOwner (.heat l k) s
    else updJudge (fun g => { g with done := g.done ++ [(l, k, none, j.answers)] }) s
/-- A job that will write nothing more and waits for nothing is done. -/
def finishJob (id : Nat) (s : State) : State :=
  match jjob s id with
  | none => s
  | some j =>
    if j.out != 0 || j.writes != 0 || (j.err.isNone && j.at_ < j.n) then s
    else reportJob j (updJudge (fun g => { g with
      jobs := g.jobs.filter fun x => x.id != id, nJobs := satAdd 64 g.nJobs 1 }) s)
/-- Judge abandons the jobs whose owners have failed, at a request boundary (R277): a request under way comes to its end first. -/
def abandonJobs (s : State) : State :=
  each (s.judge.jobs.filter fun j => j.out == 0 && !j.started && j.err.isNone && jobOrphan s j) (fun s j =>
    finishJob j.id (updJJob j.id (fun j => { j with err := some 0 }) s)) s

/-! ### JUDGE and JUDGE_JOB_ACCEPT (R276, R277) -/

def judgeWord : WordMeaning := fun k seat p w s =>
  let a := operandA p.regs w
  let v := (operandV p.regs w).toNat
  let res := fld w.w3 0 56
  let g := w.opf % 4
  if v = 0 || 4096 < v || a % 64 != 0 || res % 64 != 0 then wordFailAt k seat p 1 eBadOperand a s
  else if groupFull s p.owner g 1 then stallCore k .order s
  else stallCore k .unit (newJob (.prog p.owner seat g) p.ctx v a res (addGroup p.owner g 1 s))
def execWJudge (k : Nat) (s : State) : Out := .next (runWord 0x70 true judgeWord k s)

/-- A core's JUDGE has been accepted: the word is complete. -/
def judgeAccepted (j : JudgeJob) (s : State) : State :=
  match j.of_ with
  | .heat _ _ => s
  | .prog o seat _ => match coreOf s seat, s.prog? seat with
    | some k, some p =>
      if p.owner == o && (s.core k).seats.head? == some seat && (s.core k).st == .stall then advance seat (runCore k s) else s
    | _, _ => s

/-- A waiting submission whose owner has failed goes. -/
def dropSubmission (s : State) (j : JudgeJob) : State :=
  reportJob { j with err := some 0 } (updJudge (fun g => { g with waiting := g.waiting.filter fun x => x.id != j.id }) s)
/-- JUDGE_JOB_ACCEPT (R277): a submission takes a place of the queue. -/
def judgeJobAcceptOp (s : State) : State :=
  if !(computeUp s) then s else
    let s1 := (s.judge.waiting.filter (jobOrphan s)).foldl dropSubmission s
    match s1.judge.waiting with
    | [] => s1
    | j :: rest =>
      if 16 ≤ s1.judge.jobs.length then s1
      else judgeAccepted j (updJudge (fun g => { g with waiting := rest, jobs := g.jobs ++ [{ j with since := s.now }] }) s1)
def execJudgeJobAccept (s : State) : Out := .next (judgeJobAcceptOp s)

/-! ### JUDGE_REQUEST (R295 to R298) -/

/-- Issue reads on the wide port for a job; at most 256 tags are outstanding. -/
def issueWide (j : JudgeJob) (bs : List (Nat × Nat)) (s : State) : State :=
  let bs' := bs.take (256 - s.ports.wd.length)
  each bs' (fun s b =>
    let tag := leastFree (s.ports.wd.map (·.tag)) s.ports.wd.length 0
    let addr := b.1 % 2 ^ 56
    hangEv islJdl 0x01 (3 + put tag 4 10 + put (addr / 256) 16 48)
      (updPorts (fun p => { p with wd := p.wd ++ [⟨tag, addr, b.1 / 2 ^ 56, j.ctx, b.2, [], .ok, j.id, s.now, false, false⟩] }) s))
    (updJJob j.id (fun x => { x with out := x.out + bs'.length }) s)

/-- A request has ended: its result is written, and Judge goes on with the next (R297, R298). -/
def endRequest (j : JudgeJob) (r : JudgeResult) (nf rows elems : Nat) (s : State) : State :=
  let s1 := updJJob j.id (fun x => { x with
    at_ := x.at_ + 1, started := false, got := [], wide := [], answers := x.answers ++ [r], writes := x.writes + 1, since := s.now }) s
  let s2 := updJudge (fun g => { g with
    nRequests := satAdd 64 g.nRequests 1, nRows := satAdd 64 g.nRows rows, nElements := satAdd 64 g.nElements elems,
    nErrors := satAdd 64 g.nErrors (if r.error != 0 then 1 else 0), nNonfinite := satAdd 64 g.nNonfinite nf,
    nCut := satAdd 64 g.nCut (if r.cut then 1 else 0) }) s1
  let s3 := if elems = 0 then s2 else ergCount 15 elems { ctx := some j.ctx } s2
  startPlan (.judgeResult j.id) islJds 63 [lineWrites j.ctx (j.results + 64 * j.at_) (judgeWords r)] s3

/-- Work on the request at the front: read what it lacks, or end it. -/
def workRequest (j : JudgeJob) (s : State) : State :=
  match decideRequest ⟨j.got, j.wide, s.build.judgeLanes, j.seed⟩ (j.table + 64 * j.at_) with
  | .error (.lines l) => startFetch (.judge j.id) islJds 63 false j.ctx l (updJJob j.id (fun x => { x with out := x.out + 1 }) s)
  | .error (.wide bs) => issueWide j bs s
  | .error (.fail code nf rows elems) => endRequest j ⟨code, [], 0, false, 0, min 65535 nf, 0, 0⟩ nf rows elems s
  | .ok o => 
    endRequest j ⟨0, o.tokens, o.stop, o.cut, o.accepted, min 65535 o.nonfinite, o.kept, o.prob⟩ o.nonfinite o.rows o.elems s

/-- JUDGE_REQUEST: the first accepted job with a request left takes its next step. -/
def judgeRequestOp (s0 : State) : State :=
  if !(computeUp s0) then s0 else
  let s := abandonJobs s0
  match s.judge.jobs.find? fun j => j.err.isNone && j.at_ < j.n with
  | none => s
  | some j =>
    if j.out != 0 then s
    else if j.started then workRequest j s
    else
      let j1 : JudgeJob := { j with started := true, seed := s.fresh, got := [], wide := [], since := s.now }
      workRequest j1 (updJJob j.id (fun _ => j1) s.nextFree)
def execJudgeRequest (s : State) : Out := .next (judgeRequestOp s)

/-! ### What responses continue -/

/-- A response error fails the job and its owner with class 1 (R298). -/
def judgeError (id : Nat) (err : RespErr) (addr : Nat) (s : State) : State :=
  match jjob s id with
  | none => s
  | some j =>
    let s1 := updJJob id (fun x => { x with err := x.err.or (some (respCode err)) }) s
    let s2 := if j.err.isSome || jobOrphan s j then s1
      else ownerError (jobOwner j) 1 { LogRec.zero with code := respCode err, island := islJds, ctx := j.ctx, addr := addr, tag := j.tag } s1
    finishJob id s2

/-- Narrow reads of a job are answered. -/
def judgeRead (id : Nat) (f : Fetch) (s : State) : State :=
  let s1 := updJJob id (fun x => { x with out := x.out - 1, got := x.got ++ f.got.map fun l => (l.1, wordsToBytes l.2) }) s
  if f.err == .ok then finishJob id s1 else judgeError id f.err f.errAddr s1
/-- A wide read of a job is answered. -/
def judgeWide (q : WdReq) (s : State) : State :=
  let s1 := updJJob q.job (fun x => { x with out := x.out - 1, wide := x.wide ++ [(q.pass * 2 ^ 56 + q.addr, q.got)] }) s
  if q.err == .ok then finishJob q.job s1 else judgeError q.job q.err q.addr s1
/-- A result write of a job is answered. -/
def judgeResultDone (id : Nat) (err : RespErr) (addr : Nat) (s : State) : State :=
  let s1 := updJJob id (fun x => { x with writes := x.writes - 1 }) s
  if err == .ok then finishJob id s1 else judgeError id err addr s1

end Sys2Proof.Machine
end

