-- ==== Sys2Proof/Machine/Stroke.lean ====
section
/-! DEFINITION. Stroke's loop: periods, gain, thermal caps, alerts and telemetry (R336 to R346). -/
namespace Sys2Proof.Machine

/-- A whole number for a rational whose rounding the spec does not state: either neighbour, by a free value. -/
def roundFree (s : State) (site : Nat) (q : Q) : Nat :=
  if q.den = 1 then q.num.toNat else Q.floorNat q + s.freeValue site % 2
/-- A quotient whose value by a zero divisor the spec does not state: then a free value. -/
def divFree (s : State) (site : Nat) (a b : Q) : Q :=
  if b.num = 0 then Q.ofNat (s.freeValue site) else Q.div a b

/-- The bits of STK_CFG that hold a field (R349). -/
def stkMask : W64 := 0x1FFFFFF

/-- The channels Stroke uses (R345). -/
def usedChans (s : State) : List Nat := List.range (s.stk.img.nodes + 2)

/-- The period's mean of a channel, in counts (R336). The spec states none for a period without a sample: a free value. -/
def chanMean (s : State) (ch : Nat) : Q :=
  let x := s.stk.chans.get ch
  if x.n = 0 then Q.ofNat (s.freeValue (40 + ch)) else Q.mk' x.sum x.n

/-- The gain after a period (R337): frozen while a used channel is stale (R345). -/
def nextGain (s : State) : Q :=
  let k := s.stk
  if k.stale != [] || k.lTotal = 0 then k.g
  else
    let net := Q.sub (Q.mul (chanMean s 0) (Q.ofNat k.img.iLsb)) (Q.ofNat (1000 * k.img.iIdle))
    let r := divFree s 20 net (Q.ofNat (k.img.iPerWu * k.lTotal))
    let g := Q.add k.g (Q.div (Q.sub r k.g) (Q.ofNat (2 ^ k.img.gainShift)))
    Q.min (Q.ofNat 2) (Q.max (Q.mk' 1 2) g)

/-- The supply voltage in volts (R342, R345): the period's mean, or the largest of the last 64 samples while a used channel
is stale. -/
def supply (s : State) : Q :=
  let counts := if s.stk.stale != [] then Q.ofNat ((s.stk.chans.get 1).last.foldl max 0) else chanMean s 1
  Q.div (Q.mul counts (Q.ofNat s.stk.img.vLsb)) (Q.ofNat 1000000)
/-- A temperature code in degrees (R348). -/
def degrees (code : Q) : Q := Q.sub (Q.div code (Q.ofNat 64)) (Q.ofNat 64)
/-- node_max_n (R342). -/
def nodeMax (s : State) (n : Nat) : Nat :=
  (((s.stk.img.node.get n).members.filter (· < s.build.clusters)).map (clusterWeight s)).foldl (· + ·) 0

/-- cap_n of the formula of R342, for a gain; floor_n while a used channel is stale (R345). -/
def nodeCap (s : State) (g : Q) (n : Nat) : Q :=
  let x := s.stk.img.node.get n
  if s.stk.stale != [] then Q.ofNat x.floor
  else
    let t := degrees (chanMean s (2 + n))
    let tp := degrees (if x.parent = 15 then Q.ofNat s.stk.img.tAmb else chanMean s (2 + x.parent))
    let lim := Q.sub (degrees (Q.ofNat x.tLim)) (Q.div (Q.ofNat (fld s.stk.cfg 11 8)) (Q.ofNat 4))
    let k := Q.mul (Q.mul (Q.div (Q.ofNat x.rn) (Q.ofNat 65536)) (supply s))
      (Q.mul g (Q.div (Q.ofNat s.stk.img.iPerWu) (Q.ofNat 1000)))
    let heat := Q.sub (Q.add (Q.div (Q.mul (Q.sub lim t) (Q.ofNat x.tau)) (Q.ofNat s.stk.img.horizon)) t) tp
    Q.min (Q.ofNat (nodeMax s n)) (Q.max (Q.ofNat x.floor) (divFree s 21 heat k))

/-- The values distributed after a period (R336), for a gain. -/
def newValues (s : State) (g : Q) : StkVals :=
  let wu := Q.mul (Q.ofNat s.stk.img.iPerWu) g
  let a := Q.div (Q.mul (divFree s 22 (Q.ofNat s.stk.img.sUp) wu) (Q.ofNat (fld s.stk.cfg 3 8 + 1))) (Q.ofNat 256)
  let n := Q.ofNat s.build.clusters
  let caps := each (List.range s.stk.img.nodes) (fun t i => t.set i (nodeCap s g i)) (Tab.const Q.zero)
  ⟨a, Q.div a n, Q.div (divFree s 23 (Q.ofNat s.stk.img.sDn) wu) n, caps,
   each (List.range s.stk.img.nodes) (fun t i => t.set i (roundFree s (30 + i) (caps.get i))) (Tab.const 0)⟩

/-- The values before the first period ends, which the spec does not state: free, the caps within their range. -/
def firstValues (s : State) : StkVals :=
  let cap (i : Nat) : Nat := min (nodeMax s i) (max (s.stk.img.node.get i).floor (s.freeValue (30 + i)))
  let nodes := List.range s.stk.img.nodes
  ⟨Q.ofNat (s.freeValue 24), Q.ofNat (s.freeValue 25), Q.ofNat (s.freeValue 26),
   each nodes (fun t i => t.set i (Q.ofNat (cap i))) (Tab.const Q.zero), each nodes (fun t i => t.set i (cap i)) (Tab.const 0)⟩

/-- A channel without the samples of the periods before the present one (R336). -/
def freshChan (now : Nat) (x : Chan) : Chan := if x.at_ / 4000 == now / 4000 then x else { x with sum := 0, n := 0 }

/-- Enter TRACK (R346): g is 1.0; the buckets are full, or empty after a compute reset. -/
def stkEnter (full : Bool) (s : State) : State :=
  let s1 := updStk (fun k => { k with img := s.rig.now.stroke }) s
  let v := firstValues s1
  let tokens := if full then Q.ofNat s1.stk.img.burst else Q.zero
  (updStk (fun k => { k with
    g := Q.one, gainCode := 4096, force := v, sent := v, buckets := Tab.const ⟨tokens, tokens, s.now⟩, stale := [],
    chans := ⟨freshChan s.now k.chans.dflt, k.chans.cells.map fun x => (x.1, freshChan s.now x.2)⟩,
    loads := if k.period == s.now / 4000 then k.loads else loadTotal s1, period := s.now / 4000, since := s.now }) s1).nextFree

/-- The Stroke section of the image applied again in a compute reset (R421). -/
def stkAfterReset (s : State) : State := updStk (fun k => { k with img := s.rig.now.stroke }) s
/-- The end of a compute reset (R346): Stroke is in TRACK when it is enabled. -/
def stkResume (s : State) : State :=
  if bit s.stk.cfg 0 && s.build.hasStroke then stkEnter s.stk.fullStart s else s

/-- STROKE_ENABLE (R346): a write of STK_CFG with enable 1. -/
def strokeEnableOp (data : W64) (s : State) : State :=
  if !s.build.hasStroke then s else
  let on := bit s.stk.cfg 0
  let s1 := updStk (fun k => { k with cfg := (data ||| 1) &&& stkMask }) (if on then settleBuckets s else s)
  if on then s1 else if computeUp s then stkEnter true s1 else updStk (fun k => { k with fullStart := true }) s1
def execStrokeEnable (data : W64) (s : State) : Out := powered s (strokeEnableOp data s)

/-- STROKE_DISABLE (R346): a write of STK_CFG with enable 0. Every Rowlock permits every presentation, so those that wait may
proceed; a fill command that runs goes on to its Finish. -/
def strokeDisableOp (data : W64) (s : State) : State :=
  if !s.build.hasStroke then s else
  let s1 := updStk (fun k => { k with cfg := data &&& stkMask &&& ~~~1 }) s
  let top := Q.ofNat s.stk.img.burst
  updStk (fun k => { k with stale := [], force := StkVals.none, sent := StkVals.none, buckets := Tab.const ⟨top, top, s.now⟩ }) s1
def execStrokeDisable (data : W64) (s : State) : Out := powered s (strokeDisableOp data s)

/-- Every channel of a period that begins: no sample yet (R336). -/
def newPeriod (t : Tab Chan) : Tab Chan :=
  ⟨{ t.dflt with sum := 0, n := 0 }, t.cells.map fun x => (x.1, { x.2 with sum := 0, n := 0 })⟩
/-- STROKE_PERIOD (R336, R337, R342, R346): at the end of a period the values delivered for the next one come into force,
new values are computed and delivered, and a new Stroke section takes effect (R423), whose channels alone count as stale
(R345). A period for which the row did not come delivered nothing in time. A period that begins while Stroke is off only
fixes the loads and the samples that it starts from. -/
def strokePeriodOp (s : State) : State :=
  let p := s.now / 4000
  if !s.build.hasStroke || !(computeUp s) || p ≤ s.stk.period then s else
  if !(stkOn s) then updStk (fun k => { k with loads := loadTotal s, period := p, chans := newPeriod k.chans }) s else
  let s1 := updStk (fun k => { k with lTotal := k.loads }) (settleBuckets s)
  let g := nextGain s1
  let v := newValues s1 g
  let s2 := updStk (fun k => { k with
    g := g, gainCode := roundFree s1 27 (Q.mul g (Q.ofNat 4096)), force := k.sent, sent := v,
    allowCode := roundFree s1 28 (Q.mul (if k.oc.effect then Q.zero else v.a) (Q.ofNat 1024)),
    oc := { k.oc with effect := k.oc.event }, th := { k.th with effect := k.th.event },
    chans := newPeriod k.chans, stale := k.stale.filter (· < s.rig.now.stroke.nodes + 2),
    late := satAdd 64 k.late (p - k.period - 1), period := p, img := s.rig.now.stroke }) s1
  (updStk (fun k => { k with loads := loadTotal s2 }) s2).nextFree
def execStrokePeriod (s : State) : Out := .next (strokePeriodOp s)

/-- TELEMETRY_SAMPLE (R336, R345): a sample joins its channel's period; a channel that was stale is stale no more. -/
def telemetrySampleOp (ch val : Nat) (s : State) : State :=
  if !s.build.hasStroke || !(computeUp s) || 10 ≤ ch then s else
  updStk (fun k => { k with
    chans := k.chans.upd ch (fun x0 =>
      let x := if stkOn s then x0 else freshChan s.now x0
      { sum := x.sum + val, n := x.n + 1, last := (x.last ++ [val]).drop (x.last.length - 63), at_ := s.now }),
    stale := k.stale.filter (· != ch) }) s
def execTelemetrySample (ch : BitVec 4) (val : BitVec 16) (s : State) : Out := .next (telemetrySampleOp ch.toNat val.toNat s)

/-- A used channel has delivered no sample for 10 µs (R345). -/
def chanSilent (s : State) (ch : Nat) : Bool := decide (max (s.stk.chans.get ch).at_ s.stk.since + 10 * usTu ≤ s.now)
/-- TELEMETRY_STALE (R345): a used channel has delivered no sample for 10 µs, and every other one of which that is true now is
stale with it; Umpire logs their mask once per spell. -/
def telemetryStaleOp (ch : Nat) (s : State) : State :=
  if !(stkOn s) || !((usedChans s).contains ch) || s.stk.stale.contains ch || !(chanSilent s ch) then s else
  let fall := (usedChans s).filter fun x => !(s.stk.stale.contains x) && chanSilent s x
  let s1 := updStk (fun k => { k with stale := k.stale ++ fall }) s
  if s.stk.stale = [] then
    logRec .nothing { LogRec.zero with
      code := eTelemetryStale, island := islStk, info := (fall.map fun x => 2 ^ x).foldl (· + ·) 0 } s1
  else s1
def execTelemetryStale (ch : BitVec 4) (s : State) : Out := .next (telemetryStaleOp ch.toNat s)

/-- One of the two alert lines. -/
def alertOf (thermal : Bool) (k : Stk) : Alert := if thermal then k.th else k.oc
def setAlert (thermal : Bool) (a : Alert) (k : Stk) : Stk := if thermal then { k with th := a } else { k with oc := a }

/-- The load caps that an over-current event fixes, from the loads at its start (R344). -/
def heldLoads (s : State) : Tab Nat :=
  each ((s.fab.rows.cells.map Prod.fst).filter (· < s.build.clusters)) (fun t c =>
    t.set c (loadOf s c * (8 - fld s.stk.cfg 19 3) / 8)) (Tab.const 0)

/-- ALERT_BEGIN (R343, R344): the first sample of 1 begins an event, unless one lasts; a stuck line only counts as a level. -/
def alertBeginOp (thermal : Bool) (s : State) : State :=
  let a := alertOf thermal s.stk
  if !s.build.hasStroke || !(computeUp s) || a.event then s else
  let s1 := if thermal then s else updStk (fun k => { k with held := heldLoads s }) (settleBuckets s)
  updStk (fun k =>
    let k1 := setAlert thermal { a with event := true, since := s.now, effect := true } k
    if a.stuck then k1
    else if thermal then { k1 with thEvents := satAdd 64 k1.thEvents 1 } else { k1 with ocEvents := satAdd 64 k1.ocEvents 1 }) s1
def execAlertBegin (thermal : Bool) (s : State) : Out := .next (alertBeginOp thermal s)

/-- ALERT_END (R343, R346): the line has read 0 for 2 µs, and the event ends; its effects end with the period. A stuck line
acts as a level. -/
def alertEndOp (thermal : Bool) (s : State) : State :=
  let a := alertOf thermal s.stk
  if !a.event || (!a.stuck && s.now < a.since + 2 * usTu) then s else
  updStk (setAlert thermal { a with
    event := false, low := if a.stuck then s.now else s.now - 2 * usTu, effect := stkOn s && !a.stuck }) (settleBuckets s)
def execAlertEnd (thermal : Bool) (s : State) : Out := .next (alertEndOp thermal s)

/-- STUCK_ALERT (R343): a line that has read 1 for more than 50 ms is stuck, and logged once. -/
def stuckAlertOp (thermal : Bool) (s : State) : State :=
  let a := alertOf thermal s.stk
  if !a.event || a.stuck || s.now ≤ a.since + 50 * msTu then s else
  logRec .nothing { LogRec.zero with code := eStuckAlert, island := islStk, info := if thermal then 1 else 0 }
    (updStk (setAlert thermal { a with stuck := true }) s)
def execStuckAlert (thermal : Bool) (s : State) : Out := .next (stuckAlertOp thermal s)

/-- ALERT_UNSTUCK (R343): a stuck line that has read 0 for 50 ms. -/
def alertUnstuckOp (thermal : Bool) (s : State) : State :=
  let a := alertOf thermal s.stk
  if !a.stuck || a.event || s.now < a.low + 50 * msTu then s else updStk (setAlert thermal { a with stuck := false }) s
def execAlertUnstuck (thermal : Bool) (s : State) : Out := .next (alertUnstuckOp thermal s)

/-- STK_STATUS.state (R346). -/
def stkState (s : State) : Nat :=
  if !(stkOn s) then 0 else if s.stk.oc.event || s.stk.th.event then 2 else if s.stk.stale != [] then 3 else 1

end Sys2Proof.Machine
end

