-- ==== Sys2Proof/Machine/Trace.lean ====
section
/-! DEFINITION. Timekeeper's pulse, Wake's streams and Erg's intervals and freezes (R351 to R374). -/
namespace Sys2Proof.Machine

def updTkp (f : Tkp → Tkp) (s : State) : State := { s with tkp := f s.tkp }
def updErg (f : Erg → Erg) (s : State) : State := { s with erg := f s.erg }
def State.stream (s : State) (i : Nat) : Stream := s.wake.streams.get i
def updStream (i : Nat) (f : Stream → Stream) (s : State) : State :=
  { s with wake := { s.wake with streams := s.wake.streams.upd i f } }

/-! ### TIME records and the pulse (R354, R355, R357) -/

/-- A TIME record in a stream (R357, R359). -/
def timeRec (step : Bool) (i : Nat) (s : State) : State :=
  let st := s.stream i
  if !s.build.hasWake || !st.enabled || streamStopped s st then s else
    let w1 := w64 (put (s.now / 2 ^ 56) 0 8 + putb step 8 + putb s.tkp.locked 9 + put (chipId s).toNat 16 16 + put s.ump.incarn 32 8 + put i 40 3)
    writeFull i 8 (updStream i (fun st =>
      { streamTake (recLost s islWak) ⟨nextRec s, islWak, s.now, [recWord0 11 false s.now, w1]⟩ st with lastTime := s.now }) s)
/-- A TIME record in every enabled stream. -/
def timeRecs (step : Bool) (s : State) : State := each (List.range 8) (fun s i => timeRec step i s) s

/-- TIME_RECORD (R357): at any time, at least once every 1 ms. -/
def timeRecordOp (i : Nat) (s : State) : State := if 8 ≤ i || !(computeUp s) then s else timeRec false i s
def execTimeRecord (i : Nat) (s : State) : Out := .next (timeRecordOp i s)

/-- TIME_LOCK (R352): every island's copy is within its bound. -/
def execTimeLock (s : State) : Out := .next (if s.ump.porN then updTkp (fun t => { t with locked := true }) s else s)

/-- The event's time goes to TKP_PULSE (R354). -/
def capture (t : Nat) (s : State) : State := updTkp (fun k => { k with pulse := t, pulseCount := k.pulseCount + 1 }) s

/-- A line's event begins now: not while it is stuck, and not within 2 µs of its last rise, with whose event it merges (R354,
R355). -/
def newEvent (s : State) (stuck : Bool) (last : Option Nat) : Bool :=
  !stuck && (match last with | some t => t + 2 * usTu ≤ s.now | none => true)

/-- TS_PULSE (R354): ts_pulse rises. A rise that is no event's begin still lengthens the event it merges with, or the spell in
which a stuck line reads 1 (assumption 66). -/
def tsPulseOp (s : State) : State :=
  if !s.ump.porN then s else
  let s1 := updTkp (fun t => { t with lastPulse := some s.now }) s
  if !(newEvent s s.tkp.pulseStuck s.tkp.lastPulse) then s1 else
  let t := s.now - fld s.tkp.cfg 22 16
  match fld s.tkp.cfg 0 2 with
  | 0 => s1
  | 2 =>
    let s2 := updTkp (fun k => { k with cfg := setFld k.cfg 0 2 1 }) s1
    if t ≤ s.tkp.load.toNat then
      timeRecs true (updTkp (fun k => { k with now := s.tkp.load.toNat + (s.now - t), frac := 0 }) (capture t s2))
    else
      logRec .nothing { LogRec.zero with code := eTimeLoad, island := islTkp } (updTkp (fun k => { k with loadRefused := true }) s2)
  | _ => capture t s1
def execTsPulse (s : State) : Out := .next (tsPulseOp s)

/-- Whether an input is stuck, and when it last rose; 0 is ts_pulse, 1 and 2 are trig_in (R355). -/
def inputStuck (s : State) : Nat → Bool
  | 0 => s.tkp.pulseStuck
  | 1 => s.erg.trig0Stuck
  | _ => s.erg.trig1Stuck
def inputLast (s : State) : Nat → Option Nat
  | 0 => s.tkp.lastPulse
  | 1 => s.erg.trig0Last
  | _ => s.erg.trig1Last
def setInput (line : Nat) (stuck : Bool) (last : Option Nat) (s : State) : State :=
  match line with
  | 0 => updTkp (fun t => { t with pulseStuck := stuck, lastPulse := last }) s
  | 1 => updErg (fun e => { e with trig0Stuck := stuck, trig0Last := last }) s
  | _ => updErg (fun e => { e with trig1Stuck := stuck, trig1Last := last }) s

/-- STUCK_INPUT (R355): the line has read 1 for more than 50 ms since it rose; logged once. -/
def stuckInputOp (line : Nat) (s : State) : State :=
  if 2 < line || inputStuck s line then s else
  match inputLast s line with
  | none => s
  | some t =>
    if s.now ≤ t + 50 * msTu then s
    else logRec .nothing { LogRec.zero with code := eStuckInput, island := if line = 0 then islTkp else islUmp, info := line }
      (setInput line true (some s.now) s)
def execStuckInput (line : BitVec 2) (s : State) : Out := .next (stuckInputOp line.toNat s)

/-- INPUT_UNSTUCK (R355): the stuck line has read 0 for 50 ms. -/
def inputUnstuckOp (line : Nat) (s : State) : State :=
  if 2 < line || !(inputStuck s line) then s else
  match inputLast s line with
  | some t => if s.now < t + 50 * msTu then s else setInput line false none s
  | none => setInput line false none s
def execInputUnstuck (line : BitVec 2) (s : State) : Out := .next (inputUnstuckOp line.toNat s)

/-! ### Wake's streams (R360 to R366) -/

/-- The selected stream. -/
def selStream (s : State) : Nat := fld s.wake.sel 0 3

/-- A stream may be enabled (R366): size in range, base aligned to it, a status line given. -/
def streamOk (st : Stream) : Bool :=
  let n := fld st.ring 0 6
  16 ≤ n && n ≤ 34 && (fld st.ring 12 44 * 4096) % 2 ^ n == 0 && fld st.statusLine 6 50 != 0

/-- The bits of WAK_STREAM_FILTER that hold a field. -/
def filterMask : W64 := 0xFFFFFFFFFF

/-- STREAM_ENABLE (R366): a write of WAK_STREAM_FILTER with enable 1. It is ignored while the stream is enabled. A response to a
block of before is discarded; during a freeze a stream with freeze_stop is stopped from the start (R372). -/
def streamEnableOp (data : W64) (s : State) : State :=
  let i := selStream s
  if !s.build.hasWake || (s.stream i).enabled then s else
  let s1 := updStream i (fun st => { st with filter := data &&& filterMask &&& ~~~1 }) s
  if !(streamOk (s1.stream i)) then s1
  else timeRec false i (updStream i (fun st => { st with
    filter := st.filter ||| 1, enabled := true, written := 0, issued := 0, consumed := 0, recs := [], lossAt := [],
    blocks := st.blocks.map fun b => { b with stale := true }
    samples := Tab.const 0, stopped := bit data 2 && (s.erg.trigOut0 || (s.erg.frozen && decide (s.erg.freezeTime ≤ s.now))) }) s1)
def execStreamEnable (data : W64) (s : State) : Out := powered s (streamEnableOp data s)

/-- Write everything a stream holds, the last block completed with PAD records. -/
def flushAll (i : Nat) : Nat → State → State
  | 0, s => s
  | fuel + 1, s => if (s.stream i).recs.isEmpty then s else flushAll i fuel (writeBlock i s)

/-- A write of WAK_STREAM_FILTER with enable 0: the stream stops recording, and what it holds is written. -/
def streamDisableOp (data : W64) (s : State) : State :=
  let i := selStream s
  if !s.build.hasWake then s
  else if (s.stream i).enabled then
    updStream i (fun st => { st with filter := st.filter &&& ~~~1, enabled := false }) (flushAll i 64 s)
  else updStream i (fun st => { st with filter := data &&& filterMask &&& ~~~1 }) s

/-- STREAM_CONSUMED (R363): a lower value than before is ignored. -/
def streamConsumedOp (n : W64) (s : State) : State :=
  if !s.build.hasWake then s
  else updStream (selStream s) (fun st => { st with consumed := max st.consumed n.toNat }) s
def execStreamConsumed (n : W64) (s : State) : Out := powered s (streamConsumedOp n s)

/-- TRACE_FLUSH (R362): the oldest record of a partial block has waited flush_ns. -/
def traceFlushOp (i : Nat) (s : State) : State :=
  if 8 ≤ i || !s.build.hasWake || !(computeUp s) then s else
  match (s.stream i).recs.head? with
  | none => s
  | some r => if s.now < r.stamp + 4 * max 100 (fld s.wake.cfg 0 16) then s else writeBlock i s
def execTraceFlush (i : Nat) (s : State) : Out := .next (traceFlushOp i s)

/-- STATUS_LINE_PUBLISH (R362): written, lost and the last record's stamp, on the narrow path in context 0xFFFF. -/
def statusLinePublishOp (i : Nat) (s : State) : State :=
  let st := s.stream i
  if 8 ≤ i || !s.build.hasWake || !(computeUp s) || !st.enabled then s else
  updStream i (fun st => { st with lastPub := s.now })
    (issueNm true (fld st.statusLine 6 50 * 64) 0xFFFF
      (wordsToBytes [w64 st.written, w64 st.lost, w64 st.lastStamp, 0, 0, 0, 0, 0]) 64 0 (.statusLine i) islWak s)
def execStatusLinePublish (i : Nat) (s : State) : Out := .next (statusLinePublishOp i s)

/-- A response error disables the stream (R365); the records `srcs` of its block, and those the stream holds, are lost and counted
(R362). -/
def traceError (i addr : Nat) (srcs : List (Nat × Nat)) (s : State) : State :=
  logRec .nothing { LogRec.zero with code := eTraceWrite, island := islWak, info := i, addr := addr }
    (updStream i (fun st => loseRecs (srcs ++ st.recs.map TraceRec.src)
      { st with filter := st.filter &&& ~~~1, enabled := false, recs := [] }) s)

/-- The blocks that are answered with none unanswered before them leave; written rises over them (R362). -/
def popBlocks (st : Stream) : Nat → Stream
  | 0 => st
  | fuel + 1 => match st.blocks.find? fun b => !b.stale with
    | some b => if b.answered then popBlocks { st with blocks := st.blocks.erase b, written := b.upTo } fuel else st
    | none => st

/-- WK_RESPONSE (R362, R365): a trace block is answered. -/
def execWkResponse (tag : Nat) (err : RespErr) (s : State) : Out :=
  match (List.range 8).find? fun i => (s.stream i).blocks.any fun b => b.tag == tag && !b.answered with
  | none => .fault (.portProtocol "wk_rsp")
  | some i =>
    match (s.stream i).blocks.find? fun b => b.tag == tag && !b.answered with
    | none => .fault (.portProtocol "wk_rsp")
    | some b =>
      let s1 := rspEv islWak 4 tag err s
      let drop (s : State) : State := updStream i (fun st => { st with blocks := st.blocks.filter fun x => x.tag != tag || x.answered }) s
      if err == .target then .next (targetLost 4 islWak b.addr 0xFFFF (drop s1))
      else if b.stale then .next (drop s1)
      else if !(computeUp s) then .next (updStream i (loseRecs b.srcs) (drop s1))
      else if err != .ok then .next (traceError i b.addr b.srcs (drop s1))
      else
        let answered := updStream i (fun st =>
          popBlocks { st with blocks := st.blocks.map fun x => if x.tag == tag then { x with answered := true } else x } 64) s1
        .next (writeFull i 8 answered)

/-- A compute reset begins (R365): the records that compute islands hold, and those in blocks without a response, are lost and
counted; the stream goes on from what has been written. -/
def wakeReset (s : State) : State :=
  each (List.range 8) (fun s i => updStream i (fun st =>
    let gone := (st.recs.filter fun r => !(isKeel r.island)).map TraceRec.src
    let st1 := loseRecs (((st.blocks.filter fun b => !b.stale).flatMap TraceBlock.srcs) ++ gone) st
    { st1 with recs := st.recs.filter (fun r => isKeel r.island), issued := st.written
               blocks := (st.blocks.filter fun b => !b.answered).map fun b => { b with stale := true } }) s) s

/-- The reset has ended (R365): a RESET record for its start and one for its end, and a TIME record, in every enabled stream. -/
def wakeResetEnd (s : State) : State :=
  let one (s : State) (i : Nat) : State :=
    let st := s.stream i
    if !s.build.hasWake || !st.enabled || streamStopped s st then s else
    let r (phase stamp : Nat) : TraceRec := ⟨nextRec s + phase, islUmp, stamp, [recWord0 13 false stamp, w64 (phase + put s.ump.incarn 8 8)]⟩
    writeFull i 8 (updStream i (fun st => streamTake false (r 1 s.now) (streamTake false (r 0 s.ump.detectedAt) st)) s)
  timeRecs false (each (List.range 8) one s)

/-! ### Erg (R367 to R373) -/

/-- A count source carries the ctx qualifier (R367). -/
def srcHasCtx (id : Nat) : Bool := [1, 2, 3, 4, 5, 7, 9, 11, 12, 13, 15, 16, 17, 18, 19, 48, 49, 50].contains id

/-- The clusters and engines a counter's qualifiers admit. -/
def admitted (cfg : W64) (n : Nat) (en lo len : Nat) : List Nat :=
  (List.range n).filter fun x => !(bit cfg en) || fld cfg lo len == x

/-- The sum of a number over the engines a counter admits. -/
def sumEngines (s : State) (cfg : W64) (f : Engine → Nat) : Nat :=
  let cs := (s.fab.rows.cells.map Prod.fst).filter fun c => c < s.build.clusters && (!(bit cfg 25) || fld cfg 26 9 == c)
  let es := admitted cfg s.build.engines 35 36 3
  (cs.flatMap fun c => es.map fun e => f ((s.row c).engines.get e)).foldl (· + ·) 0

/-- The level of a source, for the qualifiers of a configuration word (R367); `none` for an id that is no level source, or
when the word demands a qualifier the source does not list. -/
def levelOf (s : State) (id : Nat) (cfg : W64) : Option Nat :=
  if bit cfg 8 || bit cfg 39 || fld cfg 44 2 == 1 || fld cfg 44 2 == 2 then none else
  let plain (n : Nat) : Option Nat := if bit cfg 25 || bit cfg 35 then none else some n
  match id with
  | 32 => some (sumEngines s cfg fun g => g.pieces.length)
  | 33 => some (sumEngines s cfg fun g => (g.pieces.filter (·.active)).length)
  | 34 => plain (s.mar.rings.cells.filter fun r => r.2.st == .queued).length
  | 35 => plain ((s.mar.rings.cells.map fun r => r.2.cache.length).foldl (· + ·) 0)
  | 36 => plain (s.stb.watch.cells.filter fun w => w.2.st == .armed || w.2.st == .arming).length
  | 37 => plain (s.stb.waiters.cells.filter fun w => w.2.st == .polled).length
  | 38 => plain (s.judge.jobs.filter fun j => !j.started).length
  | 39 => if bit cfg 35 then none else some (((admitted cfg s.build.kvPools 25 26 9).map (poolFree s)).foldl (· + ·) 0)
  | _ => none

/-- The id is a level source. -/
def isLevel (id : Nat) : Bool := 32 ≤ id && id ≤ 39

/-- A sample enters a counter's minimum and maximum (R368). -/
def extremes (n : Nat) (c : Counter) : Counter :=
  if c.fresh then { c with min := n, max := n, fresh := false } else { c with min := Nat.min c.min n, max := Nat.max c.max n }

/-- One counter at the end of a sample interval (R368). -/
def sampleCounter (s : State) (i : Nat) : State :=
  let c := s.erg.counters.get i
  let id := fld c.cfg 0 8
  if isLevel id then
    match levelOf s id c.cfg with
    | none => s
    | some v =>
      let s1 := ctrTake i v s
      updErg (fun e => { e with counters := e.counters.upd i fun c => extremes v { c with atStart := v } }) s1
  else if id = 0 then s
  else updErg (fun e => { e with
    counters := e.counters.upd i fun c => extremes ((c.value + 2 ^ 64 - c.atStart) % 2 ^ 64) { c with atStart := c.value } }) s

/-- A level source contributes one value per interval to a histogram (R367). -/
def sampleHist (s : State) (h : Nat) : State :=
  let id := fld (s.erg.hists.get h).cfg 0 8
  if isLevel id then
    match levelOf s id 0 with
    | some v => histOne id v none s h
    | none => s
  else s

/-- The three COUNTER records of a counter (R358, R370). -/
def counterRecs (stream : Nat) (s : State) (i : Nat) : State :=
  let c := s.erg.counters.get i
  if !(bit c.cfg 49) then s else
  let ctx := if bit c.cfg 8 then fld c.cfg 9 16 else 0xFFFF
  let tag := match fld c.cfg 44 2 with | 1 => fld c.tag 32 16 * 2 ^ 32 | 2 => fld c.tag 0 48 | _ => 0
  let one (s : State) (p : Nat × Nat) : State :=
    wakeOne (recLost s islErg) (nextRec s) islErg 10 true (if bit c.cfg 8 then some (w16 ctx) else none) none .none false
      [w64 (put i 0 6 + put p.1 6 2 + put ctx 8 16), w64 tag, w64 p.2] s stream
  each [(0, c.value), (1, c.min), (2, c.max)] one s

/-- A counter's publication (R373). -/
def publishCounter (s : State) (i : Nat) : State :=
  let c := s.erg.counters.get i
  if bit c.cfg 48 then
    issueNm true (fld c.pub 3 53 * 8) (w16 (fld c.cfg 9 16)) (leBytes c.value 8) 8 0 (.ergPub i) islErg s
  else s

/-- SAMPLE_INTERVAL (R368, R370, R373): the end of a sample interval. A freeze stops the sampling. -/
def sampleIntervalOp (s : State) : State :=
  if !s.build.hasErg || !(computeUp s) || s.now < s.erg.lastSample + 400 * max 1 (fld s.erg.cfg 0 16) then s else
  let s1 := if ergActive s then each (List.range 4) sampleHist (each (List.range 64) sampleCounter s) else s
  let s2 := updErg (fun e => { e with lastSample := s.now, intervals := e.intervals + 1 }) s1
  let s3 := if bit s2.erg.cfg 19 && s2.build.hasWake && s2.erg.intervals % max 1 (fld s2.erg.cfg 20 8) == 0 then
      each (List.range 64) (counterRecs (fld s2.erg.cfg 16 3)) s2
    else s2
  each (List.range 64) publishCounter s3
def execSampleInterval (s : State) : Out := .next (sampleIntervalOp s)

/-- The selected counter. -/
def selCtr (s : State) : Nat := fld s.erg.ctrSel 0 6
/-- A write of ERG_CTR_CFG (R373, R374): pub_en stays 0 unless ctx_en is 1 and the source has a ctx qualifier. -/
def ctrCfgWrite (data : W64) (s : State) : State :=
  if !s.build.hasErg then s else
  let d := data &&& 0x3FFFFFFFFFFFF
  let ok := bit d 8 && srcHasCtx (fld d 0 8)
  updErg (fun e => { e with counters := e.counters.upd (selCtr s) fun c =>
    { c with cfg := if bit d 48 && !ok then d &&& ~~~(0x1000000000000 : W64) else d } }) s
/-- PUB_ENABLE (R373). -/
def pubEnableOp (data : W64) (s : State) : State := ctrCfgWrite (data ||| 0x1000000000000) s
def execPubEnable (data : W64) (s : State) : Out := powered s (pubEnableOp data s)

/-- A publication write returned an error (R373). -/
def pubError (i addr : Nat) (s : State) : State :=
  logRec .nothing { LogRec.zero with code := eCounterPublish, island := islErg, info := i, addr := addr }
    (updErg (fun e => { e with counters := e.counters.upd i fun c => { c with cfg := c.cfg &&& ~~~(0x1000000000000 : W64) } }) s)

/-- A write of ERG_CTR_VALUE (R368, R374): the value is set, and what the counter has added in the sample interval stays as it is. -/
def ctrValueWrite (data : W64) (s : State) : State :=
  let i := selCtr s
  ctrTake i data.toNat (updErg (fun e => { e with counters := e.counters.upd i fun c =>
    { c with atStart := (data.toNat + 2 ^ 64 - (c.value + 2 ^ 64 - c.atStart) % 2 ^ 64) % 2 ^ 64 } }) s)

/-! ### The global freeze (R372) -/

/-- The rw bits of ERG_FREEZE but frozen. -/
def freezeFields (data : W64) (s : State) : State :=
  updErg (fun e => { e with freeze := data &&& 0x7E }) s
/-- FREEZE_START: a write of 1 to ERG_FREEZE.frozen. -/
def freezeStartOp (data : W64) (s : State) : State :=
  if !s.build.hasErg then s else freezeStart (freezeFields data s)
def execFreezeStart (data : W64) (s : State) : Out := powered s (freezeStartOp data s)
/-- FREEZE_END: a write of 0 to ERG_FREEZE.frozen; counting resumes from an instant 800 tu ahead. -/
def freezeEndOp (data : W64) (s : State) : State :=
  if !s.build.hasErg then s else
  let s1 := freezeFields data s
  if s1.erg.frozen then updErg (fun e => { e with frozen := false, resumeAt := s.now + 800 }) s1 else s1
def execFreezeEnd (data : W64) (s : State) : Out := powered s (freezeEndOp data s)

/-- Streams with freeze_stop stop or go on (R372). -/
def freezeStreams (stop : Bool) (s : State) : State :=
  each (List.range 8) (fun s i =>
    if !(bit (s.stream i).filter 2) then s
    else if stop then updStream i (fun st => { st with stopped := true }) (flushAll i 64 s)
    else timeRec false i (updStream i (fun st => { st with stopped := false }) s)) s

/-- FREEZE_INSTANT (R372): F has passed, so trig_out[0] rises and streams stop; or the end instant has, and they go on. -/
def freezeInstantOp (s : State) : State :=
  let e := s.erg
  if !s.build.hasErg then s
  else if !e.frozen && e.resumeAt ≤ s.now then
    if e.trigOut0 then freezeStreams false (updErg (fun e => { e with trigOut0 := false }) s) else s
  else if e.trigOut0 || s.now < e.freezeTime then s
  else freezeStreams true (updErg (fun e => { e with trigOut0 := true }) s)
def execFreezeInstant (s : State) : Out := .next (freezeInstantOp s)

/-- TRIG_IN (R372): trig_in[0] or trig_in[1] rises; an event on it starts a freeze when enabled. Umpire samples the lines in every
build (R355). -/
def trigInOp (line : Bool) (s : State) : State :=
  let n := if line then 2 else 1
  if !s.ump.porN then s else
  let s1 := setInput n (inputStuck s n) (some s.now) s
  if newEvent s (inputStuck s n) (inputLast s n) && bit s.erg.freeze n then freezeStart s1 else s1
def execTrigIn (line : Bool) (s : State) : Out := .next (trigInOp line s)

/-- A write of ERG_CFG (R374); trig1 is cleared by writing 1 (R371). -/
def ergCfgWrite (data : W64) (s : State) : State :=
  if !s.build.hasErg then s else
  updErg (fun e => { e with cfg := data &&& 0xFFFFFFF, trigOut1 := e.trigOut1 && !(bit data 28) }) s
/-- TRIG1_CLEAR (R371). -/
def trig1ClearOp (data : W64) (s : State) : State := ergCfgWrite (data ||| 0x10000000) s
def execTrig1Clear (data : W64) (s : State) : Out := powered s (trig1ClearOp data s)

end Sys2Proof.Machine
end

