-- ==== Sys2Proof/Machine/RegRead.lean ====
section
/-! DEFINITION. What every register reads (R8 to R12 and the register tables of every chapter). -/
namespace Sys2Proof.Machine

/-- A register at an offset: whether it is 64 bits wide, and what it reads. -/
abbrev Reg := Option (Bool × Nat)
/-- A 64-bit and a 32-bit register. -/
def r64 (v : Nat) : Reg := some (true, v)
def r32 (v : Nat) : Reg := some (false, v)
/-- The element of a register array with a step, when the offset is that of one of `n` elements. -/
def arr (off base step n : Nat) : Option Nat :=
  if base ≤ off && (off - base) % step == 0 && (off - base) / step < n then some ((off - base) / step) else none

/-! ### Landing and Marshal (R7, R51, R55, R93, R97, R98, R165, R170, R431) -/

def readLnd (s : State) (off : Nat) : Reg :=
  match off with
  | 0x0 => r32 lndVersion
  | 0x8 => r32 (lndUnits s.build)
  | 0x10 => r64 (lndBuildA s.build)
  | 0x18 => r64 (lndBuildB s.build)
  | _ => none

/-- The numbers that registers give the states. -/
def ctxStNum : CtxSt → Nat | .free => 0 | .live => 1 | .stopped => 2 | .failed => 3 | .draining => 4
def ringStNum : RingSt → Nat | .unbound => 0 | .idle => 1 | .queued => 2 | .seated => 3 | .stopped => 4

/-- MAR_CTX_STATUS (R55). -/
def ctxStatus (s : State) : Nat :=
  let i := fld s.mar.ctxSel 0 10
  let x := s.slot i
  let failed := x.st == .failed
  put (ctxStNum x.st) 0 3 + putb x.cmdErr 4 + (if failed then put x.errClass.toNat 5 7 + put x.errCode.toNat 12 16 else 0) +
    (if x.st == .free then 0 else put (inflight s x.ctxId) 32 16 + put x.ringsBound 48 13)

/-- MAR_RING_STATUS (R97); a ring id at or above RINGS reads zero but for cmd_err (R98). -/
def ringStatus (s : State) : Nat :=
  let r := fld s.mar.ringSel 0 12
  let g := s.ring r
  if s.build.rings ≤ r then putb g.cmdErr 1 else
  let stopped := g.st == .stopped
  putb (abandoning g) 0 + putb g.cmdErr 1 + put (ringStNum g.st) 2 3 + putb g.held 5 + putb g.pin.isSome 6 +
    put ((if g.st == .seated then g.seat else if stopped then g.pin else none).getD 0) 7 6 +
    (if stopped then put g.reason 13 4 + put g.errCode.toNat 32 16 else 0)

/-- The entries of a ring's completion window (R85). -/
def windowSize (g : Ring) : Nat := (g.begun - g.head).toNat

/-- MAR_SEAT_STATE (R98). -/
def seatState (s : State) (i : Nat) : Nat :=
  let x := s.seat i
  let heat := s.build.seats - fld s.mar.seatCfg 32 6 ≤ i
  let core := if x.st == .run then ((List.range s.build.coxCores).find? fun k => (s.core k).seats.contains i).getD 0 else 0
  let base := put (seatStNum x.st) 0 4 + putb heat 17 + put core 18 4
  match x.ring with
  | some r =>
    let g := s.ring r
    base + put r 4 12 + putb (g.pin == some i) 16 + put g.cache.length 22 4 + put (windowSize g) 26 5 + put g.ctx.toNat 32 16
  | none => base + put (match x.prog with | some p => p.ctx.toNat | none => 0) 32 16

def readMar (s : State) (off : Nat) : Reg :=
  let r := fld s.mar.ringSel 0 12
  let g := s.ring r
  let built := r < s.build.rings
  match off with
  | 0xF000 => r32 (fld s.mar.ctxSel 0 10)
  | 0xF008 => r64 (s.slot (fld s.mar.ctxSel 0 10)).desc.toNat
  | 0xF010 => r32 0
  | 0xF018 => r64 (ctxStatus s)
  | 0x100 => r32 r
  | 0x108 => r64 g.regBase.toNat
  | 0x110 => r64 g.regCmpl.toNat
  | 0x118 => r64 g.regCfg.toNat
  | 0x120 => r64 g.regStartSeq.toNat
  | 0x128 => r32 0
  | 0x130 => r64 (ringStatus s)
  | 0x138 => r64 (if built then g.head.toNat + put g.begun.toNat 32 32 else 0)
  | 0x140 => r64 (if built then g.latched.toNat else 0)
  | 0x148 => r64 s.mar.dbStray
  | 0x150 => r64 (if built then fld g.regEnq 0 2 + put (fld g.regEnq 16 16) 16 16 + put g.tail.toNat 32 32 else 0)
  | 0x400 => r64 s.mar.seatCfg.toNat
  | 0x408 => r64 s.mar.enqCfg.toNat
  | 0x410 => r64 s.mar.seatEnable.toNat
  | _ => (arr off 0x800 8 s.build.seats).bind fun i => r64 (seatState s i)

/-- A doorbell page (R93). -/
def readDoorbell (s : State) (r off : Nat) : Reg :=
  let g := s.ring r
  match off with
  | 0x8 => r64 (g.head.toNat + put g.begun.toNat 32 32)
  | 0x10 => r64 0
  | 0x18 => r64 (putb g.invalRefused 1 + putb g.held 2 + put (if g.held then g.holdAt.toNat else 0) 32 32)
  | 0x20 => r32 0
  | _ => none

/-! ### Cox and the trees (R152, R209) -/

def coreStNum : CoreSt → Nat | .idle => 0 | .exec => 1 | .stall => 2
/-- COX_CORE_STATUS(k). -/
def coreStatus (s : State) (k : Nat) : Nat :=
  if s.build.coxCores ≤ k then 3 else
  let c := s.core k
  let run := if c.st == .idle then 0 else
    match c.seats.head? with
    | none => 0
    | some i => put i 2 6 + (match s.prog? i with
      | none => 0
      | some p => put p.pc 8 24 + (match wordAtPc s k p with | some (.ok, w) => put w.op 32 8 | _ => 0))
  put (coreStNum c.st) 0 2 + run + put c.seats.length 40 7

/-- COX_SEAT_PC(s). -/
def seatPc (s : State) (i : Nat) : Nat :=
  match s.prog? i with
  | none => 0
  | some p =>
    let park := match p.park with | .none => 0 | .waitf .. => 1 | .barrier .. => 2 | .waitt _ => 3 | .slice => 4
    put p.pc 0 24 + put (callDepth p) 24 3 + putb p.z 27 + putb p.f 28 + put park 29 3 + put (min p.words (2 ^ 32 - 1)) 32 32

/-- COX_TREE_STATUS(t). -/
def treeStatus (s : State) (t : Nat) : Nat :=
  putb (t < s.build.trees) 0 + putb (treeRefuses s t) 1 + put (min (2 ^ 32 - 1) ((s.tree t).refusedTu / usTu)) 32 32

/-- COX_CREW_INFO(k): the epoch of new work (R425). -/
def crewInfo (s : State) (k : Nat) : Nat :=
  let c := s.rig.now.crews.get k
  putb c.defined 0 + putb c.aligned 1 + put c.members.length 2 10 + put c.leadNs 12 12

def readCox (s : State) (off : Nat) : Reg :=
  let v : Reg := if off == 0 then r64 (fld s.cox.cfg 0 16) else
    match arr off 0x100 8 16, arr off 0x200 8 s.build.seats, arr off 0x400 8 4, arr off 0x500 8 64 with
    | some k, _, _, _ => r64 (coreStatus s k)
    | _, some i, _, _ => r64 (seatPc s i)
    | _, _, some t, _ => r64 (treeStatus s t)
    | _, _, _, some k => r64 (crewInfo s k)
    | _, _, _, _ => none
  if inReset s then v.map fun x => (x.1, 0) else v

/-! ### Stakeboat (R72, R79, R221, R241) -/

def linkStNum : LinkSt → Nat | .up => 0 | .hold => 1 | .resetSent => 2

/-- Watch entries ARMED or ARMING. -/
def armedCount (s : State) : Nat := (s.stb.watch.cells.filter fun w => w.2.st == .armed || w.2.st == .arming).length
/-- Waiters in a state. -/
def waiterCount (s : State) (p : WaitSt → Bool) : Nat := (s.stb.waiters.cells.filter fun w => p w.2.st).length
/-- STB_SEAT_WAIT(s): the waiter of seat `i`. -/
def seatWait (s : State) (i : Nat) : Nat :=
  let w := s.stb.waiters.get i
  put w.addr 0 56 + put (waitStNum w.st) 56 3

def readStb (s : State) (off : Nat) : Reg :=
  let b := s.stb
  let p := s.ports
  let x (v : Nat) : Nat := if s.build.hasCrossing then v else 0
  let v : Reg := match off with
    | 0x0 => r64 b.cfg.toNat
    | 0x8 => r64 (put (armedCount s) 0 17 + put (waiterCount s (· != .idle)) 17 17 + put (waiterCount s (· == .polled)) 34 17)
    | 0x10 => r64 b.armRefused
    | 0x18 => r64 b.noticesLost
    | 0x20 => r64 b.rereads
    | 0x100 => r64 (x b.xngCfg.toNat)
    | 0x108 => r64 (x (putb b.linkOk 0 + put (linkStNum b.link) 1 2 + put s.ump.incarn 3 8 + put b.outs.length 11 13))
    | 0x110 => r64 (x b.sent)
    | 0x118 => r64 (x b.received)
    | 0x120 => r64 (x b.resent)
    | 0x128 => r64 (x b.rejected)
    | 0xF00 => r64 p.hsigAddr.toNat
    | 0xF08 => r64 p.hsigCtx.toNat
    | 0xF10 => r64 0
    | 0xF18 => r64 (putb p.hsigBusy 0 + putb p.hsigStale 1 + putb p.hsigFailed 2 + put (respNum p.hsigErr) 3 2 + putb p.hsigBad 5)
    | 0xF20 => r64 p.hsigOld.toNat
    | 0xF28 => r64 p.staleSignals
    | 0xF30 => r64 p.failedSignals
    | _ => match arr off 0x400 8 (2 * s.build.seats) with
      | some k => r64 (if k % 2 = 0 then seatWait s (k / 2) else (s.stb.waiters.get (k / 2)).value.toNat)
      | none => none
  if inReset s then v.map fun y => (y.1, if off == 8 then y.2 % 2 ^ 17 else 0) else v

/-! ### Heat and Judge (R274, R302) -/

def loopStNum : LoopSt → Nat | .stopped => 0 | .running => 1 | .draining => 2 | .paused => 3 | .failed => 4

/-- HEA_LOOP_STATUS of a loop. -/
def loopStatus (g : Loop) : Nat :=
  putb g.starting 0 + putb g.cmdErr 1 + put (loopStNum g.st) 2 3 + put (loopInFlight g) 5 4 + put g.badOffset 9 11 +
    put g.errCode.toNat 32 16
/-- HEA_SLOT(i) of a loop. -/
def heatSlotWord (h : HeatSlot) : Nat :=
  if h.st == .free then 0
  else put (slotStNum h.st) 0 4 + put h.crew 4 6 + put h.seat 10 6 + put h.members.length 16 13 + put h.step 32 32

def readHea (s : State) (off : Nat) : Reg :=
  let g := s.loop (fld s.heat.loopSel 0 4)
  let sh := s.heat.shares.get (fld s.heat.ctxSel 0 10)
  let stopped := (List.range 16).foldl (fun n r => n + putb (g.reqs.get r).stopped r) 0
  let v : Reg := match off with
    | 0x0 => r64 (fld s.heat.cfg 0 16)
    | 0x8 => r64 (fld s.heat.loopSel 0 4)
    | 0x10 => r64 g.desc.toNat
    | 0x18 => r32 0
    | 0x20 => r64 (loopStatus g)
    | 0x28 => r64 (put (liveSeqs g).length 0 17 + put g.committed 32 32)
    | 0x30 => r64 0
    | 0x38 => r64 0
    | 0x40 => r64 stopped
    | 0x48 => r64 (fld s.heat.ctxSel 0 10)
    | 0x50 => r64 (min sh.used (2 ^ 64 - 1))
    | 0x58 => r64 (sh.vtime % 2 ^ 64)
    | _ => (arr off 0x100 8 8).bind fun i => r64 (heatSlotWord (g.slots.get i))
  if inReset s then v.map fun x => (x.1, 0) else v

def readJdg (s : State) (off : Nat) : Reg :=
  let j := s.judge
  let v : Reg := match off with
    | 0x0 => r64 (put j.jobs.length 0 5 + (match j.jobs.find? (·.started) with
        | some x => putb true 5 + put x.at_ 6 13
        | none => 0))
    | 0x8 => r64 j.nJobs
    | 0x10 => r64 j.nRequests
    | 0x18 => r64 j.nRows
    | 0x20 => r64 j.nElements
    | 0x28 => r64 j.nErrors
    | 0x30 => r64 j.nNonfinite
    | 0x38 => r64 j.nCut
    | _ => none
  if inReset s then v.map fun x => (x.1, 0) else v

/-! ### Slide and Rack (R70, R156, R331, R332) -/

def readSld (s : State) (off : Nat) : Reg :=
  let i := fld s.sld.sel 0 10
  let c := s.sld.ctxs.get i
  let held := if (s.slot i).st == .free then 0 else (saveHeldAt s (s.slot i).ctxId).length
  let keep := off == 0 || off == 8 || off == 0x40
  let v : Reg := match off with
    | 0x0 => r64 (put s.rig.now.copyClass 0 4 + put s.rig.now.spadKib 4 11 + put s.rig.now.accKib 15 8)
    | 0x8 => r64 s.sld.htab.toNat
    | 0x10 => r64 i
    | 0x18 => r64 c.map.toNat
    | 0x20 => r32 0
    | 0x28 => r64 c.area.toNat
    | 0x30 => r64 (putb (0 < c.busy) 0 + putb c.cmdErr 1 + putb c.registered 2 + put c.badRegion 3 5 + put held 8 12 +
        put (if c.registered then needKib c.regions else 0) 32 32)
    | 0x40 => r64 s.sld.stage.toNat
    | 0x48 => r64 s.sld.copyBytes
    | _ => none
  if inReset s && !keep then v.map fun x => (x.1, 0) else v

/-- Heap bytes allocated in a partition (R331). -/
def heapUsed (s : State) (p : Nat) : Nat := ((usedBlocks s p).map Prod.snd).foldl (· + ·) 0

def readRck (s : State) (off : Nat) : Reg :=
  let k := s.rack
  let p := fld s.mem.partSel 0 4
  let q := fld s.mem.poolSel 0 4
  let x := s.mem.parts.get p
  let y := s.mem.pools.get q
  let pt (v : Nat) : Reg := r64 (if p < s.build.partitions then v else 0)
  let po (v : Nat) : Reg := r64 (if q < s.build.kvPools then v else 0)
  match off with
  | 0x0 => r64 k.objBase.toNat
  | 0x10 => r64 k.arg0.toNat
  | 0x18 => r64 k.arg1.toNat
  | 0x20 => r64 k.arg2.toNat
  | 0x28 => r64 0
  | 0x30 => r64 (put k.result 1 3 + put k.handle.toNat 16 32)
  | 0x38 => r64 (k.countRefs.toNat + put (objStNum k.countSt) 32 3 + putb k.countPoisoned 35)
  | 0x100 => r64 k.crsArg.toNat
  | 0x108 => r64 0
  | 0x110 => r64 (put k.crsResult 1 3 + put k.crsVersion 16 16 + put k.crsBody.toNat 32 32)
  | 0x118 => r64 (put k.crsBad 0 24)
  | 0x200 => r32 p
  | 0x208 => pt x.heap.toNat
  | 0x218 => pt x.reg.toNat
  | 0x220 => pt (put (heapUsed s p / 4096) 0 40 + put (tokensNow s p / 1000 / 65536) 40 16)
  | 0x228 => r32 q
  | 0x230 => po (y.cfg.toNat % 2 ^ 60 + putb y.enabled 60)
  | 0x238 => po (putb y.cmdErr 1 + putb y.enabled 2 + put (poolFree s q) 8 32 + put (min 4095 y.quarantine.length) 40 12)
  | 0x240 => r64 s.mem.tierBase.toNat
  | 0x248 => r64 s.mem.tierSize.toNat
  | _ => (arr off 0x400 8 64).bind fun c => r64 (fld (s.mem.crewNear.get c) 0 16)

/-! ### Rigger (R430) -/

def rigStNum : RigSt → Nat | .blank => 0 | .applied => 1 | .staged => 2 | .switched => 3 | .retiring => 4

/-- An old entry is not done (R423). -/
def oldEntries (s : State) : Bool :=
  s.mar.works.any fun w => !w.done && w.epoch != epochBit s && (match w.owner with | .entry .. => true | .heat .. => false)
/-- An old heat is in flight: a heat slot of the old epoch, or a vacate it still owes. -/
def oldHeats (s : State) : Bool :=
  (s.heat.loops.cells.any fun l => l.2.slots.cells.any fun h => h.2.st != .free && h.2.epoch != epochBit s) ||
  s.heat.owed.any fun o => o.2.2.2 != epochBit s
/-- An old copy of Slide's is in progress. -/
def oldCopies (s : State) : Bool :=
  (s.sld.jobs.any fun j => j.msg.epoch != epochBit s) || s.sld.pieces.any fun p => p.msg.epoch != epochBit s
/-- A root still holds an old message. -/
def oldTrees (s : State) : Bool := s.fab.trees.cells.any fun t => t.2.flights.any fun f => f.msg.epoch != epochBit s
/-- A Rowlock holds an old piece in a slot. -/
def oldPieces (s : State) : Bool :=
  s.fab.rows.cells.any fun r => r.2.engines.cells.any fun e => e.2.pieces.any fun p => p.msg.epoch != epochBit s

/-- RIG_EPOCH. -/
def rigEpoch (s : State) : Nat :=
  let mixed := s.rig.st == .switched || s.rig.st == .retiring
  put s.rig.epoch 0 32 + putb (mixed && oldEntries s) 32 + putb (mixed && oldHeats s) 33 + putb (mixed && oldCopies s) 34 +
    putb (mixed && oldTrees s) 35 + putb (mixed && oldPieces s) 36

def readRig (s : State) (off : Nat) : Reg :=
  let g := s.rig
  let keep := off == 0 || off == 8 || off == 0x20 || off == 0x30 || off == 0x38
  let v : Reg := match off with
    | 0x0 => r64 g.stage.toNat
    | 0x8 => r64 g.image.toNat
    | 0x10 => r32 0
    | 0x18 => r64 (putb g.busy 0 + put (rigStNum g.st) 1 3 + put g.result 4 4 + put g.badSection 8 4 + put g.badOffset 32 32)
    | 0x20 => r64 (rigEpoch s)
    | 0x28 => r64 (putb g.testDone 0 + putb g.testPass 1 + put g.firstIsland 2 10 + put g.failedCount 12 10)
    | 0x30 => r64 (putb g.lock 0 + putb g.swapOk 1)
    | 0x38 => r64 (put g.fwVersion 0 32 + put g.digestSlot 32 2 + putb g.fwRunning 34)
    | _ => none
  if inReset s && !keep then v.map fun x => (x.1, 0) else v

/-! ### Stroke, Timekeeper (R349, R356) -/

/-- cap_n in force, in whole wu (R344, R345, R349). -/
def capCode (s : State) (n : Nat) : Nat :=
  if s.stk.stale != [] || s.stk.th.effect then Q.floorNat (capNode s n) else s.stk.force.codes.get n

def readStk (s : State) (off : Nat) : Reg :=
  let k := s.stk
  let v : Reg := match off with
    | 0x0 => r64 k.cfg.toNat
    | 0x8 => r64 (put (stkState s) 0 2 + putb k.oc.event 2 + putb k.th.event 3 + putb k.oc.stuck 4 + putb k.th.stuck 5 +
        (k.stale.filter (· < 10)).foldl (fun n ch => n + 2 ^ (6 + ch)) 0 + put k.gainCode 16 16)
    | 0x10 => r64 (put k.lTotal 0 32 + put k.allowCode 32 32)
    | 0x20 => r64 k.delayed
    | 0x28 => r64 k.delayTu
    | 0x30 => r64 k.fillCount
    | 0x38 => r64 k.downOver
    | 0x40 => r64 k.ocEvents
    | 0x48 => r64 k.thEvents
    | 0x50 => r64 k.late
    | _ => (arr off 0x100 8 8).bind fun n => r64 (put ((k.chans.get (2 + n)).last.getLastD 0) 0 16 + put (capCode s n) 16 32)
  if inReset s && off != 0 then v.map fun x => (x.1, 0) else v

def readTkp (s : State) (off : Nat) : Reg :=
  let t := s.tkp
  match off with
  | 0x0 => r64 (t.now % 2 ^ 64)
  | 0x8 => r64 (putb t.locked 0 + putb (fld t.cfg 0 2 == 2) 1 + putb t.loadRefused 2 + putb t.pulseStuck 3 + put t.pulseCount.toNat 32 32)
  | 0x10 => r64 t.cfg.toNat
  | 0x18 => r64 t.load.toNat
  | 0x20 => r64 (t.pulse % 2 ^ 64)
  | _ => none

/-! ### Erg and Wake (R366, R374) -/

def readErg (s : State) (off : Nat) : Reg :=
  let e := s.erg
  let c := e.counters.get (selCtr s)
  let v : Reg := match off with
    | 0x0 => r64 (e.cfg.toNat + putb e.trigOut1 28)
    | 0x8 => r64 (putb e.frozen 0 + e.freeze.toNat % 128 / 2 * 2 + putb e.trig0Stuck 7 + putb e.trig1Stuck 8)
    | 0x10 => r64 (e.freezeTime % 2 ^ 64)
    | 0x18 => r64 (selCtr s)
    | 0x20 => r64 c.cfg.toNat
    | 0x28 => r64 c.tag.toNat
    | 0x30 => r64 c.value
    | 0x38 => r64 (min c.min (2 ^ 32 - 1) + put (min c.max (2 ^ 32 - 1)) 32 32)
    | 0x40 => r64 c.thr.toNat
    | 0x48 => r64 c.pub.toNat
    | _ => match arr off 0x100 8 4, arr off 0x200 8 128 with
      | some h, _ => r64 (e.hists.get h).cfg.toNat
      | _, some k => r64 ((e.hists.get (k / 32)).bins.get (k % 32))
      | _, _ => none
  if inReset s then v.map fun x => (x.1, 0) else v

def readWak (s : State) (off : Nat) : Reg :=
  let st := s.stream (selStream s)
  let v : Reg := match off with
    | 0x0 => r64 s.wake.cfg.toNat
    | 0x8 => r64 (selStream s)
    | 0x10 => r64 st.ring.toNat
    | 0x18 => r64 st.filter.toNat
    | 0x20 => r64 st.clusters.toNat
    | 0x28 => r64 st.statusLine.toNat
    | 0x30 => r64 (st.written % 2 ^ 64)
    | 0x38 => r64 0
    | 0x40 => r64 st.lost
    | _ => none
  if inReset s then v.map fun x => (x.1, 0) else v

/-! ### Umpire and Boathouse (R378, R388, R410, R411) -/

def rstNum : RstSt → Nat
  | .run => 0 | .quiesce => 1 | .capture => 2 | .engReset => 3 | .clear => 4 | .recover => 5 | .dead => 6

/-- UMP_LOG_STATUS. -/
def logStatus (s : State) : Nat :=
  (List.range 16).foldl (fun n i => n + putb (s.ump.log.get i).valid i + putb (slotPending s i) (16 + i)) 0

/-- The eight words of an error-log record (R378). -/
def logWords (r : LogRec) : List W64 :=
  [w64 (put r.cls 0 7 + putb r.nested 7 + put r.code.toNat 8 16 + put r.island 24 10 + put r.seat 34 6 + put r.engine 40 3 +
     put r.cluster 43 9 + put r.loop 52 4),
   w64 r.time, w64 (r.ctx.toNat + put r.ring 16 12 + put r.count.toNat 32 32), w64 (put r.tag 0 48),
   w64 (put r.pc 0 24 + put r.info 32 32), w64 (put r.addr 0 56), r.aux, w64 r.step]
/-- The words of slot `i`; zero when it holds no record. -/
def logSlotWords (s : State) (i : Nat) : List W64 :=
  if (s.ump.log.get i).valid then logWords (s.ump.log.get i).entry else List.replicate 8 0

/-- The 128 words of a wait-for record (R388). -/
def wfgWords (w : WfgRec) : List W64 :=
  let head : List W64 := [w64 (put w.nodes.length 0 6 + putb w.truncated 6 + put w.failed 7 6 + put w.number 32 32), w64 w.time,
    0, 0, 0, 0, 0, 0]
  let node (n : WfgNode) : List W64 :=
    [w64 (put n.ring 0 12 + put n.seat 12 6 + put n.edge 18 2 + putb n.parked 20 + put n.count.toNat 32 32), w64 (put n.fence 0 56)]
  let body := head ++ w.nodes.flatMap node
  (body ++ List.replicate (128 - body.length) 0).take 128
/-- Record `r` of UMP_WFG: 0 is the newest. -/
def wfgOf (s : State) (r : Nat) : List W64 :=
  match s.ump.wfg.reverse[r]? with
  | some w => wfgWords w
  | none => List.replicate 128 0

/-- cl_rst_req and the reset's times (R410): recover_us is that of the last recovery. -/
def readUmp (s : State) (off : Nat) : Reg :=
  let u := s.ump
  match off with
  | 0x0 => r64 u.cfg.toNat
  | 0x8 => r64 u.wd.toNat
  | 0x10 => r64 (logStatus s)
  | 0x18 => r64 u.logLost
  | 0x20 => r64 (put (rstNum u.rst) 0 3 + put u.incarn 3 8 + put u.cause.toNat 11 16 + put u.resets 32 32)
  | 0x28 => r64 0
  | 0x30 => r64 (put u.resetUs 0 32 + put u.recoverUs 32 32)
  | 0x40 => r64 u.dumpBase.toNat
  | 0x48 => r64 (putb u.dumpArmed 0 + putb u.dumpBusy 2)
  | _ => match arr off 0x1000 8 128, arr off 0x2000 8 512 with
    | some k, _ => r64 (wordAt (logSlotWords s (k / 8)) (k % 8)).toNat
    | _, some k => r64 (wordAt (wfgOf s (k / 128)) (k % 128)).toNat
    | _, _ => none

def readBhs (s : State) (off : Nat) : Reg :=
  match off with
  | 0x0 => r64 s.bhs.cfg.toNat
  | 0x8 => r64 (putb (bhsEnabled s) 0 + putb s.bhs.degraded 1 + putb (s.ump.rst == .recover) 2 + put ((journalUsed s * 64 + 1023) / 1024) 32 32)
  | 0x10 => r64 s.bhs.replayed
  | 0x18 => r64 s.bhs.rerunCount
  | 0x20 => r64 s.bhs.failed
  | _ => none

/-! ### Rowlock windows (R208, R232) -/


/-- ROW_STATUS. -/
def rowStatus (s : State) (c : Nat) : Nat :=
  let r := s.row c
  if inReset s then 0xFFFF + putb r.rstReq 24 else
  (match r.resident with | some x => x.toNat | none => 0xFFFF) + (r.holds.filter fun h => h.1 < 4).foldl (fun n h => n + 2 ^ (16 + h.1)) 0 +
    (List.range 4).foldl (fun n t => n + putb (t < s.build.trees && rowRefuses s t c) (20 + t)) 0 + putb r.rstReq 24
/-- ROW_ENG_STATUS(e). -/
def engStatus (s : State) (c e : Nat) : Nat :=
  if s.build.engines ≤ e then 7 else
  let g := s.eng c e
  put (engStNum g.st) 0 3 + put g.pieces.length 3 7 + put (g.pieces.filter (·.active)).length 10 3 + putb g.chain.isSome 13 +
    (match g.running with
     | some r => put r.msg.ctx.toNat 16 16 + put r.msg.seat 32 6 + put (r.msg.count - r.index - 1) 38 13
     | none => 0)
/-- ROW_SYNC(n). -/
def rowSync (s : State) (c n : Nat) : Nat :=
  let waits (e : Nat) : Bool := (s.eng c e).pieces.any fun p => p.active && (match nextCmd s c e p with
    | some w => hWaitCtr w == n && !(waitMet (s.row c) w)
    | none => false)
  (s.row c).sync.get n + (List.range s.build.engines).foldl (fun m e => m + putb (waits e) (32 + e)) 0
/-- ROW_ENG_CLASS: the epoch of new work (R425). -/
def rowClasses (s : State) (c : Nat) : Nat :=
  (List.range s.build.engines).foldl (fun n e => n + put (s.rig.now.classes.get (c * 8 + e)) (4 * e) 4) 0

def readRowWin (s : State) (c off : Nat) : Reg :=
  let r := s.row c
  let v : Reg := match off with
    | 0x0 => r64 (rowStatus s c)
    | 0x8 => r32 (rowClasses s c)
    | 0x10 => r64 r.dropped
    | 0x18 => r64 r.alignLate
    | 0x20 => r64 (put r.parked.length 0 7 + putb r.arrHeld.isSome 7)
    | _ => match arr off 0x100 8 8, arr off 0x200 8 48 with
      | some e, _ => r64 (engStatus s c e)
      | _, some n => r64 (rowSync s c n)
      | _, _ => none
  if inReset s && off != 0 && off != 8 then v.map fun x => (x.1, 0) else v

/-! ### The window (R8, R9, R11) -/

/-- The register at a byte address of the window, when one is defined there and its unit is built (R8, R11). -/
def regAt (s : State) (a : Nat) : Reg :=
  let off := a % 0x10000
  let b := s.build
  if 0x1000000 ≤ a then
    (if (a - 0x1000000) / 0x1000 < b.rings then readDoorbell s ((a - 0x1000000) / 0x1000) (a % 0x1000) else none)
  else if 0x100000 ≤ a then
    (if a < 0x900000 && (a - 0x100000) / 0x4000 < b.clusters then readRowWin s ((a - 0x100000) / 0x4000) (a % 0x4000) else none)
  else match a / 0x10000 with
    | 0 => readLnd s off
    | 1 => readMar s off
    | 2 => readCox s off
    | 3 => readStb s off
    | 4 => if b.hasHeat then readHea s off else none
    | 5 => if b.hasJudge then readJdg s off else none
    | 6 => readSld s off
    | 7 => readRck s off
    | 8 => readRig s off
    | 9 => if b.hasStroke then readStk s off else none
    | 10 => readTkp s off
    | 11 => if b.hasErg then readErg s off else none
    | 12 => if b.hasWake then readWak s off else none
    | 13 => readUmp s off
    | 14 => if b.hasBoathouse then readBhs s off else none
    | _ => none

/-- A 32-bit read at an aligned address (R9): a 32-bit register, or a half of a 64-bit register; zero where neither is (R11). -/
def read32 (s : State) (a : Nat) : Nat :=
  match regAt s a with
  | some (_, v) => v % 2 ^ 32
  | none => match (if a % 8 = 4 then regAt s (a - 4) else none) with
    | some (true, v) => v / 2 ^ 32 % 2 ^ 32
    | _ => 0
/-- A 64-bit read at an aligned address (R9). -/
def read64 (s : State) (a : Nat) : Nat :=
  match regAt s a with
  | some (true, v) => v % 2 ^ 64
  | _ => read32 s a + read32 s (a + 4) * 2 ^ 32

end Sys2Proof.Machine
end

