-- ==== Sys2Proof/Machine/Dump.lean ====
section
/-! DEFINITION. The contents of a dump, and how it is written (R389, R390). -/
namespace Sys2Proof.Machine

/-- The 1 KiB of an island's hang ring: its events, the oldest first, then zeros (R387). -/
def hangWords (s : State) (isl : Nat) : List W64 :=
  let l := (s.ump.hang.get isl).flatMap fun e => [e.1, e.2]
  l ++ List.replicate (128 - l.length) 0

/-- The group counters of the work that runs on a seat. -/
def seatGroups (s : State) (i : Nat) : List Nat :=
  match (s.prog? i).bind fun p => s.work? p.owner with
  | some w => (List.range 4).map fun g => w.groups.getD g 0
  | none => [0, 0, 0, 0]

/-- The words of a section (R390). -/
def sectionWords (s : State) (kind : Nat) : List W64 :=
  match kind with
  | 1 => (List.range 16).flatMap (logSlotWords s)
  | 2 => (builtIslands s.build).flatMap (hangWords s)
  | 3 => (List.range s.build.seats).flatMap fun i =>
      [w64 (seatState s i), w64 (seatPc s i), w64 (seatWait s i), (s.stb.waiters.get i).value] ++ (seatGroups s i).map w64
  | 4 => (List.range 16).map (fun k => w64 (coreStatus s k)) ++ (List.range 4).map fun t => w64 (treeStatus s t)
  | 5 => (List.range s.build.clusters).flatMap fun c =>
      let r := s.row c
      let hold (k : Nat) : Nat := match r.holds.find? fun h => h.1 == k with | some h => h.2.ctx.toNat | none => 0xFFFF
      [w64 (rowStatus s c), w64 (put r.parked.length 0 7 + putb r.arrHeld.isSome 7)] ++
      (List.range 8).map (fun e => w64 (engStatus s c e)) ++
      [w64 (match r.resident with | some x => x.toNat | none => 0xFFFF),
       w64 (hold 0 + put (hold 1) 16 16 + put (hold 2) 32 16 + put (hold 3) 48 16), 0, 0, 0, 0]
  | 6 => (List.range 4).flatMap (wfgOf s)
  | _ => (List.range s.build.heatLoops).flatMap fun l =>
      w64 (loopStatus (s.loop l)) :: (List.range 8).map fun k => w64 (heatSlotWord (s.hslot l k))

/-- The writes of one section, which reads the units as they now stand; in CAPTURE the collection still reads the compute islands. -/
def dumpWrites (s : State) (x : Nat × Nat × Nat) : List MemWrite :=
  lineWrites 0xFFFF (dumpAddr s + x.2.1) (sectionWords (updUmp (fun u => { u with rst := .run }) s) x.1)

/-- A dump's writes of one phase are answered: the sections follow the header one by one, and the header in state 2 ends the dump
(R389). A response error abandons it (R390). -/
def dumpWritten (phase : Nat) (err : RespErr) (addr : Nat) (s : State) : State :=
  if !s.ump.dumpBusy then s
  else if err != .ok then
    logRec .nothing { LogRec.zero with code := eDumpWrite, island := islUmp, addr := addr, ctx := 0xFFFF }
      (nextDump s)
  else match (dumpSections s.build).drop phase with
    | x :: _ => startPlan (.dump (phase + 1)) islUmp 63 [dumpWrites s x] s
    | [] =>
      if phase = (dumpSections s.build).length then
        startPlan (.dump (phase + 1)) islUmp 63
          [(lineWrites 0xFFFF (dumpAddr s) (s.ump.dumpHead.set 3 (wordAt s.ump.dumpHead 3 + 1))).take 1] s
      else nextDump s

/-- DUMP_REQUEST (R389): a write of 1 to UMP_DUMP_CTL.request. -/
def dumpRequestOp (s : State) : State := if blank s then s else startDump 0 0 s.now true s
def execDumpRequest (s : State) : Out := .next (dumpRequestOp s)

end Sys2Proof.Machine
end

