-- ==== Sys2Proof/Machine/Supervise.lean ====
section
/-! DEFINITION. Umpire's error log and the watchdogs (R378 to R385), and the driver's reset (R391). -/
namespace Sys2Proof.Machine

/-! ### The error log (R381) -/

/-- LOG_FREE: the slots whose bits are 1 and that are not pending hold nothing any more. -/
def logFreeOp (bits : BitVec 16) (s : State) : State :=
  each ((List.range 16).filter fun i => bits.getLsbD i && !(slotPending s i)) (fun s i =>
    updUmp (fun u => { u with log := u.log.upd i fun l => { l with valid := false } }) s) s
def execLogFree (bits : BitVec 16) (s : State) : Out := powered s (logFreeOp bits s)

/-- LOG_STATUS_READ: a read of UMP_LOG_STATUS answers the outstanding interrupt. -/
def logStatusReadOp (s : State) : State :=
  updPorts (fun p => { p with hostRead := w64 (logStatus s) }) (updUmp (fun u => { u with irqWaiting := false }) s)
def execLogStatusRead (s : State) : Out := powered s (logStatusReadOp s)

/-! ### Watchdogs (R382 to R385) -/

/-- A watchdog's time in ms; 0 acts as 1 (R410). -/
def wdTime (s : State) (lo : Nat) : Nat := max 1 (fld s.ump.wd lo 8) * msTu

/-- An engine channel that has not moved for cmd_ms (R382). -/
def engineHung (s : State) (g : Engine) : Bool :=
  let old (t : Nat) : Bool := t + wdTime s 0 < s.now
  (match g.running with | some r => old r.since | none => false) ||
  (match g.st, g.presented with | .present, some r => old (max r.since g.idleSince) | _, _ => false) ||
  (g.preReq && !g.preAck && old g.preSince) || (g.preAck && !g.preReq && old g.preSince)

/-- ENGINE_WATCHDOG (R382). -/
def engineWatchdogOp (c e : Nat) (s : State) : State :=
  let g := s.eng c e
  if !(computeUp s) || !(engBuilt s c e) || !(engineHung s g) then s else
    let r : LogRec := match g.running.or g.presented with
      | some x => { pieceRec s c e x.msg 4 eEngineHang with tag := cmdTag x.msg x.words }
      | none => { LogRec.zero with code := eEngineHang, island := islRow c, engine := e, cluster := c }
    raise4 r s
def execEngineWatchdog (c e : Nat) (s : State) : Out := .next (engineWatchdogOp c e s)

/-- A Cox core in EXEC on one word since before `t`. -/
def coreHung (s : State) (k t : Nat) : Bool := k < s.build.coxCores && (s.core k).st == .exec && (s.core k).since + t < s.now
/-- A cluster's step of a save or restore that has been under way since before `t`, waiting for no response. -/
def stepHung (s : State) (t : Nat) (x : ClJob) : Bool :=
  (x.st == .hold || x.st == .waitRow || x.st == .copy) && x.since + t < s.now
/-- A heat slot in COMPOSE, GROW or COMMIT since before `t`, waiting for no response. -/
def slotHung (s : State) (t : Nat) (h : HeatSlot) : Bool :=
  (h.st == .compose || h.st == .grow || (h.st == .commit && h.acked)) && !h.waiting && h.since + t < s.now

/-- A request that a unit accepted before `t` and has not issued yet, because the port's tags are all in use (R19). -/
def unissued (s : State) (isl t : Nat) : Bool :=
  (s.ports.nm ++ s.ports.hm).any (fun q => q.isl == isl && decide (portTags ≤ q.tag) && decide (q.at_ + t < s.now)) ||
  s.ports.at_.any fun q => q.isl == isl && decide (portTags ≤ q.tag) && decide (q.at_ + t < s.now)
/-- A move that Rack accepted before `t` and has not completed, with none of its copies' command writes waiting for a response. -/
def moveHung (s : State) (t : Nat) (m : MoveJob) : Bool :=
  decide (m.since + t < s.now) &&
  !(s.sld.pieces.any fun p => p.asked && !p.written && match p.for_ with | .move id _ => id == m.id | .job _ _ => false)
/-- The unit of an island has met its stall condition for unit_ms (R383), waiting for a response left out. -/
def unitHung (s : State) (isl : Nat) : Bool :=
  let t := wdTime s 8
  if 514 ≤ isl && isl < 522 then coreHung s (2 * (isl - 514)) t || coreHung s (2 * (isl - 514) + 1) t
  else if 528 ≤ isl && isl < 532 then
    (match (s.tree (isl - 528)).stallSince with | some x => decide (x + t < s.now) | none => false)
  else if isl == islStb then unissued s islStb t
  else if isl == islRck then s.mem.moves.any (moveHung s t) || unissued s islRck t
  else if isl == islSld then s.sld.jobs.any fun j => !j.failed && j.clusters.any (stepHung s t)
  else if isl == islJds then
    (match s.judge.jobs.find? fun j => j.started with | some j => j.out == 0 && decide (j.since + t < s.now) | none => false)
  else if isl == islHea then s.heat.loops.cells.any fun g => (List.range 8).any fun k => slotHung s t (g.2.slots.get k)
  else false

/-- UNIT_WATCHDOG (R383). -/
def unitWatchdogOp (isl : Nat) (s : State) : State :=
  if !(computeUp s) || !(unitHung s isl) then s else raise4 { LogRec.zero with code := eUnitHang, island := isl } s
def execUnitWatchdog (isl : Nat) (s : State) : Out := .next (unitWatchdogOp isl s)

/-- FIRMWARE_HEARTBEAT (R384). -/
def firmwareHeartbeatOp (s : State) : State := if s.rig.fwRunning then updUmp (fun u => { u with lastBeat := s.now }) s else s
def execFirmwareHeartbeat (s : State) : Out := .next (firmwareHeartbeatOp s)

/-- FIRMWARE_WATCHDOG (R384): it runs from Foantong's start (R417). -/
def firmwareWatchdogOp (s : State) : State :=
  if !s.rig.fwRunning || s.ump.rst == .dead || s.now < s.ump.lastBeat + wdTime s 16 then s
  else raise5 { LogRec.zero with code := eFirmwareHang, island := islUmp } s
def execFirmwareWatchdog (s : State) : Out := .next (firmwareWatchdogOp s)

/-- What the response watchdog sees of a request: its island, address, context, issue time, whether it has been reported. -/
structure Awaited where
  isl : Nat
  addr : Nat
  ctx : CtxId
  at_ : Nat
  late : Bool

/-- The request with a tag on a port (R385): 0 narrow, 1 atomic, 2 host memory, 3 wide, 4 trace, 5 piece (of a cluster), 6 monitor
(its tag is the watch entry). No request of the block's waits for an answer on the crossing or the host target port. -/
def awaited (s : State) (port c tag : Nat) : Option Awaited :=
  let mem (l : List MemReq) : Option Awaited := (l.find? fun q => q.tag == tag && tag < portTags).map fun q => ⟨q.isl, q.addr, q.ctx, q.at_, q.late⟩
  match port with
  | 0 => mem s.ports.nm
  | 1 => (s.ports.at_.find? fun q => q.tag == tag && tag < portTags).map fun q => ⟨q.isl, q.addr, q.ctx, q.at_, q.late⟩
  | 2 => mem s.ports.hm
  | 3 => (s.ports.wd.find? fun q => q.tag == tag).map fun q => ⟨islJdl, q.addr, q.ctx, q.at_, q.late⟩
  | 4 => (List.range 8).findSome? fun i => ((s.stream i).blocks.find? fun b => b.tag == tag && !b.answered).map
      fun b => ⟨islWak, b.addr, 0xFFFF, b.at_, b.late⟩
  | 5 => if s.build.clusters ≤ c then none else
      ((s.row c).chunks.find? fun q => q.tag == tag).map fun q => ⟨islRow c, q.addr, q.ctx, q.at_, q.late⟩
  | 6 =>
    let w := s.stb.watch.get tag
    if (w.st == .arming || w.st == .disarming) && !w.owed then some ⟨islStb, w.line, w.ctx, w.asked, w.late⟩ else none
  | _ => none

/-- A request has been reported late (R385). -/
def markLate (port c tag : Nat) (s : State) : State :=
  match port with
  | 0 => updPorts (fun p => { p with nm := p.nm.map fun q => if q.tag == tag then { q with late := true } else q }) s
  | 1 => updPorts (fun p => { p with at_ := p.at_.map fun q => if q.tag == tag then { q with late := true } else q }) s
  | 2 => updPorts (fun p => { p with hm := p.hm.map fun q => if q.tag == tag then { q with late := true } else q }) s
  | 3 => updPorts (fun p => { p with wd := p.wd.map fun q => if q.tag == tag then { q with late := true } else q }) s
  | 4 => each (List.range 8) (fun s i => updStream i (fun st => { st with
      blocks := st.blocks.map fun b => if b.tag == tag then { b with late := true } else b }) s) s
  | 5 => updRow c (fun r => { r with chunks := r.chunks.map fun q => if q.tag == tag then { q with late := true } else q }) s
  | _ => updWatch tag (fun w => { w with late := true }) s

/-- RESPONSE_WATCHDOG (R385): 1 ms without an answer is E_RESPONSE_TIMEOUT, or in a compute reset E_RESPONSE_LOST; 2 ms after a
timeout has been reported is E_RESPONSE_LOST. -/
def responseWatchdogOp (port c tag : Nat) (s : State) : State :=
  match awaited s port c tag with
  | none => s
  | some q =>
    if s.ump.rst == .dead then s else
    let r : LogRec := { LogRec.zero with island := q.isl, ctx := q.ctx, addr := q.addr, info := port, tag := tag }
    if q.late then (if q.at_ + 2 * msTu ≤ s.now then raise5 { r with code := eResponseLost } s else s)
    else if s.now < q.at_ + msTu then s
    else if inReset s then raise5 { r with code := eResponseLost } s
    else raise4 { r with code := eResponseTimeout } (markLate port c tag s)
def execResponseWatchdog (port c tag : Nat) (s : State) : Out := .next (responseWatchdogOp port c tag s)

/-- DRIVER_RESET (R391, R410): a write of 1 to UMP_RESET_CMD.reset in RUN. -/
def driverResetOp (s : State) : State :=
  if blank s || s.ump.rst != .run then s else raise4 { LogRec.zero with code := eDriverReset, island := islUmp } s
def execDriverReset (s : State) : Out := .next (driverResetOp s)

end Sys2Proof.Machine
end

