-- ==== Sys2Proof/Machine/Reset.lean ====
section
/-! DEFINITION. Power-on reset and self-test (R44, R412), and the compute reset from QUIESCE to CLEAR (R391 to R395, R421, R427). -/
namespace Sys2Proof.Machine

def updRig (f : Rig → Rig) (s : State) : State := { s with rig := f s.rig }
/-- Change every listed cell of a table. -/
def Tab.mapCells {α : Type} (f : α → α) (t : Tab α) : Tab α := { t with cells := t.cells.map fun p => (p.1, f p.2) }

/-! ### por_n (R44, R412, R413) -/

/-- POR_N_ASSERT: both domains are reset, whatever they do. -/
def porNAssertOp (s : State) : State :=
  { State.reset with build := s.build, fresh := s.fresh, pending := s.pending, ump := { Ump.reset with porN := false } }
def execPorNAssert (s : State) : Out := .next (porNAssertOp s)

/-- Every Rowlock asks its cluster for a reset (R48). -/
def requestResets (s : State) : State :=
  each (List.range s.build.clusters) (fun s c => updRow c (fun r => { r with rstReq := true, rstDone := false, rstAt := s.now }) s) s
/-- POR_N_RELEASE: the block leaves the reset POR_N_ASSERT put it in, in which no command but these two changes anything
(`powered`); self-test begins, and each Rowlock performs one cluster reset handshake. -/
def porNReleaseOp (s : State) : State :=
  if s.ump.porN then s else requestResets (updUmp (fun u => { u with porN := true }) s)
def execPorNRelease (s : State) : Out := .next (porNReleaseOp s)

/-- A cluster reset handshake is under way. -/
def resetsOwed (s : State) : Bool := (List.range s.build.clusters).any fun c => (s.row c).rstReq
/-- SELFTEST_DONE (R412, R413): the islands that failed; the first is the one with the lowest number. -/
def selftestDoneOp (failing : List Nat) (s : State) : State :=
  if !s.ump.porN || s.rig.testDone || s.ump.rst != .run || resetsOwed s then s else
    let bad := (builtIslands s.build).filter failing.contains
    updRig (fun r => { r with
      testDone := true, testPass := bad.isEmpty, firstIsland := bad.foldl min (bad.headD 0), failedCount := bad.length }) s
def execSelftestDone (failing : List Nat) (s : State) : Out := .next (selftestDoneOp failing s)

/-! ### QUIESCE (R46, R392) -/

/-- Every request that compute islands had outstanding is answered (R46). -/
def quiesced (s : State) : Bool :=
  !(s.ports.nm.any fun q => q.stale && !(isKeel q.isl)) && !(s.ports.hm.any fun q => q.stale && !(isKeel q.isl)) &&
  !(s.ports.at_.any fun q => q.stale && !(isKeel q.isl)) && s.ports.wd.isEmpty &&
  ((List.range 8).all fun i => (s.stream i).blocks.all (·.answered)) &&
  ((List.range s.build.clusters).all fun c => (s.row c).chunks.isEmpty) &&
  s.stb.watch.cells.all fun p => !(p.2.st == .arming || p.2.st == .disarming) || p.2.owed

/-- What a Rowlock reports of a piece (R392): it counts for its entry, and an error it holds acts on the entry. -/
def collectOne (s : State) (q : Report) : State :=
  match s.workAt q.seat q.entry with
  | none => s
  | some w => reportError w.owner q.err (updWork w.owner (fun w => { w with
      unsafeCaught := w.unsafeCaught || q.unsafeCaught, nonReplayable := w.nonReplayable || q.unsafeCaught }) s)
/-- The reports of a Rowlock (R392): those on their way, and one for each piece that was in its slots. -/
def rowReports (r : Rowlock) : List Report := r.reports.filter fun q => q.origin != 1

/-- QUIESCE_DONE (R391): collect, write a dump if one is armed, CAPTURE. -/
def quiesceDoneOp (s : State) : State :=
  if s.ump.rst != .quiesce || !(quiesced s) then s else
    let s1 := each ((List.range s.build.clusters).flatMap fun c => rowReports (s.row c)) collectOne s
    if s1.ump.rst != .quiesce then s1 else
      startDump 4 s1.ump.cause s1.ump.detectedAt false
        (updUmp (fun u => { u with rst := .capture, capturedAt := s.now }) s1)
def execQuiesceDone (s : State) : Out := .next (quiesceDoneOp s)

/-- ROWLOCK_REPORT_TIMEOUT (R392): a Rowlock has not reported within 1 ms. -/
def rowlockReportTimeoutOp (c : Nat) (s : State) : State :=
  if s.ump.rst == .capture && c < s.build.clusters && s.ump.capturedAt + msTu ≤ s.now && !(s.ump.lateRows.contains c) then
    updUmp (fun u => { u with lateRows := u.lateRows ++ [c] }) s
  else s
def execRowlockReportTimeout (c : Nat) (s : State) : Out :=
  if s.build.clusters ≤ c then .fault (.notBuilt "cluster") else .next (rowlockReportTimeoutOp c s)

/-- CAPTURE_DONE (R391): collection and any dump are complete; every Rowlock asks for a cluster reset. -/
def captureDoneOp (s : State) : State :=
  if s.ump.rst == .capture && !s.ump.dumpBusy then requestResets (updUmp (fun u => { u with rst := .engReset }) s) else s
def execCaptureDone (s : State) : Out := .next (captureDoneOp s)

/-! ### ENG_RESET: compute islands are reset (R391, R392, R421, R427) -/

/-- Plans that a compute reset leaves: those of keel islands, those that have not begun, and what Rack and Slide have still to
write of page tables and handles, which are keel (R393). Heat's begin again from its intents (R403); Judge's are lost (R392). -/
def keptPlan (p : Plan) : Option Plan :=
  if isKeel p.isl then some p
  else match p.who with
    | .heatIntent _ => none
    | .heatParams _ _ => none
    | .heatRequests _ _ => none
    | .heatCommit _ _ => none
    | .judgeResult _ => none
    | _ => if p.out == 0 then some p else if p.batches.isEmpty then none else match p.who with
    | .htab _ => some { p with who := .none, out := 0 }
    | .kvResult _ => none
    | _ => if p.isl == islRck then some { p with who := .table, out := 0 } else none

/-- A seat after the reset of the cores: no program. -/
def resetSeat (x : Seat) : Seat :=
  { x with prog := none, st := match x.st with | .run => .idle | .wait => .idle | .ready => .idle | t => t }

/-- An ENQUEUE's read of its image, which no core waits for after the reset. -/
def dropImage (q : MemReq) : MemReq := match q.why with | .enqImage _ _ => { q with stale := true } | _ => q
/-- The compute islands are reset; what R39, R392 and R393 keep stays: RCK_PART_REG and RCK_CREW_NEAR, whose fields are no rwl ones,
go back to their reset values, and the hang rings of compute islands are lost. -/
def resetUnits (s0 : State) : State :=
  let s := each (List.range s0.build.partitions) (fun s p => refillPart p s) (wakeReset (dropWaiters s0))
  let seats := each (List.range s.build.seats) (fun t i => t.set i (if heatSeat s i then Seat.reset else resetSeat (t.get i))) s.mar.seats
  { s with
    cox := Cox.reset
    fab := Fabric.inReset
    judge := Judge.reset
    mar := { s.mar with seats := seats, cancels := [] }
    heat := { Heat.reset with loops := s.heat.loops, shares := s.heat.shares, floor := s.heat.floor, lastPeriod := s.now }
    sld := { s.sld with jobs := [], pieces := [], held := [], copyBytes := 0, sel := 0,
                        ctxs := s.sld.ctxs.mapCells fun c => { c with busy := 0 } }
    mem := { s.mem with
      kvJobs := [], partSel := 0, poolSel := 0, crewNear := Tab.const 0
      parts := s.mem.parts.mapCells fun x => { x with reg := Part.reset.reg } }
    ump := { s.ump with hang := { s.ump.hang with cells := s.ump.hang.cells.map fun p => if isKeel p.1 then p else (p.1, []) } }
    rack := { Rack.reset with objBase := s.rack.objBase, objs := s.rack.objs, dirty := s.rack.dirty, courses := s.rack.courses }
    stb := { Stb.reset with
      watch := s.stb.watch.mapCells fun w => { w with reads := 0, dirty := false }
      waiters := s.stb.waiters, nextOrder := s.stb.nextOrder, link := s.stb.link, linkOk := s.stb.linkOk, linkAt := s.stb.linkAt
      tx := s.stb.tx, xngCfg := setFld Stb.reset.xngCfg 0 16 (fld s.stb.xngCfg 0 16) }
    ports := { s.ports with
      nm := s.ports.nm.map dropImage, plans := s.ports.plans.filterMap keptPlan, fetches := [], hsigAddr := 0, hsigCtx := 0, hsigBusy := false, hsigStale := false,
      hsigFailed := false, hsigErr := .ok, hsigBad := false, hsigOld := 0, staleSignals := 0, failedSignals := 0 } }

/-- An epoch swap is settled (R423, R427): a staged image is discarded with result 12; past SWAP the swap is complete. Heats
of the old epoch whose crew is another in the new one will not be re-run, and drop without raising fails. -/
def settleSwap (s : State) : State :=
  match s.rig.st with
  | .staged => updRig (fun r => { r with st := .applied, staged := none, result := 12 }) s
  | .switched | .retiring =>
    let moved (h : HeatSlot) : Bool := h.epoch != epochBit s && crewFor s h.epoch h.crew != crewFor s (epochBit s) h.crew
    let s1 : State := { s with heat := { s.heat with loops := s.heat.loops.mapCells fun g => { g with
      slots := g.slots.mapCells fun h => if h.st != .free && moved h then { h with composed := false, rerun := false } else h } } }
    updRig (fun r => { r with st := .applied, old := none, image := w64 r.now.base }) s1
  | _ => s

/-- Rigger's reads of an image over the narrow path, in context 0xFFFF (R24, R417): image_bytes from its base, or the header alone
while the header gives no length in range. -/
def readImage (base : Nat) (image : MemRead) (s : State) : State :=
  let n := imgFld image.bytes 8 32 32
  ownRead islRig base 0xFFFF (if image.err == .ok && 256 ≤ n && n ≤ 4 * 1024 * 1024 then n else 256) s

/-- Rigger reads the image in force again and checks it, the digest left out (R421): the image, or the class-5 error. -/
def reapply (image : MemRead) (s0 : State) : State :=
  if blank s0 then stkAfterReset s0 else
  let s := readImage s0.rig.now.base image s0
  if image.err == .target then targetLost 0 islRig s.rig.now.base 0xFFFF s
  else match checkImage s.build false image with
    | some b => raise5 { LogRec.zero with code := eBlockAccess, island := islRig, ctx := 0xFFFF, addr := s.rig.now.base + b.off } s
    | none => stkAfterReset (updRig (fun r => { r with now := imageOf s.build r.now.base image.bytes }) s)

/-! ### What becomes of entries (R394, R395, R397) -/

/-- An entry is replayable (R397). -/
def replayable (s : State) (w : Work) : Bool :=
  bhsEnabled s && !w.unsafeCaught && !w.nonReplayable && (ctxSt s w.ctx == .live || ctxSt s w.ctx == .stopped) &&
  !(s.ump.stateful.contains w.ctx) && s.ump.lateRows.isEmpty && w.replayed == 0

/-- Nothing of an entry's work is left. -/
def stillWork (w : Work) : Work := { w with groups := [0, 0, 0, 0], reqs := 0, ended := true }
/-- An entry fails by the reset (R395). -/
def failByReset (code : BitVec 16) (w : Work) (s : State) : State :=
  updBhs (fun b => { b with failed := satAdd 64 b.failed 1 })
    (updWork w.owner (fun w => { stillWork w with failed := some (4, code) }) s)

/-- The outcome of one entry in the table of R395. -/
def resetWork (s : State) (w : Work) : State :=
  match w.owner with
  | .heat _ _ => s
  | .entry _ _ =>
    if w.fence == .done then s
    else if w.fence == .inFlight then updWork w.owner (fun w => { stillWork w with fence := .notDue }) s
    else if w.marker || s.bhs.replays.contains w.owner then s
    else if w.failed.isSome then updWork w.owner stillWork s
    else if 0 < w.replayed then failByReset eReplayLimit w s
    else if replayable s w then
      updBhs (fun b => { b with replays := b.replays ++ [w.owner] })
        (updWork w.owner (fun w => { stillWork w with ended := false, timer := none, drops := [] }) s)
    else failByReset (if bhsEnabled s then eReplayUnsafe else eComputeReset) w s

/-- The rings that have entries in their windows. -/
def busyRings (s : State) : List Nat :=
  (s.mar.works.filterMap fun w => match w.owner with | .entry r _ => some r | .heat _ _ => none).eraseDups
/-- The fence failures put off by the reset go out (R394). -/
def issueOwed (s : State) : State :=
  each s.ports.owedFails (fun s f => failFenceStart f.1 f.2.1 f.2.2.1 f.2.2.2.1 f.2.2.2.2 s) (updPorts (fun p => { p with owedFails := [] }) s)

/-- Every engine has completed its reset (R391): compute islands are reset, the image in force is applied again, fences are failed,
CLEAR. -/
def engResetDone (image : MemRead) (s : State) : State :=
  let s1 := reapply image (settleSwap (resetUnits s))
  if s1.ump.rst != .engReset then s1 else
    let s2 := each s1.mar.works resetWork s1
    let s3 := updUmp (fun u => { u with rst := .clear }) s2
    each (busyRings s3) (fun s r => settle r s) (issueOwed s3)

/-- CLUSTER_RESET_DONE (R48): a cluster's cl_rst_done reaches 1. `image` is what Rigger's reads find once every one has. -/
def clusterResetDoneOp (c : Nat) (image : MemRead) (s : State) : State :=
  let s1 := updRow c (fun r => { r with rstReq := false, rstDone := true }) s
  if resetsOwed s1 || s1.ump.rst != .engReset then s1 else engResetDone image s1
def execClusterResetDone (c : Nat) (image : MemRead) (s : State) : Out :=
  if s.build.clusters ≤ c then .fault (.notBuilt "cl_rst_done")
  else if !(s.row c).rstReq then .fault (.portProtocol "cl_rst_done")
  else if s.ump.rst == .dead then .next s
  else .next (clusterResetDoneOp c image s)

/-- CLUSTER_RESET_LATE (R48, R405): cl_rst_done has not reached 1 within 20 ms. -/
def clusterResetLateOp (c : Nat) (s : State) : State :=
  if (s.row c).rstReq && (s.row c).rstAt + 20 * msTu ≤ s.now && s.ump.rst != .dead then
    raise5 { LogRec.zero with code := eClusterReset, island := islRow c, cluster := c } s
  else s
def execClusterResetLate (c : Nat) (s : State) : Out :=
  if s.build.clusters ≤ c then .fault (.notBuilt "cl_rst_done") else .next (clusterResetLateOp c s)

end Sys2Proof.Machine
end

