-- ==== Sys2Proof/Machine/Recover.lean ====
section
/-! DEFINITION. The end of a compute reset and recovery: loops, entries to replay, moves to restart (R391, R396, R403 to R406). -/
namespace Sys2Proof.Machine

/-! ### Heats in flight when recovery begins (R403, R404) -/

/-- Heats failed by a reset are counted (R411). -/
def countFailed (s : State) : State := updBhs (fun b => { b with failed := satAdd 64 b.failed 1 }) s
/-- Heats re-run or redone are counted (R411). -/
def countRedone (s : State) : State := updBhs (fun b => { b with rerunCount := satAdd 64 b.rerunCount 1 }) s

/-- A heat is dropped (R403 step 4): ABORT when the journal holds a record of it; its members stay as they are for step 3. -/
def dropHeat (l k : Nat) (s : State) : State :=
  let h := s.hslot l k
  let recorded := s.bhs.recs.any fun r => r.loop == l && r.slot == k && r.step == h.step
  freeHeatSlot l k (countFailed (if recorded then journalAppend l k 4 h (journalHeader s l k h 4 1 0 0 0) s else s))

/-- Without a journal, a heat that had begun to commit is finished as far as it had come, and the members that still live are retired
FAILED (R404). -/
def finishPartly (l k : Nat) (s : State) : State :=
  let h := s.hslot l k
  let live := h.members.filter fun m => seqLive ((s.loop l).seqs.get m.seq)
  let s1 := each live (fun s m => updSeq l m.seq (fun e => { e with ctxFailed := some eComputeReset }) s) s
  let r := live.foldl (rollMember l eComputeReset false) ⟨s1, [], [], [], [], h.rings⟩
  let x : Intent := {
    kind := .rollback, rings := r.rings, frees := h.frees ++ r.frees
    writes := h.writes ++ [r.tables, r.records, r.changed.map (seqWrite r.st l)] }
  freeHeatSlot l k (countFailed (addIntent l x r.st))

/-- A heat keeps its place in the journal and waits to be re-run (R403 step 4). -/
def keepForRerun (l k : Nat) (s : State) : State :=
  let h := s.hslot l k
  letGoSlot l k (updBhs (fun b => { b with reruns := b.reruns ++ [(l, k, { h with st := .free, rerun := false }, heatPins s l k)] }) s)

/-- A failed heat is rolled back; its crew holds nothing to vacate. -/
def rollAfterReset (l k : Nat) (code : BitVec 16) (s : State) : State :=
  rollback l k code (updHSlot l k (fun h => { h with st := .compose }) s)

/-- A heat in flight whose COMPOSE is acknowledged, and no OUTCOME, is re-run (R403 step 4). -/
def reruns (s : State) (l k : Nat) : Bool :=
  let g := s.loop l
  let h := s.hslot l k
  h.st != .free && !h.rerun && h.composed && !h.members.isEmpty && journals s && (g.st == .running || g.st == .draining) &&
  !g.stopping && s.ump.lateRows.isEmpty && (match s.work? (.heat l k) with | some w => w.failed.isNone | none => true)

/-- Step 4 of R403 for one heat slot: re-run, dropped, or rolled back with the code it has failed with. Without a journal a re-run is
dropped as any heat is (R404). -/
def resetSlot (l : Nat) (s0 : State) (k : Nat) : State :=
  if (s0.hslot l k).st == .free then s0 else
  let s := updHSlot l k (fun h => { h with waiting := false }) s0
  match (match s.work? (.heat l k) with | some w => w.failed | none => none) with
  | some (_, code) => rollAfterReset l k code s
  | none =>
    if (s.hslot l k).rerun && journals s then countFailed (rollAfterReset l k eReplayLimit s)
    else if reruns s l k then keepForRerun l k s
    else dropHeat l k s

/-! ### What recovery reads (R403, R386) -/

/-- A write of a record into an enabled result ring of a loop. -/
def isRecord (g : Loop) (w : MemWrite) : Bool :=
  (List.range 16).any fun r =>
    let x := g.ress.get r
    x.enabled && w.host == !x.dev && x.base ≤ w.addr && w.addr < x.base + 64 * 2 ^ x.log2
/-- The records among the writes that recovery may have to make again. -/
def owedRecords (g : Loop) : List MemWrite :=
  (g.intent.flatMap (·.writes) ++ (List.range 8).flatMap fun k => (g.slots.get k).writes).flatMap fun b => b.filter (isRecord g)
/-- A slot has an acknowledged OUTCOME and no DONE: step 2 of R403 redoes its commit, or without a journal what it had begun. -/
def redoes (s : State) (l k : Nat) : Bool :=
  let h := s.hslot l k
  h.st == .commit && (!h.writes.isEmpty || (h.acked && !h.waiting && journals s))
/-- The lines of a loop's journal records. -/
def journalLinesOf (s : State) (l : Nat) : List Nat :=
  if !(journals s) then [] else
    (s.bhs.recs.filter fun r => r.loop == l).flatMap fun r => (List.range r.lines).map fun i =>
      fld s.bhs.cfg 12 44 * 4096 + 64 * ((r.off + i) % journalLines s)
/-- The addresses of the results of a slot's Judge job (R301). -/
def resultLines (s : State) (l k : Nat) : List Nat :=
  (List.range (sampledOf (s.hslot l k)).length).map fun i => judgeAddr s l k + 64 * 2 ^ s.build.heatBatchLog2 + 64 * i

/-- Recovery of one loop begins: what Heat had under way is no more, and Heat and Boathouse read the journal, the live sequences'
entries, the results in the Judge areas, and the result slots that they may have to write. -/
def recoverBegin (s : State) (l : Nat) : State :=
  let s1 := updLoop l (fun g => { g with
    residue := 0, barren := false, reqs := g.reqs.mapCells fun q => { q with reading := false, rec_ := none, again := false }
    ress := g.ress.mapCells fun r => { r with reserved := 0 }
    seqs := g.seqs.mapCells fun e => { e with waiter := none, retryAt := s.now }
    intent := (g.intent.filter fun x => match x.kind with | .grow _ => false | _ => true).map fun x => { x with plan := none } }) s
  let s2 := each (List.range 8) (fun s k => updWork (.heat l k) stillWork s)
    (updBhs (fun b => { b with waiting := b.waiting.filter fun x => !(x.1 == l && x.2.2.2.1 < 3) }) s1)
  let g := s2.loop l
  if !(loopLive g) then startIntent l s2 else
    let recs := owedRecords g
    let read (isl space : Nat) (ctx : CtxId) (lines : List Nat) : State → State :=
      startFetch (.recover l space) isl 63 (space == 2) ctx lines
    let results := ((List.range 8).filter (redoes s2 l)).flatMap (resultLines s2 l)
    read islBhs 0 0xFFFF (journalLinesOf s2 l)
      (read islHea 0 0xFFFF ((liveSeqs g).map fun p => g.seqTable + 64 * p.1)
      (read islHea 1 g.ctx (results ++ (recs.filter fun w => !w.host).map (·.addr))
      (read islHea 2 0xFFFF ((recs.filter (·.host)).map (·.addr))
        (updBhs (fun b => { b with recovering := b.recovering ++ [(l, 0)] }) s2))))

/-- Judge's result record as it stands in memory (R297). -/
def readResult (w : List W64) : JudgeResult :=
  let h := wordAt w 0
  let n := fld h 4 5
  ⟨w16 (fld h 48 16), (List.range n).map fun i => fld (wordAt w (1 + i / 3)) (20 * (i % 3)) 20, fld h 9 2, bit h 11, fld h 12 5,
    fld h 32 16, fld (wordAt w 7) 0 32, w32 (fld (wordAt w 7) 32 32)⟩
/-- A record is written only where its slot does not hold the expected phase (R403). -/
def lacks (g : Loop) (host : Bool) (got : List (Nat × List W64)) (w : MemWrite) : Bool :=
  !(w.host == host && isRecord g w && match got.find? fun x => x.1 == w.addr with
    | some x => bit (wordAt x.2 0) 0 == (w.bytes.headD 0).getLsbD 0
    | none => false)
/-- What recovery read: records that stand in their slots are not written again, and a commit takes its tokens from the results. -/
def takeReads (l space : Nat) (got : List (Nat × List W64)) (s : State) : State :=
  if space = 0 then s else
  let keep (g : Loop) (ws : List (List MemWrite)) : List (List MemWrite) := ws.map fun b => b.filter (lacks g (space == 2) got)
  let s1 := updLoop l (fun g => { g with
    intent := g.intent.map fun x => { x with writes := keep g x.writes }
    slots := g.slots.mapCells fun h => { h with writes := keep g h.writes } }) s
  if space = 2 then s1 else
    each ((List.range 8).filter fun k => redoes s1 l k && (s1.hslot l k).writes.isEmpty) (fun s k =>
      let rs := (resultLines s l k).filterMap fun a => (got.find? fun x => x.1 == a).map fun x => readResult x.2
      if rs.isEmpty then s else updHSlot l k (fun h => { h with members := giveResults h.members rs }) s) s1

/-! ### Steps 1 to 4 of R403 -/

/-- A loop's recovery goes on to a step. -/
def recoverAt (l ph : Nat) (s : State) : State :=
  updBhs (fun b => { b with recovering := b.recovering.map fun y => if y.1 == l then (l, ph) else y }) s
/-- A loop's recovery is over. -/
def recovered (l : Nat) (s : State) : State := updBhs (fun b => { b with recovering := b.recovering.filter fun y => y.1 != l }) s
/-- A read of recovery has returned xlat or poison (R386): the loop's heats are rolled back and it is STOPPED. -/
def recoverError (l addr : Nat) (s : State) : State :=
  let s1 := recovered l (failLoop l eLoopState (logRec (.loop l)
    { LogRec.zero with cls := 2, code := eLoopState, island := islHea, loop := l, addr := addr, ctx := 0xFFFF } s))
  checkLoop l (startIntent l (each (List.range 8) (fun s k =>
    if (s.hslot l k).st == .free then s else rollAfterReset l k eLoopState (updHSlot l k (fun h => { h with waiting := false }) s)) s1))
/-- A set of recovery's reads is answered. -/
def recoverRead (l space : Nat) (f : Fetch) (s : State) : State :=
  if !(recovers s l) then s
  else if f.err == .ok then takeReads l space f.got s
  else recoverError l f.errAddr s

/-- A spill in progress is reversed and a fill is restarted (R315, R403 step 3). -/
def recoverMove (s : State) (m : MoveJob) : State :=
  match m.kind with
  | .refetch => s
  | .spill => endMove { m with failed := some 0 } s
  | .fill =>
    if m.failed.isSome then endMove m s
    else movePages m.id m.obj m.homes (updMem (fun x => { x with moves := x.moves.map fun y => if y.id == m.id then { y with left := 0, since := s.now } else y }) s)

/-- The writes that bring one sequence's table and entry up to date; a heat's grow may have left its table half written. -/
def recoverWrites (old new : State) (l : Nat) (p : Nat × SeqEnt) : List MemWrite :=
  let t := hIdx p.2.kv
  let from_ := if p.2.inHeat then updTab t (fun _ => PageTab.reset) old else old
  tabWrites from_ new t ++ [seqWrite new l p.1]

/-- Step 3: every live sequence is trimmed to its pos and in_heat is written 0. Sequences that their heat would have ended are retired. -/
def trimLoop (l : Nat) (s0 : State) : State :=
  let s := each (s0.mem.moves.filter fun m => m.loop == l && m.kind != .refetch) recoverMove s0
  let live := (liveSeqs (s.loop l)).filter fun p => seqLive p.2
  let s1 := each live (fun s p => updSeq l p.1 (fun e => { e with inHeat := false }) (trimTab (hIdx p.2.kv) p.2.pos s)) s
  let s2 := addIntent l { kind := .trim, writes := [live.flatMap (recoverWrites s s1 l)] } s1
  let kept := ((List.range 8).filter (reruns s l)).flatMap fun k => (s.hslot l k).members.map (·.seq)
  each (live.filter fun p => p.2.inHeat && !(kept.contains p.1)) (fun s p => retireDue l p.1 s) s2

/-- Step 4: each heat still in its slot is re-run, dropped or rolled back; then placement resumes (step 5). -/
def recoverSlots (l : Nat) (s : State) : State := checkLoop l (each (List.range 8) (resetSlot l) (recovered l s))
/-- Step 3, and what follows it. -/
def recoverTrims (l : Nat) (s : State) : State :=
  let s1 := trimLoop l (recoverAt l 3 s)
  if (s1.loop l).intent.isEmpty then recoverSlots l s1 else s1
/-- Step 2 for one slot. -/
def redoCommit (l : Nat) (s : State) (k : Nat) : State :=
  if (s.hslot l k).writes.isEmpty then commitHeat l k (countRedone s)
  else if journals s then startCommit l k (countRedone s)
  else finishPartly l k s
/-- A slot's commit has still to end. -/
def commits (s : State) (l k : Nat) : Bool := redoes s l k || ((s.hslot l k).st == .commit && (s.hslot l k).waiting)
/-- Step 2, and what follows it. -/
def recoverCommits (l : Nat) (s : State) : State :=
  let s1 := ((List.range 8).filter (redoes s l)).foldl (redoCommit l) (recoverAt l 2 s)
  if (List.range 8).any (commits s1 l) || !(s1.loop l).intent.isEmpty then s1 else recoverTrims l s1

/-- Recovery of a loop goes on (R403): the intents when the reads have come, and each step when the one before has ended. -/
def recoverLoop (s : State) (x : Nat × Nat) : State :=
  let l := x.1
  let g := s.loop l
  match x.2 with
  | 0 =>
    if s.ports.fetches.any fun f => match f.who with | .recover l' _ => l' == l | _ => false then s else
      let s1 := startIntent l (recoverAt l 1 s)
      if g.intent.isEmpty then recoverCommits l s1 else s1
  | 1 => if g.intent.isEmpty then recoverCommits l s else s
  | 2 => if (List.range 8).any (commits s l) || !g.intent.isEmpty then s else recoverTrims l s
  | _ => if g.intent.isEmpty then recoverSlots l s else s

/-- Recovery goes on after a response. -/
def pumpRecovery (s : State) : State := if s.ump.rst == .recover then each s.bhs.recovering recoverLoop s else s

/-! ### CLEAR to RUN (R391) -/

/-- A refetch in progress is begun again (R406). -/
def restartRefetch (s : State) (m : MoveJob) : State :=
  let o := s.rack.objs.get m.obj
  addMoves m.id 0 0 o.partition (refetchClusters s) (moveCmds o.goldenAddr.toNat o.base o.size)
    (updMem (fun x => { x with moves := x.moves.map fun y => if y.id == m.id then { y with left := 0, failed := none, since := s.now } else y }) s)

/-- The fence atomics and fence failures that CLEAR waits for are answered. -/
def fencesDone (s : State) : Bool :=
  s.ports.owedFails.isEmpty && !(s.ports.at_.any fun q => match q.why with
    | .fence _ _ => true
    | .failFence _ _ _ _ => true
    | _ => false)

/-- CLEAR_DONE (R391, R47, R215, R365, R387): the reset ends, and recovery begins. -/
def clearDoneOp (s : State) : State :=
  if s.ump.rst != .clear || !(fencesDone s) then s else
    let s1 := updUmp (fun u => { u with
      rst := .recover, incarn := (u.incarn + 1) % 256, resetUs := (s.now - u.detectedAt) / usTu,
      ends := s.now :: u.ends.take 1, hangFrozen := false }) s
    let s2 := kickPlans (settleWatches (wakeResetEnd (stkResume { s1 with fab := Fabric.reset })))
    let s3 := each (s2.heat.loops.cells.map Prod.fst) recoverBegin (updBhs (fun b => { b with recovering := [] }) s2)
    let s4 := each (s3.mem.moves.filter fun m => m.kind == .refetch) restartRefetch s3
    policy (each (busyRings s4) (fun s r => settle r s) (pumpRecovery s4))
def execClearDone (s : State) : Out := .next (clearDoneOp s)

/-- Recovery is complete (R403): every entry has begun again, the loops' steps have finished, and every re-run heat has reached
RUN. Heats kept by a refetch under way wait for it (R406). -/
def recoveryDone (s : State) : Bool :=
  s.bhs.replays.isEmpty && s.bhs.recovering.isEmpty && (s.bhs.reruns.all fun x => (s.loop x.1).st == .paused) &&
  s.heat.loops.cells.all fun g => (List.range 8).all fun k =>
    let h := g.2.slots.get k
    !h.rerun || h.st == .free || h.st == .run || h.st == .judge || h.st == .commit
/-- RECOVER_DONE (R391, R403). -/
def recoverDoneOp (s : State) : State :=
  if s.ump.rst != .recover || !(recoveryDone s) then s else
    updUmp (fun u => { u with rst := .run, recoverUs := (s.now - u.detectedAt) / usTu }) s
def execRecoverDone (s : State) : Out := .next (recoverDoneOp s)

end Sys2Proof.Machine
end

