-- ==== Sys2Proof/Machine/Rigger.lean ====
section
/-! DEFINITION. Rigger: loading, staging, swapping and replacing the image, the lock, and enabling seats (R417 to R431). -/
namespace Sys2Proof.Machine

/-- The address in RIG_STAGE. -/
def stageBase (s : State) : Nat := fld s.rig.stage 12 44 * 4096
/-- A refused RIG_CMD sets the result and changes nothing else (R424). -/
def rigRefuse (result : Nat) (s : State) : State := updRig (fun r => { r with result := result }) s
/-- An image that fails its checks (R417). -/
def rigBad (b : Bad) (s : State) : State :=
  updRig (fun r => { r with result := b.result, badSection := b.entry, badOffset := b.off }) s
/-- RIG_LOCK refuses STAGE and SWAP. -/
def swapLocked (s : State) : Bool := s.rig.lock && !s.rig.swapOk
/-- RIG_CMD is acted on: Rigger's island is a compute island, and a write while busy reads 1 is ignored (R430). Nothing of
R408 stops a command in DEAD. -/
def rigUp (s : State) : Bool := !(inReset s) && s.ump.porN && !s.rig.busy

/-- Which approved digest the Foantong section carries (R430). -/
def slotOfDigest (s : State) (b : List Byte) : Nat := s.build.approved.findIdx fun d => d == ((sectionBytes b 1).drop 0x10).take 32
/-- Rigger applies an image read at RIG_STAGE, Foantong included (R417): the code starts at entry, and its watchdog with it. -/
def applyImage (b : List Byte) (epoch : Nat) (s : State) : State :=
  updUmp (fun u => { u with lastBeat := s.now }) (updRig (fun r => { r with
    st := .applied, result := 0, badSection := 0, badOffset := 0, image := w64 (stageBase s), now := imageOf s.build (stageBase s) b,
    old := none, staged := none, epoch := epoch % 2 ^ 32, fwVersion := imgFld (sectionBytes b 1) 0 0 32,
    digestSlot := slotOfDigest s b, fwRunning := true }) s)

/-- LOAD (R417, R418, R424). -/
def loadOp (image : MemRead) (s0 : State) : State :=
  if !(rigUp s0) then s0
  else if !s0.rig.testDone || s0.rig.st != .blank then rigRefuse 10 s0
  else if s0.rack.objBase = 0 then rigRefuse 13 s0 else
  let s := readImage (stageBase s0) image s0
  if image.err == .target then targetLost 0 islRig (stageBase s) 0xFFFF s
  else match checkImage s.build true image with
    | some b => rigBad b s
    | none => applyImage image.bytes 0 (updMem (fun m => { m with tabs := Tab.const PageTab.reset })
        (updRack (fun k => { k with objs := Tab.const Obj.reset, courses := Tab.const Course.reset }) s))
def execLoad (image : MemRead) (s : State) : Out := .next (loadOp image s)

/-- A section of a staged image equals that of the image in force. -/
def sameSection (s : State) (b : List Byte) (id : Nat) : Bool := sectionBytes b id == sectionBytes s.rig.now.bytes id
/-- A valid shape of a loop that is not STOPPED or FAILED names a crew that an image leaves undefined (R424). -/
def shapeUndefined (s : State) (im : Image) : Bool :=
  s.heat.loops.cells.any fun g => loopLive g.2 && (List.range 16).any fun i =>
    let x := g.2.shapes.get i
    x.valid && (List.range 64).any fun k => bit x.crews k && !(im.crews.get k).defined
/-- The directory entry of the CREWS section. -/
def crewsEntry (b : List Byte) : Nat := match sectionOf b 3 with | some d => d.k | none => 0

/-- STAGE (R423, R424). -/
def stageOp (image : MemRead) (s0 : State) : State :=
  if !(rigUp s0) then s0
  else if swapLocked s0 then rigRefuse 9 s0
  else if s0.rig.st != .applied then rigRefuse 10 s0 else
  let s := readImage (stageBase s0) image s0
  if image.err == .target then targetLost 0 islRig (stageBase s) 0xFFFF s
  else match checkImage s.build true image with
    | some b => rigBad b s
    | none =>
      let im := imageOf s.build (stageBase s) image.bytes
      if !(sameSection s image.bytes 1) || !(sameSection s image.bytes 5) then rigRefuse 7 s
      else if shapeUndefined s im then rigBad ⟨5, crewsEntry image.bytes, Config.freeNat 62 0⟩ s
      else updRig (fun r => { r with st := .staged, result := 0, badSection := 0, badOffset := 0, staged := some im }) s
def execStage (image : MemRead) (s : State) : Out := .next (stageOp image s)

/-- Crews whose members differ in a new image hold no model any more (R259). -/
def endResidencies (old new : Image) (s : State) : State :=
  each s.heat.residency.cells (fun s p =>
    if (old.crews.get p.1).members != (new.crews.get p.1).members then endModel p.1 s else s) s

/-- SWAP (R423, R424): the staged image is in force for all work that begins from now on. -/
def swapOp (s : State) : State :=
  if !(rigUp s) then s
  else match s.rig.st, s.rig.staged with
    | .staged, some im =>
      if swapLocked s then rigRefuse 9 s
      else endResidencies s.rig.now im (updRig (fun r => { r with
        st := .switched, result := 0, badSection := 0, badOffset := 0, old := some r.now, now := im, staged := none,
        epoch := (r.epoch + 1) % 2 ^ 32, switchedAt := s.now }) s)
    | _, _ => rigRefuse 10 s
def execSwap (s : State) : Out := .next (swapOp s)

/-- CANCEL (R423, R424). -/
def rigCancelOp (s : State) : State :=
  if !(rigUp s) then s
  else if s.rig.st == .staged then
    updRig (fun r => { r with st := .applied, result := 0, badSection := 0, badOffset := 0, staged := none }) s
  else rigRefuse 10 s
def execRigCancel (s : State) : Out := .next (rigCancelOp s)

/-- SWAP_OLD_DRAINED (R423): no old entry undone, no old heat in flight, no old copy in progress. -/
def swapOldDrainedOp (s : State) : State :=
  if s.rig.st == .switched && computeUp s && !(oldEntries s) && !(oldHeats s) && !(oldCopies s) then
    updRig (fun r => { r with st := .retiring }) s
  else s
def execSwapOldDrained (s : State) : Out := .next (swapOldDrainedOp s)

/-- SWAP_RETIRED (R423): the roots have drained and no Rowlock holds an old piece. -/
def swapRetiredOp (s : State) : State :=
  if s.rig.st == .retiring && computeUp s && !(oldTrees s) && !(oldPieces s) then
    updRig (fun r => { r with st := .applied, old := none, image := w64 r.now.base }) s
  else s
def execSwapRetired (s : State) : Out := .next (swapRetiredOp s)

/-- The conditions of R428 but the lock. -/
def blockQuiet (s : State) : Bool :=
  (s.mar.slots.cells.all fun p =>
    p.2.st == .free || (p.2.st == .stopped && inflight s p.2.ctxId == 0 && !(saveHolds s p.2.ctxId))) &&
  (s.heat.loops.cells.all fun g => !(loopLive g.2)) && (s.mar.rings.cells.all fun p => p.2.st != .seated) &&
  s.sld.held.isEmpty && s.judge.jobs.isEmpty && s.judge.waiting.isEmpty

/-- A change of the SLIDE section discards every registered map (R428). -/
def discardMaps (s : State) : State :=
  each (s.sld.ctxs.cells.filter fun p => p.2.registered) (fun s p => unregisterMap p.1 s) s

/-- APPLY_QUIESCED (R428, R424). -/
def applyQuiescedOp (image : MemRead) (s : State) : State :=
  if !(rigUp s) then s
  else if s.rig.st != .applied then rigRefuse 10 s
  else if s.rig.lock then rigRefuse 9 s
  else if !(blockQuiet s) then rigRefuse 8 s
  else
    let s1 := readImage (stageBase s) image (updMar (fun m => { m with seatEnable := 0 }) s)
    if image.err == .target then targetLost 0 islRig (stageBase s) 0xFFFF s1
    else match checkImage s.build true image with
      | some b => rigBad b s1
      | none =>
        let s2 := applyImage image.bytes (s.rig.epoch + 1) (endResidencies s.rig.now (imageOf s.build 0 image.bytes) s1)
        if sameSection s image.bytes 5 then s2 else discardMaps s2
def execApplyQuiesced (image : MemRead) (s : State) : Out := .next (applyQuiescedOp image s)

/-- LOCK (R429): a write of RIG_LOCK. lock is set by a 1; swap_ok is written unless the lock already holds. -/
def lockOp (data : W64) (s : State) : State :=
  if !s.ump.porN then s else
    updRig (fun r => { r with lock := r.lock || bit data 0, swapOk := if r.lock then r.swapOk else bit data 1 }) s
def execLock (data : W64) (s : State) : Out := .next (lockOp data s)

/-- SEAT_ENABLE (R419, R431): a write of MAR_SEAT_ENABLE. Bits go to 1 only with an image applied and self-test passed; a bit that goes
to 0 drains the seat's ring. -/
def seatEnableOp (data : W64) (s : State) : State :=
  if !s.ump.porN then s else
    let allowed := s.rig.st != .blank && s.rig.testPass
    let v := (if allowed then data else data &&& s.mar.seatEnable) &&& w64 (2 ^ s.build.seats - 1)
    let off := (List.range s.build.seats).filter fun i => bit s.mar.seatEnable i && !(bit v i)
    let s1 := updMar (fun m => { m with seatEnable := v }) s
    policy (each off (fun s i => match (s.seat i).ring with | some r => drainRing r s | none => s) s1)
def execSeatEnable (data : W64) (s : State) : Out := .next (seatEnableOp data s)

end Sys2Proof.Machine
end

