-- ==== Sys2Proof/Machine/Regs.lean ====
section
/-! DEFINITION. Writes and reads of the register window (R8 to R12, R21, R414, R429). -/
namespace Sys2Proof.Machine

/-! ### Fields that the lock holds, and driver rules (R429, R1) -/

/-- A register's new value with its rwl bits kept while the lock holds (R429). -/
def rwl (s : State) (old new mask : W64) : W64 := if s.rig.lock then (new &&& ~~~mask) ||| (old &&& mask) else new
/-- The mask of a field. -/
def fmask (lo len : Nat) : W64 := w64 ((2 ^ len - 1) <<< lo)

/-- The registers that the driver must not write while a busy bit reads 1 (R79, R97, R165, R274, R332): the write's behaviour is not
defined (R1). -/
def busyReg (s : State) (a : Nat) : Option String :=
  if abandoning (s.ring (ringSel s)) && [0x10100, 0x10108, 0x10110, 0x10118, 0x10120, 0x10128, 0x10150].contains a then some "MAR_RING"
  else if s.ports.hsigBusy && [0x30F00, 0x30F08, 0x30F10].contains a then some "STB_HSIG"
  else if (s.loop (selLoop s)).starting && [0x40008, 0x40010, 0x40018].contains a then some "HEA_LOOP"
  else if (s.map (sldSlot s)).busy != 0 && [0x60010, 0x60018, 0x60020, 0x60028].contains a then some "SLD_CTX"
  else none

/-- What an operation's reads find when a register write starts it: a free value. -/
def freeReadAt (a : Nat) (s : State) : MemRead := Config.freeRead a s.fresh

/-! ### Writes, unit by unit. `d` is the register's new value. -/

/-- MAR_CTX_CMD (R55). -/
def ctxCmd (op : Nat) (s : State) : State :=
  match op with
  | 1 => createOp s
  | 2 => stopOp s
  | 3 => resumeOp s
  | 4 => killOp s
  | 5 => teardownOp s
  | 6 => setWeightOp s
  | _ => s
/-- MAR_RING_CMD (R97). -/
def ringCmdWrite (d : W64) (s : State) : State :=
  match fld d 0 3 with
  | 1 => bindOp s
  | 2 => unbindOp s
  | 3 => restartOp (bit d 3) s
  | 4 => abandonOp s
  | 5 => pinOp (fld d 4 6) s
  | 6 => unpinOp s
  | 7 => updateOp s
  | _ => s
/-- MAR_SEAT_CFG: heat_seats above SEATS − 4 is stored as SEATS − 4 (R98). -/
def seatCfgWrite (d : W64) (s : State) : State :=
  let d1 := setFld (d &&& fmask 0 38) 32 6 (min (fld d 32 6) (s.build.seats - 4))
  updMar (fun m => { m with seatCfg := rwl s m.seatCfg d1 (fmask 32 6) }) s

def writeMar (off : Nat) (d : W64) (s : State) : State :=
  let r := ringSel s
  match off with
  | 0xF000 => updMar (fun m => { m with ctxSel := d &&& fmask 0 10 }) s
  | 0xF008 => updSlot (ctxSlot s) (fun x => { x with desc := d &&& fmask 0 55 }) s
  | 0xF010 => ctxCmd (fld d 0 3) s
  | 0x100 => updMar (fun m => { m with ringSel := d &&& fmask 0 12 }) s
  | 0x108 => updRing r (fun g => { g with regBase := d &&& ~~~(fmask 0 12) }) s
  | 0x110 => updRing r (fun g => { g with regCmpl := d &&& ~~~(fmask 0 4) }) s
  | 0x118 => updRing r (fun g => { g with regCfg := setFld d 41 1 0 }) s
  | 0x120 => updRing r (fun g => { g with regStartSeq := d }) s
  | 0x128 => ringCmdWrite d s
  | 0x150 => updRing r (fun g => { g with regEnq := d &&& (fmask 0 2 ||| fmask 16 16) }) s
  | 0x400 => seatCfgWrite d s
  | 0x408 => updMar (fun m => { m with enqCfg := d &&& fmask 0 6 }) s
  | 0x410 => seatEnableOp d s
  | _ => s

/-- STB_HSIG_VALUE (R79). -/
def hsigValueWrite (d : W64) (s : State) : State :=
  if bit d 63 then hostFailOp (BitVec.ofNat 7 (fld d 56 7)) (w16 (fld d 40 16)) s else hostSignalOp (d.setWidth 63) s

def writeStb (off : Nat) (d : W64) (s : State) : State :=
  match off with
  | 0x0 => updStb (fun b => { b with cfg := d &&& fmask 0 24 }) s
  | 0x100 => if !s.build.hasCrossing then s else updStb (fun b => { b with xngCfg := rwl s b.xngCfg d (fmask 0 16) }) s
  | 0xF00 => updPorts (fun p => { p with hsigAddr := d &&& fmask 0 56 }) s
  | 0xF08 => updPorts (fun p => { p with hsigCtx := d &&& fmask 0 16 }) s
  | 0xF10 => hsigValueWrite d s
  | _ => s

/-- HEA_LOOP_CMD (R250, R274). -/
def loopCmdWrite (d : W64) (s : State) : State :=
  let m := freeReadAt 0x40018 s
  match fld d 0 3 with
  | 1 => startLoop (bit d 3) m s.nextFree
  | 2 => stopLoopOp s
  | 3 => drainLoopOp s
  | 4 => reloadOp m s.nextFree
  | _ => s

def writeHea (off : Nat) (d : W64) (s : State) : State :=
  match off with
  | 0x0 => updHeat (fun h => { h with cfg := d &&& fmask 0 16 }) s
  | 0x8 => updHeat (fun h => { h with loopSel := d &&& fmask 0 4 }) s
  | 0x10 => updLoop (selLoop s) (fun g => { g with desc := d &&& fmask 6 50 }) s
  | 0x18 => loopCmdWrite d s
  | 0x30 => rqDoorbellOp (fld d 0 4) s
  | 0x38 => resultConsumedOp (fld d 0 4) (w32 (fld d 32 32)) s
  | 0x40 => rqRingRestartOp (w16 (fld d 0 16)) s
  | 0x48 => updHeat (fun h => { h with ctxSel := d &&& fmask 0 10 }) s
  | _ => s

def writeSld (off : Nat) (d : W64) (s : State) : State :=
  match off with
  | 0x8 => updSld (fun x => { x with htab := rwl s x.htab (d &&& fmask 16 40) (fmask 16 40) }) s
  | 0x10 => updSld (fun x => { x with sel := d &&& fmask 0 10 }) s
  | 0x18 => updMap (sldSlot s) (fun c => { c with map := d &&& fmask 6 50 }) s
  | 0x20 => (match fld d 0 2 with
    | 1 => mapRegisterOp (freeReadAt 0x60020 s) s.nextFree
    | 2 => unregisterOp s
    | _ => s)
  | 0x28 => updMap (sldSlot s) (fun c => { c with area := d &&& fmask 12 44 }) s
  | 0x40 => updSld (fun x => { x with stage := rwl s x.stage (d &&& fmask 16 40) (fmask 16 40) }) s
  | _ => s

/-- RCK_OBJ_CMD (R70). -/
def objCmdWrite (d : W64) (s : State) : State :=
  let h := w32 (fld d 0 32)
  match fld d 32 4 with
  | 1 => objectRegisterOp (bit d 36) (bit d 37) s
  | 2 => objCommand h (refAddOp none h 1 s) s
  | 3 => objCommand h (refSubOp none h 1 s) s
  | 4 => objCommand h (freeOp none h s) s
  | 5 => objCommand h (forceFreeOp h s) s
  | 6 => objCommand h (if objStale s h then .error eStaleHandle else .ok s) s
  | _ => objStatus 6 h s
/-- RCK_CRS_CMD (R156). -/
def crsCmdWrite (d : W64) (s : State) : State :=
  let h := w32 (fld d 0 32)
  let m := freeReadAt 0x70108 s
  match fld d 32 3 with
  | 1 => courseRecordOp h m s.nextFree
  | 2 => coursePatchOp h m s.nextFree
  | 3 => courseRetireOp h s
  | 4 => courseQueryOp h s
  | _ => crsStatus 6 h s
/-- Change the partition that RCK_PART_SEL names, when it is built (R331). -/
def updSelPart (f : Part → Part) (s : State) : State :=
  let p := fld s.mem.partSel 0 4
  if p < s.build.partitions then updMem (fun m => { m with parts := m.parts.upd p f }) s else s

def writeRck (off : Nat) (d : W64) (s : State) : State :=
  match off with
  | 0x0 => updRack (fun k => { k with objBase := rwl s k.objBase (d &&& fmask 12 44) (fmask 12 44) }) s
  | 0x10 => updRack (fun k => { k with arg0 := d &&& fmask 0 56 }) s
  | 0x18 => updRack (fun k => { k with arg1 := d }) s
  | 0x20 => updRack (fun k => { k with arg2 := d }) s
  | 0x28 => objCmdWrite d s
  | 0x100 => updRack (fun k => { k with crsArg := d &&& fmask 0 48 }) s
  | 0x108 => crsCmdWrite d s
  | 0x200 => updMem (fun m => { m with partSel := d &&& fmask 0 4 }) s
  | 0x208 => updSelPart (fun x => { x with
      heap := rwl s x.heap (d &&& (fmask 0 6 ||| fmask 12 44)) (fmask 0 6 ||| fmask 12 44) }) s
  | 0x218 => updSelPart (fun x => { x with reg := d &&& fmask 0 34 }) (refillPart (fld s.mem.partSel 0 4) s)
  | 0x228 => updMem (fun m => { m with poolSel := d &&& fmask 0 4 }) s
  | 0x230 => if bit d 60 then poolEnableOp d s else poolDisableOp d s
  | 0x240 => updMem (fun m => { m with tierBase := rwl s m.tierBase (d &&& fmask 12 44) (fmask 12 44) }) s
  | 0x248 => updMem (fun m => { m with tierSize := rwl s m.tierSize (d &&& fmask 12 33) (fmask 12 33) }) s
  | _ => match arr off 0x400 8 64 with
    | some c => updMem (fun m => { m with crewNear := m.crewNear.set c (d &&& fmask 0 16) }) s
    | none => s

/-- RIG_CMD (R430). -/
def rigCmdWrite (d : W64) (s : State) : State :=
  let m := freeReadAt 0x80010 s
  match fld d 0 3 with
  | 1 => loadOp m s.nextFree
  | 2 => stageOp m s.nextFree
  | 3 => swapOp s
  | 4 => rigCancelOp s
  | 5 => applyQuiescedOp m s.nextFree
  | _ => s

def writeRig (off : Nat) (d : W64) (s : State) : State :=
  match off with
  | 0x0 => updRig (fun r => { r with stage := d &&& fmask 12 44 }) s
  | 0x10 => rigCmdWrite d s
  | 0x30 => lockOp d s
  | _ => s

def writeTkp (off : Nat) (d : W64) (s : State) : State :=
  match off with
  | 0x8 => updTkp (fun t => { t with loadRefused := t.loadRefused && !(bit d 2) }) s
  | 0x10 => updTkp (fun t => { t with cfg := d &&& fmask 0 38 }) s
  | 0x18 => updTkp (fun t => { t with load := d }) s
  | _ => s

/-- Change the counter that ERG_CTR_SEL names. -/
def updSelCtr (f : Counter → Counter) (s : State) : State :=
  updErg (fun e => { e with counters := e.counters.upd (selCtr s) f }) s

def writeErg (off : Nat) (d : W64) (s : State) : State :=
  match off with
  | 0x0 => ergCfgWrite d s
  | 0x8 => if bit d 0 then freezeStartOp d s else freezeEndOp d s
  | 0x18 => updErg (fun e => { e with ctrSel := d &&& fmask 0 6 }) s
  | 0x20 => ctrCfgWrite d s
  | 0x28 => updSelCtr (fun c => { c with tag := d &&& fmask 0 48 }) s
  | 0x30 => ctrValueWrite d s
  | 0x40 => updSelCtr (fun c => { c with thr := d }) s
  | 0x48 => updSelCtr (fun c => { c with pub := d &&& fmask 3 53 }) s
  | _ => match arr off 0x100 8 4 with
    | some h => updErg (fun e => { e with hists := e.hists.upd h fun x => { x with cfg := d &&& fmask 0 32 } }) s
    | none => s

def writeWak (off : Nat) (d : W64) (s : State) : State :=
  let i := selStream s
  let idle (f : Stream → Stream) (s : State) : State := updStream i (fun st => if st.enabled then st else f st) s
  match off with
  | 0x0 => { s with wake := { s.wake with cfg := d &&& fmask 0 32 } }
  | 0x8 => { s with wake := { s.wake with sel := d &&& fmask 0 3 } }
  | 0x10 => idle (fun st => { st with ring := d &&& (fmask 0 6 ||| fmask 12 44) }) s
  | 0x18 => if bit d 0 then streamEnableOp d s else streamDisableOp d s
  | 0x20 => idle (fun st => { st with clusters := d &&& (fmask 0 9 ||| fmask 16 9) }) s
  | 0x28 => updStream i (fun st => { st with statusLine := d &&& fmask 6 50 }) s
  | 0x38 => streamConsumedOp d s
  | _ => s

def writeUmp (off : Nat) (d : W64) (s : State) : State :=
  match off with
  | 0x0 => updUmp (fun u => { u with cfg := d &&& fmask 0 15 }) s
  | 0x8 => updUmp (fun u => { u with wd := rwl s u.wd (d &&& fmask 0 24) (fmask 16 8) }) s
  | 0x10 => logFreeOp (w16 (fld d 0 16)) s
  | 0x28 => if bit d 0 then driverResetOp s else s
  | 0x40 => updUmp (fun u => { u with dumpBase := rwl s u.dumpBase (d &&& fmask 21 35) (fmask 21 35) }) s
  | 0x48 =>
    let s1 := updUmp (fun u => { u with dumpArmed := bit d 0 }) s
    if bit d 1 then dumpRequestOp s1 else s1
  | _ => s

def writeBhs (off : Nat) (d : W64) (s : State) : State :=
  let m := fmask 0 7 ||| fmask 12 44
  if off = 0 then updBhs (fun b => { b with cfg := rwl s b.cfg (d &&& m) m, degraded := false }) s else s

/-- The register at a byte offset of the window takes a value. -/
def writeReg (a : Nat) (d : W64) (s : State) : State :=
  let off := a % 0x10000
  match a / 0x10000 with
  | 1 => writeMar off d s
  | 2 => if off = 0 then { s with cox := { s.cox with cfg := d &&& fmask 0 16 } } else s
  | 3 => writeStb off d s
  | 4 => writeHea off d s
  | 6 => writeSld off d s
  | 7 => writeRck off d s
  | 8 => writeRig off d s
  | 9 => if off = 0 then (if bit d 0 then strokeEnableOp d s else strokeDisableOp d s) else s
  | 10 => writeTkp off d s
  | 11 => writeErg off d s
  | 12 => writeWak off d s
  | 13 => writeUmp off d s
  | 14 => writeBhs off d s
  | _ => s

/-! ### Widths (R9, R11) -/

/-- The registers that act on a 64-bit write only. -/
def wideOnly (a : Nat) : Bool := [0x70028, 0x70108, 0x30F10, 0x40038, 0xC0038].contains a
/-- The registers whose upper half starts nothing. -/
def lowerOnly (a : Nat) : Bool := [0x40030, 0xD0028, 0xD0048].contains a
/-- The bits that a write of the other half must not repeat: they are cleared by writing 1 (w1c). -/
def w1cBits (a : Nat) : W64 :=
  match a with
  | 0x40040 => fmask 0 16
  | 0xA0008 => 4
  | 0xB0000 => 0x10000000
  | 0xD0010 => fmask 0 16
  | _ => 0
/-- What the fields of a register hold, for the half that a 32-bit write does not reach. Registers that read zero during a compute
reset still hold their fields. -/
def storedReg (s : State) (a : Nat) : W64 :=
  match regAt (updUmp (fun u => { u with rst := .run }) s) a with
  | some (_, v) => w64 v &&& ~~~(w1cBits a)
  | none => 0
/-- A 32-bit value put into a half of a word. -/
def putHalf (old : W64) (hi : Bool) (d : Nat) : W64 := setFld old (if hi then 32 else 0) 32 d

/-- A doorbell page of a built ring (R9, R93). -/
def writeDoorbell (r off : Nat) (d : W64) (s : State) : State :=
  match off with
  | 0x0 => doorbellOp r s
  | 0x4 => doorbellOp r s
  | 0x10 => invalidateOp r (w32 (fld d 0 32)) s
  | 0x20 => dbReleaseOp r s
  | _ => s

/-- A 32-bit write at an aligned address. -/
def write32 (a : Nat) (d : Nat) (s : State) : State :=
  match regAt s a with
  | some (false, _) => writeReg a (w64 d) s
  | some (true, _) => if wideOnly a then s else writeReg a (putHalf (storedReg s a) false d) s
  | none =>
    match (if a % 8 = 4 then regAt s (a - 4) else none) with
    | some (true, _) => if wideOnly (a - 4) || lowerOnly (a - 4) then s else writeReg (a - 4) (putHalf (storedReg s (a - 4)) true d) s
    | _ => s
/-- A 64-bit write at an aligned address. -/
def write64 (a : Nat) (d : W64) (s : State) : State :=
  match regAt s a with
  | some (true, _) => writeReg a d s
  | _ => write32 (a + 4) (fld d 32 32) (write32 a (fld d 0 32) s)

/-- The aligned address of an access (R21). -/
def winAddr (wide : Bool) (addr : BitVec 25) : Nat := if wide then addr.toNat / 8 * 8 else addr.toNat / 4 * 4
/-- The register that an address reaches. -/
def regOfAddr (s : State) (a : Nat) : Nat := if a % 8 = 4 && (regAt s a).isNone then a - 4 else a

/-- A write of the window: doorbell pages, or a register. -/
def winWrite (wide : Bool) (a : Nat) (d : W64) (s : State) : State :=
  if !s.ump.porN then s
  else if 0x1000000 ≤ a then
    (if (a - 0x1000000) / 0x1000 < s.build.rings then writeDoorbell ((a - 0x1000000) / 0x1000) (a % 0x1000) d s else s)
  else if wide then write64 a d s else write32 a (fld d 0 32) s

/-- REGISTER_WRITE (R8, R9, R11, R12, R21): a host or debug write. A write that starts an operation acts as the operation's row. -/
def execRegisterWrite (wide : Bool) (addr : BitVec 25) (data : W64) (s : State) : Out :=
  let a := winAddr wide addr
  match busyReg s (regOfAddr s a) with
  | some name => .fault (.portProtocol name)
  | none => .next (winWrite wide a data s)

/-! ### Reads -/

/-- A stream, a Rowlock, a counter or a histogram whose count a 64-bit read clears. -/
def clearErg (off : Nat) (s : State) : State :=
  if inReset s then s
  else if off = 0x38 then updSelCtr (fun c => { c with min := 0, max := 0, fresh := true }) s
  else match arr off 0x200 8 128 with
    | some k => updErg (fun e => { e with hists := e.hists.upd (k / 32) fun h => { h with bins := h.bins.set (k % 32) 0 } }) s
    | none => s
def clearStb (off : Nat) (s : State) : State :=
  match off with
  | 0x10 => updStb (fun b => { b with armRefused := 0 }) s
  | 0x18 => updStb (fun b => { b with noticesLost := 0 }) s
  | 0x20 => updStb (fun b => { b with rereads := 0 }) s
  | 0x110 => updStb (fun b => { b with sent := 0 }) s
  | 0x118 => updStb (fun b => { b with received := 0 }) s
  | 0x120 => updStb (fun b => { b with resent := 0 }) s
  | 0x128 => updStb (fun b => { b with rejected := 0 }) s
  | 0xF28 => updPorts (fun p => { p with staleSignals := 0 }) s
  | 0xF30 => updPorts (fun p => { p with failedSignals := 0 }) s
  | _ => s
def clearJdg (off : Nat) (s : State) : State :=
  let upd (f : Judge → Judge) : State := { s with judge := f s.judge }
  match off with
  | 0x8 => upd fun j => { j with nJobs := 0 }
  | 0x10 => upd fun j => { j with nRequests := 0 }
  | 0x18 => upd fun j => { j with nRows := 0 }
  | 0x20 => upd fun j => { j with nElements := 0 }
  | 0x28 => upd fun j => { j with nErrors := 0 }
  | 0x30 => upd fun j => { j with nNonfinite := 0 }
  | 0x38 => upd fun j => { j with nCut := 0 }
  | _ => s
def clearStk (off : Nat) (s : State) : State :=
  match off with
  | 0x20 => updStk (fun k => { k with delayed := 0 }) s
  | 0x28 => updStk (fun k => { k with delayTu := 0 }) s
  | 0x30 => updStk (fun k => { k with fillCount := 0 }) s
  | 0x38 => updStk (fun k => { k with downOver := 0 }) s
  | 0x40 => updStk (fun k => { k with ocEvents := 0 }) s
  | 0x48 => updStk (fun k => { k with thEvents := 0 }) s
  | 0x50 => updStk (fun k => { k with late := 0 }) s
  | _ => s
def clearBhs (off : Nat) (s : State) : State :=
  match off with
  | 0x10 => updBhs (fun b => { b with replayed := 0 }) s
  | 0x18 => updBhs (fun b => { b with rerunCount := 0 }) s
  | 0x20 => updBhs (fun b => { b with failed := 0 }) s
  | _ => s
/-- A 64-bit read clears a register of access rc (R9); one that reads zero during a compute reset keeps its count then. -/
def clearReg (a : Nat) (s : State) : State :=
  let off := a % 0x10000
  if 0x100000 ≤ a then
    let c := (a - 0x100000) / 0x4000
    (match (a - 0x100000) % 0x4000 with
     | 0x10 => if inReset s then s else updRow c (fun r => { r with dropped := 0 }) s
     | 0x18 => if inReset s then s else updRow c (fun r => { r with alignLate := 0 }) s
     | _ => s)
  else match a / 0x10000 with
    | 1 => if off = 0x148 then updMar (fun m => { m with dbStray := 0 }) s else s
    | 2 => (match arr off 0x400 8 4 with
      | some t => if inReset s then s else updTree t (fun x => { x with refusedTu := 0 }) s
      | none => s)
    | 3 => if inReset s then s else clearStb off s
    | 5 => if inReset s then s else clearJdg off s
    | 6 => if off = 0x48 && !(inReset s) then updSld (fun x => { x with copyBytes := 0 }) s else s
    | 9 => if inReset s then s else clearStk off s
    | 11 => clearErg off s
    | 12 => if off = 0x40 && !(inReset s) then updStream (selStream s) (fun st => { st with lost := 0 }) s else s
    | 13 => if off = 0x18 then updUmp (fun u => { u with logLost := 0 }) s else s
    | 14 => clearBhs off s
    | _ => s

/-- READ_CLEAR (R9, R21, R381): a host or debug read of any register; its value is the answer, a 64-bit read clears a register of
access rc, and a read of UMP_LOG_STATUS answers its interrupt. -/
def readOp (wide : Bool) (a : Nat) (s : State) : State :=
  if !s.ump.porN then updPorts (fun p => { p with hostRead := 0 }) s else
  let v := if wide then read64 s a else read32 s a
  let s1 := if wide && (regAt s a).isSome && a < 0x1000000 then clearReg a s else s
  let s2 := if a = 0xD0010 then updUmp (fun u => { u with irqWaiting := false }) s1 else s1
  updPorts (fun p => { p with hostRead := w64 v }) s2
def execReadClear (wide : Bool) (addr : BitVec 25) (s : State) : Out := .next (readOp wide (winAddr wide addr) s)

end Sys2Proof.Machine
end

