-- ==== Sys2Proof/Machine/Responses.lean ====
section
/-! DEFINITION. The responses of the memory ports (R19 to R27): what each one continues in the unit that asked (R83, R386). -/
namespace Sys2Proof.Machine

/-! ### Errors of an entry's own requests (R83) -/

/-- A request of an owner has met an error: class 1 with the response's code, unless its work has failed already. -/
def requestError (o : Owner) (seat : Nat) (pos : WordPos) (addr isl : Nat) (err : RespErr) (s : State) : State :=
  match s.work? o with
  | none => s
  | some w =>
    if w.failed.isSome then s else
    ownerError o 1 { LogRec.zero with
      code := respCode err, island := isl, seat := seat, ctx := w.ctx, tag := pos.tag, pc := pos.pc, addr := addr } s

/-- The program an owner still runs on a seat is changed. -/
def updOwn (o : Owner) (seat : Nat) (f : Prog → Prog) (s : State) : State :=
  updProg seat (fun p => if p.owner == o then f p else p) s

/-! ### Narrow path and host memory -/

/-- An entry's read has returned (R88, R94): it waits for ENTRY_FETCHED. -/
def entryRead (r : Nat) (c : Count) (second : Bool) (data : List W64) (err : RespErr) (s : State) : State :=
  if (s.ring r).reads.contains c then
    updRing r (fun g => { g with reads := g.reads.filter (· != c), raws := g.raws ++ [⟨c, err, data, second, s.now⟩] }) s
  else s

/-- The first line of a cached entry's program has come (R123). -/
def firstLineRead (r : Nat) (c : Count) (addr : Nat) (data : List W64) (err : RespErr) (s : State) : State :=
  let want (x : Cached) : Bool := x.count == c && x.line.isNone && enProgAddr x.words / 64 * 64 == addr
  updRing r (fun g => { g with cache := g.cache.map fun x => if want x then { x with line := some (err, data) } else x }) s

/-- A program line has come into a core's buffer; a core that waited for it goes on (R123). -/
def progLineRead (k : Nat) (ctx : CtxId) (line : Nat) (data : List W64) (err : RespErr) (s : State) : State :=
  let s1 := pushLine k ⟨ctx, line, err, data⟩ s
  if (s1.core k).st == .stall && (s1.core k).stall == .fetch then
    match running s1 k with
    | some (_, p) => if (wordAtPc s1 k p).isSome then runCore k s1 else s1
    | none => s1
  else s1

/-- LOADC's response (R122, R126): the bytes read, zero-extended, and flag z when no later word has set it. -/
def loadcDone (q : MemReq) (o : Owner) (seat rd size : Nat) (pos : WordPos) (data : List W64) (err : RespErr) (s : State) : State :=
  let s1 := lessReqs o s
  if err == .ok then
    let v := w64 (leAt (wordsToBytes data) (q.addr % 64) size)
    seatEvent seat o (updOwn o seat (fun p => { p with
      regs := p.regs.set rd v
      z := if p.zown == some (0, q.tag) then zOf v else p.z
      zown := if p.zown == some (0, q.tag) then none else p.zown }) s1)
  else seatEvent seat o (requestError o seat pos q.addr q.isl err s1)

/-- STOREC's response (R126). -/
def storecDone (q : MemReq) (o : Owner) (seat : Nat) (pos : WordPos) (err : RespErr) (s : State) : State :=
  let s1 := lessReqs o s
  seatEvent seat o (if err == .ok then s1 else requestError o seat pos q.addr q.isl err s1)

/-- The header of a parameter table has come (R160 steps 5 to 7). -/
def callHdrRead (k : Nat) (o : Owner) (pin : Pin) (addr : Nat) (data : List W64) (err : RespErr) (s : State) : State :=
  let s1 := lessReqs o s
  match heldWord s1 k o with
  | none => settleOwner o s1
  | some (seat, p, w) =>
    let s2 := runCore k s1
    if err != .ok then wordFailAt k seat p 1 (respCode err) addr s2
    else if leAt (wordsToBytes data) (addr % 64) 2 != pin.layout then wordFail k seat p 1 eCourseParams s2
    else enterCourse seat pin (operandV p.regs w) s2

/-- The header of the parameter table of a course that Heat starts has come (R163): its program goes on from its first word. -/
def heatHdrRead (k : Nat) (o : Owner) (layout addr : Nat) (data : List W64) (err : RespErr) (s : State) : State :=
  let s1 := lessReqs o s
  match (if (s1.core k).st == .stall && (s1.core k).stall == .unit then running s1 k else none) with
  | none => settleOwner o s1
  | some (seat, p) =>
    if p.owner != o then settleOwner o s1 else
    let s2 := runCore k s1
    if err != .ok then wordFailAt k seat p 1 (respCode err) addr s2
    else if leAt (wordsToBytes data) (addr % 64) 2 != layout then wordFail k seat p 1 eCourseParams s2
    else prefetch k seat p s2

/-- A write of a publication is answered: with a device-memory ring or record, the next one goes out (R27, R106). -/
def pubGoesOn (r : Nat) (s : State) : State :=
  settle r (pumpPub r (s.ring r).doneQueue (updRing r (fun g => { g with pubBusy := false }) s))

/-- The write of a completion record has met an error: reason 10 (R111, R112). -/
def recordError (r addr : Nat) (s : State) : State :=
  let g := s.ring r
  if g.st == .unbound || (g.st == .stopped && g.reason == 10) then s else
    let s1 := logRec (.ring r) { LogRec.zero with
      cls := 2, code := eCompletionWrite, island := islMar, seat := g.seat.getD 0, ctx := g.ctx, ring := r, count := g.head, addr := addr } s
    if g.st == .stopped || g.mode != .normal then s1 else stopRing r 10 eCompletionWrite g.head [] s1

/-- A result write of a KVGROW or KVTRIM is answered (R311). -/
def kvResultDone (id : Nat) (err : RespErr) (s : State) : State :=
  match s.mem.kvJobs.find? fun j => j.id == id with
  | none => s
  | some j => kvFinish { j with fail := if err == .ok || j.fail.isSome then j.fail else some (respCode err) } s
/-- The page-table writes of a KVGROW or KVTRIM are answered (R311, R386). -/
def kvTableDone (id : Nat) (err : RespErr) (addr : Nat) (s : State) : State :=
  if err != .ok then blockAccess addr s else
  match s.mem.kvJobs.find? fun j => j.id == id with
  | none => s
  | some j => kvResults j s

/-- Every write of a plan is answered. -/
def planDone (p : Plan) (s : State) : State :=
  match p.who with
  | .none => s
  | .kvTable j => kvTableDone j p.err p.errAddr s
  | .kvResult j => kvResultDone j p.err s
  | .table => tableWritten p.err p.errAddr s
  | .htab slot => handlesDone slot p.err s
  | .piece id => pieceWritten id p.err p.errAddr s
  | .saveHead j => saveHeadDone j p.err p.errAddr s
  | .saveBlock j c => saveBlockDone j c p.err p.errAddr s
  | .saveFinal j => saveFinalDone j p.err p.errAddr s
  | .heatParams l k => paramsWritten l k p.err s
  | .heatRequests l k => requestsWritten l k p.err s
  | .heatCommit l k => commitWritten l k p.err p.errAddr s
  | .heatIntent l => intentWritten l p.id p.err p.errAddr s
  | .journal l k kind => journalDone l k kind p.err p.errAddr s
  | .judgeResult j => judgeResultDone j p.err p.errAddr s
  | .move _ => tableWritten p.err p.errAddr s
  | .dump phase => dumpWritten phase p.err p.errAddr s

/-- A write of a plan is answered. -/
def planWrite (id : Nat) (err : RespErr) (addr : Nat) (s : State) : State :=
  match planAnswer id err addr s with
  | (s1, some p) => planDone p s1
  | (s1, none) => s1

/-- A read of a set is answered. -/
def fetchRead (id addr : Nat) (data : List W64) (err : RespErr) (s : State) : State :=
  match fetchAnswer id addr data err s with
  | (s1, none) => s1
  | (s1, some f) => match f.who with
    | .judge j => judgeRead j f s1
    | .restore j c => restoreRead j c f s1
    | .restoreHead j => restoreHeadRead j f s1
    | .request l r => requestRead l r f s1
    | .recover l space => recoverRead l space f s1

/-- What a narrow-path or host-memory response continues. -/
def memDone (q : MemReq) (data : List W64) (err : RespErr) (s : State) : State :=
  match q.why with
  | .entry r c second => entryRead r c second data err s
  | .firstLine r c => firstLineRead r c q.addr data err s
  | .progLine k ctx line => progLineRead k ctx line data err s
  | .loadc o seat rd size pos => loadcDone q o seat rd size pos data err s
  | .storec o seat pos => storecDone q o seat pos err s
  | .callHdr k o pin => callHdrRead k o pin q.addr data err s
  | .heatHdr k o layout => heatHdrRead k o layout q.addr data err s
  | .clearOwn r => pubGoesOn r s
  | .record r => pubGoesOn r (if err == .ok then s else recordError r q.addr s)
  | .enqImage k o => if computeUp s then enqImageDone k o data err s else s
  | .enqWrite k o r c => enqWriteDone k o r c err s
  | .plan id => planWrite id err q.addr s
  | .fetch id addr => fetchRead id addr data err s
  | .ergPub i => if err == .ok then s else pubError i q.addr s
  | .statusLine i => if err == .ok then s else traceError i q.addr [] s
  | .objEntry => if err == .ok then s else blockAccess q.addr s

/-- A plan that writes the dump. -/
def dumpPlan (s : State) (why : MemWhy) : Bool :=
  match why with
  | .plan id => s.ports.plans.any fun p => p.id == id && (match p.who with | .dump _ => true | _ => false)
  | _ => false

/-- A response on the narrow or host-memory port, whose request is off the port: a target response stops the chip (R386), one to
a request from before a compute reset is discarded (R46), a stopped chip goes on with its dump only (R408), and poison marks what
it falls in (R69). -/
def memAnswer (port : Nat) (q : MemReq) (data : List W64) (err : RespErr) (s : State) : State :=
  if s.ump.rst == .dead then (if dumpPlan s q.why && !q.stale then memDone q data err s else s)
  else if err == .target then targetLost port q.isl q.addr q.ctx s
  else if q.stale then s
  else pumpRecovery (memDone q data err (if err == .poison && port == 0 then poisonMark q.addr s else s))

/-- NM_RESPONSE (R25). -/
def execNmResponse (tag : Nat) (data : List W64) (err : RespErr) (s : State) : Out :=
  match s.ports.nm.find? fun q => q.tag == tag && q.tag < portTags with
  | none => .fault (.portProtocol "nm_rsp")
  | some q =>
    let s1 := rspEv q.isl 0 tag err (updPorts (fun p => { p with nm := dropMem s.now tag p.nm }) s)
    let s2 := if portTags ≤ s.ports.nm.length then recheckCores s1 else s1
    .next (memAnswer 0 q data err s2)

/-- HM_RESPONSE (R22). -/
def execHmResponse (tag : Nat) (data : List W64) (err : RespErr) (s : State) : Out :=
  match s.ports.hm.find? fun q => q.tag == tag && q.tag < portTags with
  | none => .fault (.portProtocol "hm_rsp")
  | some q =>
    .next (memAnswer 2 q data err (rspEv q.isl 2 tag err (updPorts (fun p => { p with hm := dropMem s.now tag p.hm }) s)))

/-! ### The atomic port -/

/-- ATOMC's response (R122, R126). -/
def atomcDone (q : AtReq) (o : Owner) (seat rd : Nat) (cas : Option W64) (pos : WordPos) (old : W64) (err : RespErr) (s : State) : State :=
  let s1 := lessReqs o s
  if err == .ok then
    seatEvent seat o (updOwn o seat (fun p => { p with
      regs := p.regs.set rd old
      z := if p.zown == some (1, q.tag) then zAtomc cas old else p.z
      zown := if p.zown == some (1, q.tag) then none else p.zown }) s1)
  else seatEvent seat o (requestError o seat pos q.addr q.isl err s1)

/-- The response to a program's signal (R74, R132). -/
def signalDone (q : AtReq) (o : Owner) (seat : Nat) (value : W64) (pos : WordPos) (old : W64) (err : RespErr) (s : State) : State :=
  let s1 := lessReqs o s
  seatEvent seat o (if err == .ok then noteSignal seat q.ctx q.addr value old s1 else requestError o seat pos q.addr q.isl err s1)

/-- The response to a host signal (R74, R79). -/
def hostSignalDone (q : AtReq) (value old : W64) (err : RespErr) (s : State) : State :=
  if err == .ok then
    noteSignal 63 q.ctx q.addr value old (updPorts (fun p => { p with
      hsigBusy := false, hsigOld := old, hsigFailed := bit old 63, hsigStale := !(bit old 63) && value.toNat ≤ old.toNat }) s)
  else updPorts (fun p => { p with hsigBusy := false, hsigErr := err }) s

/-- A completion fence could not be written: the error is logged, and the entry counts in err_count (R107). -/
def fenceLost (o : Owner) (q : AtReq) (err : RespErr) (s : State) : State :=
  updWork o (fun w => { w with fenceErr := true, fence := .done })
    (logRec .nothing (ownerRec o s { LogRec.zero with cls := 1, code := respCode err, island := q.isl, ctx := q.ctx, addr := q.addr }) s)

/-- The fence step of R105 has ended; a failure that came meanwhile, or a higher one, has still to be written (R77, R80). -/
def fenceWritten (o : Owner) (s : State) : State :=
  updWork o (fun w => { w with fence := if w.failed == w.fenceFor then .done else .notDue }) s

/-- The response to the MAXU of a completion fence (R105). -/
def fenceDone (q : AtReq) (o : Owner) (value old : W64) (err : RespErr) (s : State) : State :=
  settleOwner o (if err == .ok then fenceWritten o (noteSignal 63 q.ctx q.addr value old s) else fenceLost o q err s)

/-- A procedure of R77 has returned on the word it last found, or met an error. -/
def failReturned (q : AtReq) (who : FfWho) (old : W64) (err : RespErr) (s : State) : State :=
  match who with
  | .work o => settleOwner o (if err == .ok then fenceWritten o s else fenceLost o q err s)
  | .posted r c =>
    if err == .ok then s
    else logRec .nothing { LogRec.zero with
      cls := 1, code := respCode err, island := q.isl, ctx := q.ctx, ring := r, count := c, addr := q.addr } s
  | .host =>
    if err == .ok then updPorts (fun p => { p with hsigBusy := false, hsigOld := old, hsigFailed := bit old 63 }) s
    else updPorts (fun p => { p with hsigBusy := false, hsigErr := err }) s
  | .lost => s

/-- The response to a step of R77. -/
def failDone (q : AtReq) (who : FfWho) (cls : Nat) (code : BitVec 16) (step : FfStep) (old : W64) (err : RespErr) (s : State) : State :=
  if err != .ok then failReturned q who old err s else
  match failFenceStep q who cls code step old s with
  | (s1, true) => failReturned q who old .ok s1
  | (s1, false) => s1

/-- What an atomic response continues. -/
def atDone (q : AtReq) (old : W64) (err : RespErr) (s : State) : State :=
  match q.why with
  | .atomc o seat rd cas pos => atomcDone q o seat rd cas pos old err s
  | .waitRead w gen verify => waitReadDone w gen verify err old s
  | .watchRead e addr => watchReadDone e addr q.ctx err old s
  | .signal o seat value pos => signalDone q o seat value pos old err s
  | .hostSignal value => hostSignalDone q value old err s
  | .fence o value => fenceDone q o value old err s
  | .failFence who cls code step => failDone q who cls code step old err s
  | .remote src incarn seq ctx value => remoteDone src incarn seq ctx value q.addr err old s

/-- A response on the atomic port whose request is off the port, as `memAnswer`; a stopped chip goes on failing fences (R408). -/
def atAnswer (q : AtReq) (old : W64) (err : RespErr) (s : State) : State :=
  if s.ump.rst == .dead then
    (match q.why with
     | .failFence .lost cls code step => failDone q .lost cls code step old err s
     | _ => s)
  else if err == .target then targetLost 1 q.isl q.addr q.ctx s
  else if q.stale then s
  else pumpRecovery (atDone q old err (if err == .poison then poisonMark q.addr s else s))

/-- AT_RESPONSE (R26). -/
def execAtResponse (tag : Nat) (old : W64) (err : RespErr) (s : State) : Out :=
  match s.ports.at_.find? fun q => q.tag == tag && q.tag < portTags with
  | none => .fault (.portProtocol "at_rsp")
  | some q =>
    let s1 := rspEv q.isl 1 tag err (updPorts (fun p => { p with at_ := dropAt s.now tag p.at_ }) s)
    let s2 := if portTags ≤ s.ports.at_.length then recheckCores s1 else s1
    .next (atAnswer q old err s2)

/-! ### The wide read port -/

/-- A wide request after one beat: its bytes, and its first error. -/
def wideBeat (data : List Byte) (err : RespErr) (q : WdReq) : WdReq :=
  { q with got := q.got ++ data, err := if q.err == .ok then err else q.err }

/-- WD_RESPONSE (R19): a beat of a wide read; the last one ends it. -/
def execWdResponse (tag : Nat) (data : List Byte) (last : Bool) (err : RespErr) (s : State) : Out :=
  match s.ports.wd.find? fun q => q.tag == tag with
  | none => .fault (.portProtocol "wd_rsp")
  | some q0 =>
    let q := wideBeat data err q0
    let s1 := rspEv islJdl 3 tag err (updPorts (fun p => { p with
      wd := if last then p.wd.filter (fun x => x.tag != tag) else p.wd.map fun x => if x.tag == tag then q else x }) s)
    if s.ump.rst == .dead then .next s1
    else if err == .target then .next (targetLost 3 islJdl q.addr q.ctx s1)
    else if q.stale || !last then .next s1
    else .next (pumpRecovery (judgeWide q (if q.err == .poison then poisonMark q.addr s1 else s1)))

end Sys2Proof.Machine
end

