-- ==== Sys2Proof/Machine/Dispatch.lean ====
section
/-! DEFINITION. The meaning of every command: one arm for each constructor of Instr, in the table's order. -/
namespace Sys2Proof.Machine

/-- One command on the state: its effect on everything but the queue. -/
def exec (i : Instr) (s : State) : Host.Outcome State Fault Refusal :=
  match i with
  | .porNAssert => Sys2Proof.Machine.execPorNAssert s
  | .porNRelease => Sys2Proof.Machine.execPorNRelease s
  | .selftestDone failing => Sys2Proof.Machine.execSelftestDone failing s
  | .registerWrite wide addr data => Sys2Proof.Machine.execRegisterWrite wide addr data s
  | .readClear wide addr => Sys2Proof.Machine.execReadClear wide addr s
  | .create => Sys2Proof.Machine.execCreate s
  | .stop => Sys2Proof.Machine.execStop s
  | .resume => Sys2Proof.Machine.execResume s
  | .kill => Sys2Proof.Machine.execKill s
  | .teardown => Sys2Proof.Machine.execTeardown s
  | .setWeight => Sys2Proof.Machine.execSetWeight s
  | .contextFreed slot => Sys2Proof.Machine.execContextFreed slot s
  | .objectRegister shared golden => Sys2Proof.Machine.execObjectRegister shared golden s
  | .refAdd handle => Sys2Proof.Machine.execRefAdd handle s
  | .refSub handle => Sys2Proof.Machine.execRefSub handle s
  | .objectFree handle => Sys2Proof.Machine.execObjectFree handle s
  | .forceFree handle => Sys2Proof.Machine.execForceFree handle s
  | .objectQuery handle => Sys2Proof.Machine.execObjectQuery handle s
  | .hostSignal value => Sys2Proof.Machine.execHostSignal value s
  | .hostFail cls code => Sys2Proof.Machine.execHostFail cls code s
  | .doorbell ring => Sys2Proof.Machine.execDoorbell ring s
  | .doorbellStorm ring => Sys2Proof.Machine.execDoorbellStorm ring s
  | .stormLook ring => Sys2Proof.Machine.execStormLook ring s
  | .stormEnd ring => Sys2Proof.Machine.execStormEnd ring s
  | .invalidate ring since => Sys2Proof.Machine.execInvalidate ring since s
  | .dbRelease ring => Sys2Proof.Machine.execDbRelease ring s
  | .entryFetched ring => Sys2Proof.Machine.execEntryFetched ring s
  | .entryReread ring => Sys2Proof.Machine.execEntryReread ring s
  | .bind => Sys2Proof.Machine.execBind s
  | .unbind => Sys2Proof.Machine.execUnbind s
  | .restart skip => Sys2Proof.Machine.execRestart skip s
  | .abandon => Sys2Proof.Machine.execAbandon s
  | .pin seat => Sys2Proof.Machine.execPin seat s
  | .unpin => Sys2Proof.Machine.execUnpin s
  | .update => Sys2Proof.Machine.execUpdate s
  | .seatPolicy => Sys2Proof.Machine.execSeatPolicy s
  | .irqHoldoffEnd ring => Sys2Proof.Machine.execIrqHoldoffEnd ring s
  | .entryTimeout ring count posted => Sys2Proof.Machine.execEntryTimeout ring count posted s
  | .coreTakeSeat core => Sys2Proof.Machine.execCoreTakeSeat core s
  | .sliceYield core => Sys2Proof.Machine.execSliceYield core s
  | .seatResume seat => Sys2Proof.Machine.execSeatResume seat s
  | .wNop core => Sys2Proof.Machine.execWNop core s
  | .wEnd core => Sys2Proof.Machine.execWEnd core s
  | .wJump core => Sys2Proof.Machine.execWJump core s
  | .wBranch core => Sys2Proof.Machine.execWBranch core s
  | .wLoop core => Sys2Proof.Machine.execWLoop core s
  | .wCallc core => Sys2Proof.Machine.execWCallc core s
  | .wRetc core => Sys2Proof.Machine.execWRetc core s
  | .wSetc core => Sys2Proof.Machine.execWSetc core s
  | .wAddc core => Sys2Proof.Machine.execWAddc core s
  | .wLoadc core => Sys2Proof.Machine.execWLoadc core s
  | .wStorec core => Sys2Proof.Machine.execWStorec core s
  | .wAtomc core => Sys2Proof.Machine.execWAtomc core s
  | .wWaitf core => Sys2Proof.Machine.execWWaitf core s
  | .wSignalf core => Sys2Proof.Machine.execWSignalf core s
  | .wSignalx core => Sys2Proof.Machine.execWSignalx core s
  | .wWaitt core => Sys2Proof.Machine.execWWaitt core s
  | .waittRelease seat => Sys2Proof.Machine.execWaittRelease seat s
  | .waitTimeout seat => Sys2Proof.Machine.execWaitTimeout seat s
  | .wLaunch core => Sys2Proof.Machine.execWLaunch core s
  | .wCrewlaunch core => Sys2Proof.Machine.execWCrewlaunch core s
  | .treeAccept core => Sys2Proof.Machine.execTreeAccept core s
  | .wBarrier core => Sys2Proof.Machine.execWBarrier core s
  | .wSavectx core => Sys2Proof.Machine.execWSavectx core s
  | .wLoadctx core header => Sys2Proof.Machine.execWLoadctx core header s
  | .wAlloc core => Sys2Proof.Machine.execWAlloc core s
  | .wFree core => Sys2Proof.Machine.execWFree core s
  | .wRefadd core => Sys2Proof.Machine.execWRefadd core s
  | .wRefsub core => Sys2Proof.Machine.execWRefsub core s
  | .wKvgrow core list => Sys2Proof.Machine.execWKvgrow core list s
  | .wKvtrim core list => Sys2Proof.Machine.execWKvtrim core list s
  | .wJudge core => Sys2Proof.Machine.execWJudge core s
  | .wEnqueue core => Sys2Proof.Machine.execWEnqueue core s
  | .wMark core => Sys2Proof.Machine.execWMark core s
  | .wHeatend core => Sys2Proof.Machine.execWHeatend core s
  | .courseRecord course body => Sys2Proof.Machine.execCourseRecord course body s
  | .coursePatch course body => Sys2Proof.Machine.execCoursePatch course body s
  | .courseRetire course => Sys2Proof.Machine.execCourseRetire course s
  | .courseQuery course => Sys2Proof.Machine.execCourseQuery course s
  | .piece tree cluster => Sys2Proof.Machine.execPiece tree cluster s
  | .crewPiece tree cluster => Sys2Proof.Machine.execCrewPiece tree cluster s
  | .cancel tree cluster => Sys2Proof.Machine.execCancel tree cluster s
  | .hold tree cluster => Sys2Proof.Machine.execHold tree cluster s
  | .release tree cluster => Sys2Proof.Machine.execRelease tree cluster s
  | .cancelSend => Sys2Proof.Machine.execCancelSend s
  | .chunkRequest cluster engine => Sys2Proof.Machine.execChunkRequest cluster engine s
  | .rpResponse cluster tag data last err => Sys2Proof.Machine.execRpResponse cluster tag data last err s
  | .present cluster engine => Sys2Proof.Machine.execPresent cluster engine s
  | .catchCmd cluster engine => Sys2Proof.Machine.execCatchCmd cluster engine s
  | .finish cluster engine err => Sys2Proof.Machine.execFinish cluster engine err s
  | .engineErrorReport cluster engine cls code info => Sys2Proof.Machine.execEngineErrorReport cluster engine cls code info s
  | .pieceReport cluster => Sys2Proof.Machine.execPieceReport cluster s
  | .activeYield cluster engine => Sys2Proof.Machine.execActiveYield cluster engine s
  | .preAckRise cluster engine => Sys2Proof.Machine.execPreAckRise cluster engine s
  | .preAckFall cluster engine => Sys2Proof.Machine.execPreAckFall cluster engine s
  | .holdComplete cluster slot => Sys2Proof.Machine.execHoldComplete cluster slot s
  | .alignedStart cluster engine => Sys2Proof.Machine.execAlignedStart cluster engine s
  | .staggerStart cluster engine => Sys2Proof.Machine.execStaggerStart cluster engine s
  | .nmResponse tag data err => Sys2Proof.Machine.execNmResponse tag data err s
  | .atResponse tag old err => Sys2Proof.Machine.execAtResponse tag old err s
  | .hmResponse tag data err => Sys2Proof.Machine.execHmResponse tag data err s
  | .mwResponse idx ok => Sys2Proof.Machine.execMwResponse idx ok s
  | .notice idx => Sys2Proof.Machine.execNotice idx s
  | .noticeLost => Sys2Proof.Machine.execNoticeLost s
  | .wdResponse tag data last err => Sys2Proof.Machine.execWdResponse tag data last err s
  | .wkResponse tag err => Sys2Proof.Machine.execWkResponse tag err s
  | .pollRead waiter => Sys2Proof.Machine.execPollRead waiter s
  | .lingerExpiry idx => Sys2Proof.Machine.execLingerExpiry idx s
  | .arrival cluster ctr inc ctx => Sys2Proof.Machine.execArrival cluster ctr inc ctx s
  | .arrivalStall cluster => Sys2Proof.Machine.execArrivalStall cluster s
  | .crossingSignal src msg => Sys2Proof.Machine.execCrossingSignal src msg s
  | .crossingAck src msg => Sys2Proof.Machine.execCrossingAck src msg s
  | .crossingReject src msg => Sys2Proof.Machine.execCrossingReject src msg s
  | .ackFlush src incarn => Sys2Proof.Machine.execAckFlush src incarn s
  | .resend dst seq => Sys2Proof.Machine.execResend dst seq s
  | .giveUp dst seq => Sys2Proof.Machine.execGiveUp dst seq s
  | .linkDown => Sys2Proof.Machine.execLinkDown s
  | .linkReset => Sys2Proof.Machine.execLinkReset s
  | .linkUp => Sys2Proof.Machine.execLinkUp s
  | .loopStart desc => Sys2Proof.Machine.execLoopStart desc s
  | .loopStartClear desc => Sys2Proof.Machine.execLoopStartClear desc s
  | .loopStop => Sys2Proof.Machine.execLoopStop s
  | .loopDrain => Sys2Proof.Machine.execLoopDrain s
  | .reload desc => Sys2Proof.Machine.execReload desc s
  | .rqDoorbell ring => Sys2Proof.Machine.execRqDoorbell ring s
  | .requestPoll loop ring => Sys2Proof.Machine.execRequestPoll loop ring s
  | .requestNew loop ring => Sys2Proof.Machine.execRequestNew loop ring s
  | .requestCancel loop ring => Sys2Proof.Machine.execRequestCancel loop ring s
  | .rqRingRestart bits => Sys2Proof.Machine.execRqRingRestart bits s
  | .resultConsumed ring consumed => Sys2Proof.Machine.execResultConsumed ring consumed s
  | .gateRelease loop seq => Sys2Proof.Machine.execGateRelease loop seq s
  | .gateRetry loop seq => Sys2Proof.Machine.execGateRetry loop seq s
  | .heatPlace => Sys2Proof.Machine.execHeatPlace s
  | .heatSaveDone loop slot => Sys2Proof.Machine.execHeatSaveDone loop slot s
  | .heatSwitchDone loop slot => Sys2Proof.Machine.execHeatSwitchDone loop slot s
  | .heatGrowDone loop slot => Sys2Proof.Machine.execHeatGrowDone loop slot s
  | .heatRunDone loop slot => Sys2Proof.Machine.execHeatRunDone loop slot s
  | .heatJudgeDone loop slot => Sys2Proof.Machine.execHeatJudgeDone loop slot s
  | .heatCommit loop slot => Sys2Proof.Machine.execHeatCommit loop slot s
  | .heatTimeout loop slot => Sys2Proof.Machine.execHeatTimeout loop slot s
  | .kvSpill loop => Sys2Proof.Machine.execKvSpill loop s
  | .accountingItem => Sys2Proof.Machine.execAccountingItem s
  | .accountingPeriod => Sys2Proof.Machine.execAccountingPeriod s
  | .judgeJobAccept => Sys2Proof.Machine.execJudgeJobAccept s
  | .judgeRequest => Sys2Proof.Machine.execJudgeRequest s
  | .poolEnable data => Sys2Proof.Machine.execPoolEnable data s
  | .poolDisable data => Sys2Proof.Machine.execPoolDisable data s
  | .copyPieceLaunch => Sys2Proof.Machine.execCopyPieceLaunch s
  | .mapRegister map => Sys2Proof.Machine.execMapRegister map s
  | .unregister => Sys2Proof.Machine.execUnregister s
  | .restoreBegin cluster => Sys2Proof.Machine.execRestoreBegin cluster s
  | .strokeEnable data => Sys2Proof.Machine.execStrokeEnable data s
  | .strokeDisable data => Sys2Proof.Machine.execStrokeDisable data s
  | .strokePeriod => Sys2Proof.Machine.execStrokePeriod s
  | .telemetrySample ch val => Sys2Proof.Machine.execTelemetrySample ch val s
  | .alertBegin thermal => Sys2Proof.Machine.execAlertBegin thermal s
  | .alertEnd thermal => Sys2Proof.Machine.execAlertEnd thermal s
  | .stuckAlert thermal => Sys2Proof.Machine.execStuckAlert thermal s
  | .alertUnstuck thermal => Sys2Proof.Machine.execAlertUnstuck thermal s
  | .telemetryStale ch => Sys2Proof.Machine.execTelemetryStale ch s
  | .tsPulse => Sys2Proof.Machine.execTsPulse s
  | .stuckInput line => Sys2Proof.Machine.execStuckInput line s
  | .inputUnstuck line => Sys2Proof.Machine.execInputUnstuck line s
  | .streamEnable data => Sys2Proof.Machine.execStreamEnable data s
  | .streamConsumed consumed => Sys2Proof.Machine.execStreamConsumed consumed s
  | .traceFlush stream => Sys2Proof.Machine.execTraceFlush stream s
  | .statusLinePublish stream => Sys2Proof.Machine.execStatusLinePublish stream s
  | .timeRecord stream => Sys2Proof.Machine.execTimeRecord stream s
  | .sampleInterval => Sys2Proof.Machine.execSampleInterval s
  | .pubEnable data => Sys2Proof.Machine.execPubEnable data s
  | .freezeStart data => Sys2Proof.Machine.execFreezeStart data s
  | .freezeEnd data => Sys2Proof.Machine.execFreezeEnd data s
  | .trigIn line => Sys2Proof.Machine.execTrigIn line s
  | .trig1Clear data => Sys2Proof.Machine.execTrig1Clear data s
  | .logFree bits => Sys2Proof.Machine.execLogFree bits s
  | .logStatusRead => Sys2Proof.Machine.execLogStatusRead s
  | .engineWatchdog cluster engine => Sys2Proof.Machine.execEngineWatchdog cluster engine s
  | .unitWatchdog island => Sys2Proof.Machine.execUnitWatchdog island s
  | .firmwareHeartbeat => Sys2Proof.Machine.execFirmwareHeartbeat s
  | .firmwareWatchdog => Sys2Proof.Machine.execFirmwareWatchdog s
  | .responseWatchdog port cluster tag => Sys2Proof.Machine.execResponseWatchdog port cluster tag s
  | .driverReset => Sys2Proof.Machine.execDriverReset s
  | .quiesceDone => Sys2Proof.Machine.execQuiesceDone s
  | .rowlockReportTimeout cluster => Sys2Proof.Machine.execRowlockReportTimeout cluster s
  | .captureDone => Sys2Proof.Machine.execCaptureDone s
  | .clusterResetDone cluster image => Sys2Proof.Machine.execClusterResetDone cluster image s
  | .clusterResetLate cluster => Sys2Proof.Machine.execClusterResetLate cluster s
  | .clearDone => Sys2Proof.Machine.execClearDone s
  | .recoverDone => Sys2Proof.Machine.execRecoverDone s
  | .dumpRequest => Sys2Proof.Machine.execDumpRequest s
  | .refetchStart index => Sys2Proof.Machine.execRefetchStart index s
  | .load image => Sys2Proof.Machine.execLoad image s
  | .stage image => Sys2Proof.Machine.execStage image s
  | .swap => Sys2Proof.Machine.execSwap s
  | .rigCancel => Sys2Proof.Machine.execRigCancel s
  | .swapOldDrained => Sys2Proof.Machine.execSwapOldDrained s
  | .swapRetired => Sys2Proof.Machine.execSwapRetired s
  | .applyQuiesced image => Sys2Proof.Machine.execApplyQuiesced image s
  | .lock data => Sys2Proof.Machine.execLock data s
  | .seatEnable data => Sys2Proof.Machine.execSeatEnable data s
  | .timeLock => Sys2Proof.Machine.execTimeLock s
  | .freezeInstant => Sys2Proof.Machine.execFreezeInstant s

end Sys2Proof.Machine
end

