-- ==== Sys2Proof/WellFormed.lean ====
section
/-! DEFINITION. Well-formed commands: every unit a command names exists in the build, and every operand has the width that
the spec gives it. -/
namespace Sys2Proof

namespace Build

/-- Cluster numbers (R49). -/
def isCluster (b : Build) (c : Nat) : Bool := c < b.clusters
/-- An engine of a cluster (R49). -/
def isEngine (b : Build) (c e : Nat) : Bool := c < b.clusters && e < b.engines
/-- Cox cores (R49). -/
def isCore (b : Build) (k : Nat) : Bool := k < b.coxCores
/-- Seats (R49). -/
def isSeat (b : Build) (i : Nat) : Bool := i < b.seats
/-- Rings (R49). -/
def isRing (b : Build) (r : Nat) : Bool := r < b.rings
/-- A launch tree and a leaf of it (R49). -/
def isLeaf (b : Build) (t c : Nat) : Bool := t < b.trees && c < b.clusters
/-- Entries of the watch table (R211). -/
def isWatch (b : Build) (e : Nat) : Bool := e < 2 ^ b.watchLog2
/-- Indices of the object table (R61). -/
def isObject (b : Build) (i : Nat) : Bool := i < 2 ^ b.objectLog2
/-- Loops of Heat (R49). -/
def isLoop (b : Build) (l : Nat) : Bool := b.hasHeat && l < b.heatLoops
/-- A heat slot of a loop (R246). -/
def isHeat (b : Build) (l k : Nat) : Bool := b.isLoop l && k < 8
/-- An entry of a loop's sequence table (R246). -/
def isSeq (b : Build) (l i : Nat) : Bool := b.isLoop l && i < 2 ^ b.heatLiveLog2
/-- Streams of Wake: up to eight (spec/12, Trace records). -/
def isStream (b : Build) (i : Nat) : Bool := b.hasWake && i < 8
/-- Island numbers of the block (R432): the relays that a build has follow the number 539. -/
def isIsland (b : Build) (i : Nat) : Bool := i < 540 + b.relays

end Build

/-- The bytes of a 64-byte line, or of a part of one, as words (R25). -/
def lineWords (l : List W64) : Bool := l.length ≤ 8
/-- A crossing message holds four words (R234). -/
def crossingMsg (b : Build) (l : List W64) : Bool := b.hasCrossing && l.length == 4

/-- Well-formedness of a command in a build. -/
def Instr.wf (b : Build) : Instr → Bool
  | .porNAssert | .porNRelease => true
  | .selftestDone failing => failing.all b.isIsland
  | .registerWrite _ _ _ | .readClear _ _ => true
  | .create | .stop | .resume | .kill | .teardown | .setWeight => true
  | .contextFreed slot => slot < 1024
  | .objectRegister _ _ | .refAdd _ | .refSub _ | .objectFree _ | .forceFree _ | .objectQuery _ => true
  | .hostSignal _ | .hostFail _ _ => true
  | .doorbell r | .doorbellStorm r | .stormLook r | .stormEnd r | .invalidate r _ | .dbRelease r | .entryFetched r |
    .entryReread r => b.isRing r
  | .bind | .unbind | .restart _ | .abandon | .unpin | .update | .seatPolicy => true
  | .pin i => i < 64
  | .irqHoldoffEnd r => b.isRing r
  | .entryTimeout r _ posted => b.isRing r && posted.all fun p => b.isRing p.1 && p.2.2.length == 8
  | .coreTakeSeat k | .sliceYield k => b.isCore k
  | .seatResume i | .waittRelease i | .waitTimeout i => b.isSeat i
  | .wNop k | .wEnd k | .wJump k | .wBranch k | .wLoop k | .wCallc k | .wRetc k | .wSetc k | .wAddc k | .wLoadc k |
    .wStorec k | .wAtomc k | .wWaitf k | .wSignalf k | .wSignalx k | .wWaitt k | .wLaunch k | .wCrewlaunch k | .treeAccept k |
    .wBarrier k | .wSavectx k | .wLoadctx k _ | .wAlloc k | .wFree k | .wRefadd k | .wRefsub k | .wKvgrow k _ | .wKvtrim k _ |
    .wJudge k | .wEnqueue k | .wMark k | .wHeatend k => b.isCore k
  | .courseRecord _ _ | .coursePatch _ _ | .courseRetire _ | .courseQuery _ => true
  | .piece t c | .crewPiece t c | .cancel t c | .hold t c | .release t c => b.isLeaf t c
  | .cancelSend => true
  | .chunkRequest c e | .present c e | .catchCmd c e | .finish c e _ | .engineErrorReport c e _ _ _ | .activeYield c e |
    .preAckRise c e | .preAckFall c e | .alignedStart c e | .staggerStart c e => b.isEngine c e
  | .rpResponse c tag data _ _ => b.isCluster c && tag < 16 && lineWords data
  | .pieceReport c => b.isCluster c
  | .holdComplete c k => b.isCluster c && k < 4
  | .nmResponse tag data _ | .hmResponse tag data _ => tag < 1024 && lineWords data
  | .atResponse tag _ _ => tag < 1024
  | .mwResponse e _ | .notice e | .lingerExpiry e => b.isWatch e
  | .noticeLost => true
  | .wdResponse tag data _ _ => b.hasJudge && tag < 256 && data.length ≤ 128
  | .wkResponse tag _ => b.hasWake && tag < 64
  | .pollRead _ => true
  | .arrival c _ _ _ | .arrivalStall c => b.isCluster c
  | .crossingSignal _ m | .crossingAck _ m | .crossingReject _ m => crossingMsg b m
  | .ackFlush _ _ | .resend _ _ | .giveUp _ _ | .linkDown | .linkReset | .linkUp => b.hasCrossing
  | .loopStart _ | .loopStartClear _ | .loopStop | .loopDrain | .reload _ | .rqDoorbell _ | .rqRingRestart _ |
    .resultConsumed _ _ => b.hasHeat
  | .requestPoll l r | .requestNew l r | .requestCancel l r => b.isLoop l && r < 16
  | .gateRelease l i | .gateRetry l i => b.isSeq l i
  | .heatPlace | .accountingItem | .accountingPeriod => b.hasHeat
  | .heatSaveDone l k | .heatSwitchDone l k | .heatGrowDone l k | .heatRunDone l k | .heatJudgeDone l k | .heatCommit l k |
    .heatTimeout l k => b.isHeat l k
  | .kvSpill l => b.isLoop l
  | .judgeJobAccept | .judgeRequest => b.hasJudge
  | .poolEnable _ | .poolDisable _ | .copyPieceLaunch | .mapRegister _ | .unregister => true
  | .restoreBegin c => b.isCluster c
  | .strokeEnable _ | .strokeDisable _ | .strokePeriod => b.hasStroke
  | .telemetrySample ch _ | .telemetryStale ch => b.hasStroke && ch.toNat < 10
  | .alertBegin _ | .alertEnd _ | .stuckAlert _ | .alertUnstuck _ => b.hasStroke
  | .tsPulse => true
  | .stuckInput line | .inputUnstuck line => line.toNat < 3
  | .streamEnable _ | .streamConsumed _ => b.hasWake
  | .traceFlush i | .statusLinePublish i | .timeRecord i => b.isStream i
  | .sampleInterval | .pubEnable _ | .freezeStart _ | .freezeEnd _ | .trigIn _ | .trig1Clear _ | .freezeInstant => b.hasErg
  | .logFree _ | .logStatusRead => true
  | .engineWatchdog c e => b.isEngine c e
  | .unitWatchdog i => b.isIsland i
  | .firmwareHeartbeat | .firmwareWatchdog => true
  | .responseWatchdog port c tag => port < 7 && (port != 5 || b.isCluster c) && tag < 65536
  | .driverReset | .quiesceDone | .captureDone | .clearDone | .recoverDone | .dumpRequest => true
  | .rowlockReportTimeout c | .clusterResetDone c _ | .clusterResetLate c => b.isCluster c
  | .refetchStart i => b.isObject i
  | .load _ | .stage _ | .swap | .rigCancel | .swapOldDrained | .swapRetired | .applyQuiesced _ | .lock _ | .seatEnable _ |
    .timeLock => true

end Sys2Proof
end

