-- ==== Sys2Proof/Safety.lean ====
section
/-! DEFINITION. What counts as a safe run, and the terms that statements about commands use. -/
namespace Sys2Proof.Machine

/-- The chip has not stopped: por_n is 1 and the block is not in DEAD (R44, R408). -/
def State.alive (s : State) : Bool := s.ump.porN && s.ump.rst != .dead

/-- What `n` steps answer, one after another; a fault or a refusal ends the run. -/
def runSteps : Nat → State → Host.Outcome State Fault Refusal
  | 0, s => .next s
  | n + 1, s => match step s with
    | .next t => runSteps n t
    | .fault f => .fault f
    | .refused r => .refused r

/-- A run of `n` steps is safe: every state on the way is a next state with the chip alive. -/
def SafeRun (n : Nat) (s : State) : Prop := ∀ m, m ≤ n → ∃ t, runSteps m s = .next t ∧ t.alive = true

/-- An outcome is a next state with a property. -/
def Gives (o : Host.Outcome State Fault Refusal) (p : State → Prop) : Prop := ∃ t, o = .next t ∧ p t

/-- What every step keeps: if it answers a next state from one with the property, that state has it too. -/
def StepKeeps (inv : State → Prop) : Prop := ∀ s t : State, inv s → step s = .next t → inv t

/-- Core `k` runs the program `p` of a seat, and the word at the program's pc, which has arrived without error, is `w` of
opcode `op`; the word is legal, nothing the seat has outstanding holds it back, and no other seat is due the core after
slice_words words (R123, R146, R148). -/
structure Issues (s : State) (k op seat : Nat) (p : Prog) (w : CWord) : Prop where
  up : computeUp s = true
  exec : (s.core k).st = .exec
  built : k < s.build.coxCores
  runs : running s k = some (seat, p)
  notDue : sliceDue s k p = false
  inside : p.pc < p.len
  word : wordAtPc s k p = some (.ok, w)
  opcode : w.op = op
  legal : wordLegal s.build w = true
  free : mustStall s seat p w = false

/-- A program with one more word counted as executed (R152). -/
def Prog.counted (p : Prog) : Prog := { p with words := satAdd 32 p.words 1, sliceWords := p.sliceWords + 1 }

/-- A program one word further on (R125). -/
def Prog.past (p : Prog) : Prog := { p with pc := p.pc + 1 }

/-- A core does not hold its word back for a resource that is full or a launch tree that refuses (R149, R179). -/
def NotHeld (k : Nat) (s : State) : Prop :=
  ¬((s.core k).st = .stall ∧ ((s.core k).stall = .order ∨ (s.core k).stall = .tree))

/-- What a word that works on its own program alone leaves: everything but the program of its seat, and what counting the word
and reading the program ahead change (the cores, the narrow path, the counters, the trace and the hang rings; R123, R152). -/
structure WordFrame (seat : Nat) (s t : State) : Prop where
  mar : t.mar = { s.mar with seats := t.mar.seats }
  others : ∀ j, j ≠ seat → t.seat j = s.seat j
  seat : t.seat seat = { s.seat seat with prog := t.prog? seat }
  ports : t.ports.at_ = s.ports.at_ ∧ t.ports.hm = s.ports.hm ∧ t.ports.wd = s.ports.wd
  log : t.ump.rst = s.ump.rst ∧ t.ump.log = s.ump.log
  rack : t.rack = s.rack
  mem : t.mem = s.mem
  sld : t.sld = s.sld
  heat : t.heat = s.heat
  judge : t.judge = s.judge
  stk : t.stk = s.stk
  bhs : t.bhs = s.bhs
  fab : t.fab = s.fab
  stb : t.stb = s.stb
  rig : t.rig = s.rig
  tkp : t.tkp = s.tkp

/-- Nothing in the block waits for the clock: no object-table entry is to be written back, no crossing message waits to transfer,
no Rowlock has been vacated, and no root and no input of a Rowlock starts or ends refusing (assumption 1). -/
structure QuietCycle (s : State) : Prop where
  clean : s.rack.dirty = []
  sent : s.stb.txq = []
  settled : s.fab.vacated = []
  roots : ∀ t, t < s.build.trees → treeRefuses s t = (s.tree t).refusing
  inputs : ∀ c t, c ∈ s.fab.rows.cells.map Prod.fst → t < s.build.trees → rowRefuses s t c = (s.row c).refusing.contains t

/-! ### Invariants -/

/-- No two of the 1,024 slots of the context table hold one id (R54). -/
def CtxIdsDistinct (s : State) : Prop :=
  (s.mar.slots.dflt.st = .free) ∧
  ∀ i j, i < 1024 → j < 1024 → (s.slot i).st ≠ .free → (s.slot j).st ≠ .free → (s.slot i).ctxId = (s.slot j).ctxId → i = j

/-- No two requests that a port holds carry one tag (R19). -/
def PortTagsDistinct (s : State) : Prop :=
  (s.ports.nm.map (·.tag)).Nodup ∧ (s.ports.hm.map (·.tag)).Nodup ∧ (s.ports.at_.map (·.tag)).Nodup ∧
  (s.ports.wd.map (·.tag)).Nodup

/-- No hang ring holds more than its last 64 events (R387). -/
def HangRingsBounded (s : State) : Prop := ∀ isl, (s.ump.hang.get isl).length ≤ 64

/-- Slot 15 of the error log holds a record of class 5 or none (R379). -/
def LastLogSlotReserved (s : State) : Prop := (s.ump.log.get 15).valid = true → (s.ump.log.get 15).entry.cls = 5

end Sys2Proof.Machine
end

