-- ==== Sys2Proof/Certificates/Slice0/Obligations.lean ====
section
/-! DEFINITION. The statements about the model, each a proposition for the provers. -/

open Sys2Proof Sys2Proof.Machine

/-! ### The step and its outcomes -/

/-- A step takes the command at the front of the queue and runs it on the state with the queue's rest. Where the spec leaves
it open or silent it rests on the model's choice, assumption 2. -/
def Obligations.StepRunsTheFrontCommand : Prop :=
  ∀ (c : Instr) (rest : List Instr) (s : State),
    step { s with pending := c :: rest } = exec c { s with pending := rest }

/-- The model's choice (assumption 1): on an empty queue one cycle of ref_clk passes. While por_n is 1 the master time
advances by 40 tu changed by trim_ppb parts in 10^9, and the fraction of a tu is carried; with a trim of 0 and no fraction
that is 40 tu. Where nothing in the block waits for the clock, the clock's settings, the rings and seats, the ports, the log and
the resets stay as they were. While por_n is 0 nothing changes. -/
def Obligations.EmptyQueuePassesOneClockCycle : Prop :=
  (∀ s : State, s.pending = [] → s.ump.porN = true → Gives (step s) fun t =>
    t.tkp.now * 1000000000 + t.tkp.frac =
      s.tkp.now * 1000000000 + s.tkp.frac + (40 * (1000000000 + trimPpb s.tkp.cfg)).toNat ∧
    t.tkp.frac < 1000000000) ∧
  (∀ s : State, s.pending = [] → s.ump.porN = true → QuietCycle s → Gives (step s) fun t =>
    t.tkp = { s.tkp with now := t.tkp.now, frac := t.tkp.frac } ∧ t.mar = s.mar ∧ t.ports = s.ports ∧ t.ump = s.ump ∧
    t.rack = s.rack ∧ t.stb = s.stb ∧ t.fab = { s.fab with trees := t.fab.trees } ∧
    ∀ i, t.tree i = { s.tree i with refusedTu := (t.tree i).refusedTu, stallSince := (t.tree i).stallSince }) ∧
  (∀ s : State, s.pending = [] → s.ump.porN = true → s.tkp.cfg = 0 → s.tkp.frac = 0 → Gives (step s) fun t =>
    t.tkp.now = s.tkp.now + 40 ∧ t.tkp.frac = 0) ∧
  (∀ s : State, s.pending = [] → s.ump.porN = false → step s = .next s)

/-- No command is refused: every one of the table's rows has its meaning. -/
def Obligations.NoCommandIsRefused : Prop :=
  ∀ (c : Instr) (s : State) (r : Refusal), exec c s ≠ .refused r

/-- A well-formed command names no unit that the build lacks: it never ends in the fault for one. Where the spec leaves it
open or silent it rests on the model's choice, assumption 6. -/
def Obligations.WellFormedCommandsNameBuiltUnits : Prop :=
  ∀ (c : Instr) (s : State) (u : String), c.wf s.build = true → exec c s ≠ .fault (.notBuilt u)

/-- A command changes neither the commands that wait behind it nor the build. -/
def Obligations.CommandsKeepQueueAndBuild : Prop :=
  ∀ (c : Instr) (s t : State), exec c s = .next t → t.pending = s.pending ∧ t.build = s.build

/-! ### Invariants of the block -/

/-- Only por_n leaves DEAD (R408): no other command, and no cycle of the clock, takes the block out of it. -/
def Obligations.OnlyPorNLeavesDead : Prop :=
  ∀ s t : State, s.ump.rst = .dead → s.pending.head? ≠ some .porNAssert → step s = .next t → t.ump.rst = .dead

/-- The master time never decreases but at por_n (R351, R352). -/
def Obligations.MasterTimeNeverDecreases : Prop :=
  ∀ s t : State, s.pending.head? ≠ some .porNAssert → step s = .next t → s.tkp.now ≤ t.tkp.now

/-- RIG_LOCK.lock, once set, stays set until por_n, and RIG_LOCK.swap_ok, a field it locks, keeps its value (R429). -/
def Obligations.LockHoldsUntilPorN : Prop :=
  ∀ s t : State, s.rig.lock = true → s.pending.head? ≠ some .porNAssert → step s = .next t →
    t.rig.lock = true ∧ t.rig.swapOk = s.rig.swapOk

/-- No two slots hold the same context id at once (R54), whatever command runs. -/
def Obligations.ContextIdsStayDistinct : Prop := StepKeeps CtxIdsDistinct

/-- A port never holds two requests with one tag (R19), whatever command runs. -/
def Obligations.PortTagsStayDistinct : Prop := StepKeeps PortTagsDistinct

/-- A hang ring holds at most the last 64 events (R387), and slot 15 of the error log never takes a record of class 0 to 4 (R379),
whatever command runs. -/
def Obligations.ErrorRecordsKeepTheirBounds : Prop := StepKeeps HangRingsBounded ∧ StepKeeps LastLogSlotReserved

/-- The state at reset meets the invariants. Where the spec leaves it open or silent it rests on the model's choice,
assumption 4. -/
def Obligations.ResetMeetsTheInvariants : Prop :=
  CtxIdsDistinct State.reset ∧ PortTagsDistinct State.reset ∧ HangRingsBounded State.reset ∧
  LastLogSlotReserved State.reset

/-- What reset leaves, as the spec states it: master time 0 (R351), RIG_STATUS BLANK, lock 0 and swap_ok 1 (R429), UMP RUN
with an empty error log, every context slot FREE, every ring UNBOUND, no seat enabled, every seat EMPTY, every sync counter 0
and every watch entry FREE (R412). -/
def Obligations.ResetLeavesTheSpecsValues : Prop :=
  State.reset.now = 0 ∧ State.reset.rig.st = .blank ∧ State.reset.rig.lock = false ∧ State.reset.rig.swapOk = true ∧
  State.reset.ump.rst = .run ∧ (∀ i, (State.reset.ump.log.get i).valid = false) ∧ State.reset.ump.logLost = 0 ∧
  (∀ i, (State.reset.slot i).st = .free) ∧ (∀ r, (State.reset.ring r).st = .unbound) ∧ State.reset.mar.seatEnable = 0 ∧
  (∀ i, (State.reset.seat i).ring = none ∧ (State.reset.seat i).st = .empty) ∧
  (∀ c i, (State.reset.row c).sync.get i = 0) ∧ (∀ e, (State.reset.stb.watch.get e).st = .free)

/-! ### The pins and the register window -/

/-- por_n falling resets both domains (R44): every field but the build takes its reset value, and por_n reads 0. While it is 0
the block takes no doorbell, no context, ring, object, course, pool, map, trace, freeze or log command, no arrival and no
notice. On its rise every Rowlock begins one cluster reset handshake (R412). When every handshake is over, the end of
self-test is recorded: it passes when no built island failed. Where the spec leaves it open or silent it rests on the model's
choices, assumptions 4 and 72. -/
def Obligations.PorNResetsAndSelfTestReports : Prop :=
  (∀ s : State, exec .porNAssert s = .next { State.reset with
    build := s.build, fresh := s.fresh, pending := s.pending, ump := { Ump.reset with porN := false } }) ∧
  (∀ s : State, s.ump.porN = false → Gives (exec .porNRelease s) fun t =>
    t.ump = { s.ump with porN := true } ∧
    (∀ c, c < s.build.clusters → (t.row c).rstReq = true ∧ (t.row c).rstDone = false) ∧
    t.mar = s.mar ∧ t.rig = s.rig ∧ t.ports = s.ports ∧ t.tkp = s.tkp) ∧
  (∀ (failing : List Nat) (s : State), s.ump.porN = true → s.rig.testDone = false → s.ump.rst = .run →
    resetsOwed s = false → Gives (exec (.selftestDone failing) s) fun t =>
      t.rig.testDone = true ∧ (t.rig.testPass = true ↔ ∀ i, i ∈ builtIslands s.build → i ∉ failing) ∧
      t.rig.failedCount = ((builtIslands s.build).filter failing.contains).length ∧
      t = { s with rig := t.rig } ∧ t.rig.st = s.rig.st ∧ t.rig.lock = s.rig.lock) ∧
  (∀ s : State, s.ump.porN = false →
    exec .create s = .next s ∧ exec .stop s = .next s ∧ exec .resume s = .next s ∧ exec .kill s = .next s ∧
    exec .teardown s = .next s ∧ exec .setWeight s = .next s ∧ exec .noticeLost s = .next s ∧ exec .logStatusRead s = .next s ∧
    (∀ r, exec (.doorbell r) s = .next s) ∧ (∀ a b, exec (.objectRegister a b) s = .next s) ∧
    (∀ h, exec (.refAdd h) s = .next s ∧ exec (.refSub h) s = .next s ∧ exec (.objectFree h) s = .next s ∧
      exec (.forceFree h) s = .next s ∧ exec (.objectQuery h) s = .next s ∧ exec (.courseRetire h) s = .next s ∧
      exec (.courseQuery h) s = .next s ∧ ∀ m, exec (.courseRecord h m) s = .next s ∧ exec (.coursePatch h m) s = .next s) ∧
    (∀ c, exec (.arrivalStall c) s = .next s) ∧ (∀ n, exec (.streamConsumed n) s = .next s) ∧
    (∀ b, exec (.logFree b) s = .next s) ∧
    (∀ d, exec (.poolEnable d) s = .next s ∧ exec (.poolDisable d) s = .next s ∧ exec (.strokeEnable d) s = .next s ∧
      exec (.strokeDisable d) s = .next s ∧ exec (.streamEnable d) s = .next s ∧ exec (.pubEnable d) s = .next s ∧
      exec (.freezeStart d) s = .next s ∧ exec (.freezeEnd d) s = .next s ∧ exec (.trig1Clear d) s = .next s)) ∧
  (∀ s : State, s.ump.porN = false →
    (abandoning (s.ring (ringSel s)) = false → exec .bind s = .next s ∧ exec .unbind s = .next s ∧ exec .abandon s = .next s ∧
      exec .unpin s = .next s ∧ exec .update s = .next s ∧ (∀ i, exec (.pin i) s = .next s) ∧
      ∀ skip, exec (.restart skip) s = .next s) ∧
    ((s.map (sldSlot s)).busy = 0 → exec .unregister s = .next s ∧ ∀ m, exec (.mapRegister m) s = .next s))

/-- The register window (R9, R21): a write reaches the register of the aligned address; MAR_CTX_SEL at 0x0001_F000, for one,
takes the low ten bits and nothing else changes; a read answers the register's value, and zero while por_n is 0. A read or a
write while por_n is 0 changes no register. Where the spec leaves it open or silent it rests on the model's choices,
assumptions 11 and 83. -/
def Obligations.RegisterAccessesReachOneRegister : Prop :=
  (∀ (wide : Bool) (addr : BitVec 25) (data : W64) (s : State),
    busyReg s (regOfAddr s (winAddr wide addr)) = none →
    exec (.registerWrite wide addr data) s = .next (winWrite wide (winAddr wide addr) data s)) ∧
  (∀ (addr : BitVec 25) (data : W64) (s : State), addr.toNat / 4 * 4 = 0x1F000 → s.ump.porN = true →
    exec (.registerWrite false addr data) s = .next { s with mar := { s.mar with ctxSel := data &&& 0x3FF } }) ∧
  (∀ (wide : Bool) (addr : BitVec 25) (s : State), s.ump.porN = true → Gives (exec (.readClear wide addr) s) fun t =>
    t.ports.hostRead = w64 (if wide then read64 s (winAddr wide addr) else read32 s (winAddr wide addr)) ∧
    t.cox = s.cox ∧ t.rig = s.rig ∧ t.rack = s.rack ∧ t.mem = s.mem ∧ t.heat = s.heat ∧ t.tkp = s.tkp ∧ t.build = s.build ∧
    t.ports.nm = s.ports.nm ∧ t.ports.at_ = s.ports.at_ ∧ t.ports.hm = s.ports.hm ∧ t.ports.irqs = s.ports.irqs) ∧
  (∀ (wide : Bool) (addr : BitVec 25) (s : State), s.ump.porN = false →
    exec (.readClear wide addr) s = .next { s with ports := { s.ports with hostRead := 0 } }) ∧
  (∀ (wide : Bool) (addr : BitVec 25) (data : W64) (s : State), s.ump.porN = false →
    busyReg s (regOfAddr s (winAddr wide addr)) = none → exec (.registerWrite wide addr data) s = .next s)

/-! ### Contexts -/

/-- The commands on the selected context slot (R57). CREATE makes a FREE slot LIVE with the fields of MAR_CTX_DESC; STOP and
RESUME move it between LIVE and STOPPED; KILL fails the context with class 3, E_CONTEXT_KILLED, logged once; TEARDOWN moves a
STOPPED or FAILED context with no ring bound to DRAINING, with its cluster state forgotten and its map unregistered;
SET_WEIGHT loads the weight alone. A DRAINING context whose inflight has reached 0 becomes FREE, and its objects lose their
owner's reference, and what SAVE had saved of it is discarded. Every other slot stays as it was. Where the spec leaves it open
or silent it rests on the model's choices, assumptions 20, 85 and 93. -/
def Obligations.ContextCommandsFollowTheStateTable : Prop :=
  (∀ s : State, s.ump.porN = true → createOk s = true → Gives (exec .create s) fun t =>
    (t.slot (ctxSlot s)).st = .live ∧ (t.slot (ctxSlot s)).ctxId = w16 (fld (s.slot (ctxSlot s)).desc 0 16) ∧
    (t.slot (ctxSlot s)).weight = w16 (fld (s.slot (ctxSlot s)).desc 32 16) ∧
    (t.slot (ctxSlot s)).priority = fld (s.slot (ctxSlot s)).desc 52 2 ∧ (t.slot (ctxSlot s)).ringsBound = 0 ∧
    (t.slot (ctxSlot s)).cmdErr = false ∧ (∀ i, i ≠ ctxSlot s → t.slot i = s.slot i) ∧
    t.mar.rings = s.mar.rings ∧ t.mar.seats = s.mar.seats ∧ t.mar.works = s.mar.works ∧ t.rack = s.rack ∧ t.cox = s.cox ∧
    t.fab = s.fab ∧ t.stb = s.stb ∧ t.ports = s.ports ∧ t.ump = s.ump ∧ t.rig = s.rig) ∧
  (∀ s : State, s.ump.porN = true → blank s = false → (s.slot (ctxSlot s)).st = .live →
    exec .stop s = .next (let s1 := ctxApply (fun x => { x with st := .stopped }) s
      policy (each (ringsOf s1 (s.slot (ctxSlot s)).ctxId) (fun s r => settle r s) s1))) ∧
  (∀ s : State, s.ump.porN = true → blank s = false → (s.slot (ctxSlot s)).st = .stopped →
    exec .resume s = .next (let s1 := ctxApply (fun x => { x with st := .live }) s
      policy (each (ringsOf s1 (s.slot (ctxSlot s)).ctxId) resumeRing s1))) ∧
  (∀ s : State, s.ump.porN = true → blank s = false → (s.slot (ctxSlot s)).st = .live ∨ (s.slot (ctxSlot s)).st = .stopped →
    exec .kill s = .next (policy (failContext (s.slot (ctxSlot s)).ctxId 3 eContextKilled
      (logRec (ctxWhy s (s.slot (ctxSlot s)).ctxId) { LogRec.zero with
        cls := 3, code := eContextKilled, island := islMar, ctx := (s.slot (ctxSlot s)).ctxId } (ctxApply id s))))) ∧
  (∀ s : State, s.ump.porN = true → blank s = false → (s.slot (ctxSlot s)).st = .stopped ∨ (s.slot (ctxSlot s)).st = .failed →
    (s.slot (ctxSlot s)).ringsBound = 0 →
    exec .teardown s = .next (
      let s1 := forgetCtx (s.slot (ctxSlot s)).ctxId
        (ctxApply (fun x => { x with st := .draining, errClass := 0, errCode := 0 }) s)
      if (s.map (ctxSlot s)).registered || (s.map (ctxSlot s)).busy != 0 then unregisterMap (ctxSlot s) s1 else s1)) ∧
  (∀ s : State, s.ump.porN = true → blank s = false → (s.slot (ctxSlot s)).st = .live ∨ (s.slot (ctxSlot s)).st = .stopped →
    Gives (exec .setWeight s) fun t =>
      t.slot (ctxSlot s) = { s.slot (ctxSlot s) with
        weight := w16 (fld (s.slot (ctxSlot s)).desc 32 16), cmdErr := false } ∧
      (∀ i, i ≠ ctxSlot s → t.slot i = s.slot i) ∧ t = { s with mar := { s.mar with slots := t.mar.slots } }) ∧
  (∀ (i : Nat) (s : State), i < 1024 → (s.slot i).st = .draining → inflight s (s.slot i).ctxId = 0 →
    Gives (exec (.contextFreed i) s) fun t =>
      t.slot i = { Slot.reset with desc := (s.slot i).desc, cmdErr := (s.slot i).cmdErr } ∧ (∀ j, j ≠ i → t.slot j = s.slot j) ∧
      t.mar.rings = s.mar.rings ∧ t.mar.seats = s.mar.seats ∧ t.cox = s.cox ∧
      t.sld.held = s.sld.held.filter (fun h => h.1 != (s.slot i).ctxId) ∧
      t.heat.saved = s.heat.saved.filter (fun v => v.ctx != (s.slot i).ctxId) ∧
      t.fab.trees = s.fab.trees ∧ t.fab.items = s.fab.items)

/-- A context command whose condition does not hold, and any before the first LOAD, sets cmd_err in the selected slot and
changes nothing else (R57, R414). -/
def Obligations.RefusedContextCommandsSetCmdErrOnly : Prop :=
  (∀ s : State, s.ump.porN = true → createOk s = false → exec .create s = .next (ctxRefuse s)) ∧
  (∀ s : State, s.ump.porN = true → blank s = true ∨ (s.slot (ctxSlot s)).st ≠ .live → exec .stop s = .next (ctxRefuse s)) ∧
  (∀ s : State, s.ump.porN = true → blank s = true ∨ (s.slot (ctxSlot s)).st ≠ .stopped → exec .resume s = .next (ctxRefuse s)) ∧
  (∀ s : State, s.ump.porN = true → blank s = true ∨ ((s.slot (ctxSlot s)).st ≠ .live ∧ (s.slot (ctxSlot s)).st ≠ .stopped) →
    exec .kill s = .next (ctxRefuse s) ∧ exec .setWeight s = .next (ctxRefuse s)) ∧
  (∀ s : State, s.ump.porN = true → blank s = true ∨ ((s.slot (ctxSlot s)).st ≠ .stopped ∧ (s.slot (ctxSlot s)).st ≠ .failed) ∨
    (s.slot (ctxSlot s)).ringsBound ≠ 0 → exec .teardown s = .next (ctxRefuse s)) ∧
  (∀ s : State, ((ctxRefuse s).slot (ctxSlot s)) = { s.slot (ctxSlot s) with cmdErr := true } ∧
    (∀ i, i ≠ ctxSlot s → (ctxRefuse s).slot i = s.slot i) ∧
    ctxRefuse s = { s with mar := { s.mar with slots := (ctxRefuse s).mar.slots } })

/-! ### Objects -/

/-- The commands on objects (R63, R65, R67, R68, R70) act when their checks pass: REF_ADD and REF_SUB change the count by one,
OBJECT_FREE drops the owner's reference of a LIVE object and moves it to FREEING, FORCE_FREE moves a LIVE or FREEING object to
FORCED, OBJECT_QUERY changes nothing; an object whose count reaches 0 is reclaimed (`setRefs`). RCK_OBJ_STATUS reads result 0.
OBJECT_REGISTER gives a free entry (which one is a free value) to a LIVE object of count 1 and reports its handle. After
REF_ADD the count is one more, after REF_SUB of a count above 1 one less, and every other object, and everything outside Rack,
is as it was. Where the spec leaves it open or silent it rests on the model's choices, assumptions 7 and 18. -/
def Obligations.ObjectCommandsActWhenTheirChecksPass : Prop :=
  (∀ (h : W32) (s : State), s.ump.porN = true → blank s = false → objStale s h = false → (objOf s h).st ≠ .forced →
    (objOf s h).refs + 1 ≤ 0xFFFFFFFF →
    exec (.refAdd h) s = .next (objStatus 0 h (setRefs (hIdx h) ((objOf s h).refs + 1) s))) ∧
  (∀ (h : W32) (s : State), s.ump.porN = true → blank s = false → objStale s h = false → 1 ≤ (objOf s h).refs →
    exec (.refSub h) s = .next (objStatus 0 h (setRefs (hIdx h) ((objOf s h).refs - 1) s))) ∧
  (∀ (h : W32) (s : State), s.ump.porN = true → blank s = false → objStale s h = false → (objOf s h).st = .live →
    exec (.objectFree h) s = .next (objStatus 0 h (setRefs (hIdx h) ((objOf s h).refs - 1)
      (updObj (hIdx h) (fun o => { o with st := .freeing, ownerRef := false }) s)))) ∧
  (∀ (h : W32) (s : State), s.ump.porN = true → blank s = false → objStale s h = false → (objOf s h).st ≠ .forced →
    exec (.forceFree h) s = .next (objStatus 0 h (setRefs (hIdx h)
      (if (objOf s h).ownerRef then (objOf s h).refs - 1 else (objOf s h).refs)
      (updObj (hIdx h) (fun o => { o with st := .forced, ownerRef := false }) s)))) ∧
  (∀ (h : W32) (s : State), s.ump.porN = true → blank s = false → objStale s h = false → Gives (exec (.objectQuery h) s) fun t =>
    t.rack.result = 0 ∧ t.rack.handle = h ∧ t.rack.objs = s.rack.objs ∧ t = { s with rack := t.rack }) ∧
  (∀ (shared golden : Bool) (s : State) (i : Nat), s.ump.porN = true → blank s = false → registerArgsOk s = true → freeIndex s = some i →
    Gives (exec (.objectRegister shared golden) s) fun t =>
      t.rack.result = 0 ∧ (t.rack.objs.get i).st = .live ∧ (t.rack.objs.get i).refs = 1 ∧ (t.rack.objs.get i).ownerRef = true ∧
      (t.rack.objs.get i).base = fld s.rack.arg0 0 56 ∧ (t.rack.objs.get i).size = fld s.rack.arg1 0 48 ∧
      (t.rack.objs.get i).owner = w16 (fld s.rack.arg1 48 16) ∧ (t.rack.objs.get i).shared = shared ∧
      t.rack.handle = mkHandle i (t.rack.objs.get i).gen ∧
      (∀ j, j ≠ i → t.rack.objs.get j = s.rack.objs.get j) ∧ t.mar = s.mar ∧ t.ports = s.ports ∧ t.ump = s.ump) ∧
  (∀ (h : W32) (s : State), s.ump.porN = true → blank s = false → objStale s h = false → (objOf s h).st ≠ .forced →
    (objOf s h).refs + 1 ≤ 0xFFFFFFFF → Gives (exec (.refAdd h) s) fun t =>
      t.rack.objs.get (hIdx h) = { s.rack.objs.get (hIdx h) with refs := (s.rack.objs.get (hIdx h)).refs + 1 } ∧
      (∀ j, j ≠ hIdx h → t.rack.objs.get j = s.rack.objs.get j) ∧ t = { s with rack := t.rack }) ∧
  (∀ (h : W32) (s : State), s.ump.porN = true → blank s = false → objStale s h = false → 2 ≤ (objOf s h).refs →
    Gives (exec (.refSub h) s) fun t =>
      t.rack.objs.get (hIdx h) = { s.rack.objs.get (hIdx h) with refs := (s.rack.objs.get (hIdx h)).refs - 1 } ∧
      (∀ j, j ≠ hIdx h → t.rack.objs.get j = s.rack.objs.get j) ∧ t = { s with rack := t.rack })

/-- The codes with which the object commands fail, in the order of the checks (R63, R65, R67, R68, R70): a stale handle, a
FORCED object, an overflow or an underflow of the count. The object table does not change. Where the spec leaves it open or
silent it rests on the model's choice, assumption 18. -/
def Obligations.ObjectCommandsReportTheFirstFailingCheck : Prop :=
  (∀ (h : W32) (s : State), s.ump.porN = true → blank s = false → objStale s h = true →
    exec (.refAdd h) s = .next (objStatus 1 h s) ∧ exec (.refSub h) s = .next (objStatus 1 h s) ∧
    exec (.objectFree h) s = .next (objStatus 1 h s) ∧ exec (.forceFree h) s = .next (objStatus 1 h s) ∧
    exec (.objectQuery h) s = .next (objStatus 1 h s)) ∧
  (∀ (h : W32) (s : State), s.ump.porN = true → blank s = false → objStale s h = false → (objOf s h).st = .forced →
    exec (.refAdd h) s = .next (objStatus 5 h s) ∧ exec (.objectFree h) s = .next (objStatus 5 h s) ∧
    exec (.forceFree h) s = .next (objStatus 5 h s)) ∧
  (∀ (h : W32) (s : State), s.ump.porN = true → blank s = false → objStale s h = false → (objOf s h).st ≠ .forced →
    0xFFFFFFFF < (objOf s h).refs + 1 → exec (.refAdd h) s = .next (objStatus 3 h s)) ∧
  (∀ (h : W32) (s : State), s.ump.porN = true → blank s = false → objStale s h = false → (objOf s h).refs = 0 →
    exec (.refSub h) s = .next (objStatus 2 h s)) ∧
  (∀ (n : Nat) (h : W32) (s : State), (objStatus n h s).rack.objs = s.rack.objs ∧ (objStatus n h s).rack.result = n ∧
    objStatus n h s = { s with rack := (objStatus n h s).rack })

/-- R65, for an object whose handle is not stale: a subtraction that would take the count below zero fails with E_REF_UNDERFLOW, an
addition that would take it above 0xFFFF_FFFF with E_REF_OVERFLOW, a reference to an object that is not shared by a context other
than its owner with E_OBJECT_ACCESS. A failed operation leaves the entry unchanged: a host command leaves the object table as it
was, and a word goes on from the state before the operation. (A FORCED object's own check, E_OBJECT_FREED, comes before that for an
overflow, R63.) -/
def Obligations.FailedReferencesLeaveTheEntry : Prop :=
  (∀ (who : Option CtxId) (h : W32) (n : Nat) (s : State), objStale s h = false →
    (∀ c, who = some c → (objOf s h).shared = false → c ≠ (objOf s h).owner →
      refAddOp who h n s = .error eObjectAccess ∧ refSubOp who h n s = .error eObjectAccess) ∧
    ((∀ c, who = some c → (objOf s h).shared = true ∨ c = (objOf s h).owner) →
      ((objOf s h).refs < n → refSubOp who h n s = .error eRefUnderflow) ∧
      ((objOf s h).st ≠ .forced → 0xFFFFFFFF < (objOf s h).refs + n → refAddOp who h n s = .error eRefOverflow))) ∧
  (∀ (h : W32) (e : BitVec 16) (s : State), s.ump.porN = true → blank s = false →
    (refAddOp none h 1 s = .error e → Gives (exec (.refAdd h) s) fun t => t.rack.objs = s.rack.objs) ∧
    (refSubOp none h 1 s = .error e → Gives (exec (.refSub h) s) fun t => t.rack.objs = s.rack.objs)) ∧
  (∀ (k seat : Nat) (p : Prog) (w : CWord) (h : W32) (e : BitVec 16) (s s1 : State),
    s1 = unreplayable p.owner (countWord k seat p s) → h = w32 (operandV p.regs w).toNat →
    (Issues s k 0x52 seat p w → refAddOp (some p.ctx) h (refCount w) s1 = .error e →
      exec (.wRefadd k) s = .next (ownerError p.owner 1 { wordRec s1 k seat p e with info := h.toNat } s1)) ∧
    (Issues s k 0x53 seat p w → w.opf % 2 = 1 → refSubOp (some p.ctx) h (refCount w) s1 = .error e →
      exec (.wRefsub k) s = .next (ownerError p.owner 1 { wordRec s1 k seat p e with info := h.toNat } s1)))

/-! ### Fences from the host -/

/-- HOST_SIGNAL performs one MAXU of the value on the aligned fence word in the context of STB_HSIG_CTX, and HOST_FAIL
performs fail_fence with class 1, 2 or 3 (R73, R77, R79); busy reads 1 from then on. An unaligned address, or a class outside
1 to 3, sets bad_value and writes nothing. Where the spec leaves it open or silent it rests on the model's choices,
assumptions 21 and 83. -/
def Obligations.HostSignalsReachTheFence : Prop :=
  (∀ (v : BitVec 63) (s : State), s.ports.hsigBusy = false → blank s = false → computeUp s = true →
    hsigAddrOf s % 8 = 0 → Gives (exec (.hostSignal v) s) fun t =>
      (∃ q, t.ports.at_ = s.ports.at_ ++ [q] ∧ q.op = opMaxu ∧ q.addr = hsigAddrOf s ∧ q.ctx = hsigCtxOf s ∧
        q.opnd = v.setWidth 64) ∧ t.ports.hsigBusy = true ∧ t.ports.hsigBad = false ∧
      t.mar = s.mar ∧ t.rack = s.rack ∧ t.stb = s.stb) ∧
  (∀ (cls : BitVec 7) (code : BitVec 16) (s : State), s.ports.hsigBusy = false → blank s = false → computeUp s = true →
    hsigAddrOf s % 8 = 0 → 1 ≤ cls.toNat → cls.toNat ≤ 3 →
    exec (.hostFail cls code) s = .next (failFenceStart .host (hsigAddrOf s) (hsigCtxOf s) cls.toNat code (hsigBegin s))) ∧
  (∀ (v : BitVec 63) (cls : BitVec 7) (code : BitVec 16) (s : State), s.ports.hsigBusy = false → blank s = false →
    computeUp s = true → hsigAddrOf s % 8 ≠ 0 →
    exec (.hostSignal v) s = .next (hsigBad s) ∧ exec (.hostFail cls code) s = .next (hsigBad s)) ∧
  (∀ (cls : BitVec 7) (code : BitVec 16) (s : State), s.ports.hsigBusy = false → blank s = false → computeUp s = true →
    cls.toNat = 0 ∨ 3 < cls.toNat → exec (.hostFail cls code) s = .next (hsigBad s)) ∧
  (∀ s : State, (hsigBad s).ports.hsigBad = true ∧ (hsigBad s).ports.hsigBusy = false ∧
    (hsigBad s).ports.at_ = s.ports.at_ ∧ hsigBad s = { s with ports := (hsigBad s).ports })

/-! ### Doorbells and fetching -/

/-- A doorbell of a built ring is counted and makes Marshal look at the ring, unless a storm holds it back; one of an unbound
ring counts in MAR_DB_STRAY alone (R94, R95). A storm of doorbells is logged once with E_DOORBELL_STORM; while it lasts the
ring is looked at every 2 µs, and it ends when no doorbell has come for 50 ms (R95). -/
def Obligations.DoorbellsMakeMarshalLook : Prop :=
  (∀ (r : Nat) (s : State), s.ump.porN = true → r < s.build.rings →
    exec (.doorbell r) s = .next (let s1 := noteKnock r (ergCount 10 1 {} s)
      if (s1.ring r).st == .unbound then updMar (fun m => { m with dbStray := satAdd 64 m.dbStray 1 }) s1
      else if (s1.ring r).storm then s1 else lookNow r s1)) ∧
  (∀ (r t0 t : Nat) (s : State), r < s.build.rings → (s.ring r).storm = false → (s.ring r).knockRun = some t0 →
    (s.ring r).lastDoorbell = some t → 50 * msTu < s.now - t0 → s.now - t < 2 * usTu →
    exec (.doorbellStorm r) s = .next (logRec .nothing { LogRec.zero with code := eDoorbellStorm, island := islMar, ring := r }
      (updRing r (fun g => { g with storm := true }) s))) ∧
  (∀ (r : Nat) (s : State), (s.ring r).storm = true → (s.ring r).st ≠ .unbound → 2 * usTu ≤ s.now - (s.ring r).lastLook →
    exec (.stormLook r) s = .next (lookNow r s)) ∧
  (∀ (r t : Nat) (s : State), (s.ring r).storm = true → (s.ring r).lastDoorbell = some t → 50 * msTu ≤ s.now - t →
    Gives (exec (.stormEnd r) s) fun u => u.ring r = { s.ring r with storm := false, knockRun := none } ∧
      (∀ q, q ≠ r → u.ring q = s.ring q) ∧ u = { s with mar := { s.mar with rings := u.mar.rings } })

/-- INVALIDATE of a ring not fed by ENQUEUE, from a count not before begun, discards every cached, fetched or asked-for entry
from that count on, moves fetch back to it and holds the ring there; DB_RELEASE ends the hold and acts as a doorbell. One
before begun, of an unbound ring or of a ring fed by ENQUEUE is refused and changes nothing else (R101, R102). The first 64
bytes that Marshal has read at the next count it needs are taken as that entry (R88); an entry whose check code was wrong is
read once more after 2 µs (R89). Where the spec leaves it open or silent it rests on the model's choices, assumptions 12 and
14. -/
def Obligations.EntriesAreFetchedTakenAndForgotten : Prop :=
  (∀ (r : Nat) (since : Count) (s : State), blank s = false → r < s.build.rings → (s.ring r).st ≠ .unbound →
    cntLt since (s.ring r).begun = false → (s.ring r).level = 0 →
    exec (.invalidate r since) s = .next (settle r (unoffer r (forgetReads r (fun c => !(cntLt c since))
      (updRing r (fun g => { g with
        cache := g.cache.filter (fun c => cntLt c.count since), reads := g.reads.filter (fun c => cntLt c since),
        raws := g.raws.filter (fun c => cntLt c.count since),
        fetch := if cntLt since g.fetch then since else g.fetch, sawFree := g.sawFree && cntLt g.fetch since,
        held := true, holdAt := since, invalRefused := false }) s))))) ∧
  (∀ (r : Nat) (since : Count) (s : State), blank s = false → r < s.build.rings →
    (s.ring r).st = .unbound ∨ cntLt since (s.ring r).begun = true ∨ 0 < (s.ring r).level →
    Gives (exec (.invalidate r since) s) fun t => t.ring r = { s.ring r with invalRefused := true } ∧
      (∀ q, q ≠ r → t.ring q = s.ring q) ∧ t = { s with mar := { s.mar with rings := t.mar.rings } }) ∧
  (∀ (r : Nat) (s : State), blank s = false → r < s.build.rings →
    exec (.dbRelease r) s = .next (knock r (updRing r (fun g => { g with held := false }) s))) ∧
  (∀ (r : Nat) (w : Raw) (s : State), nextRaw (s.ring r) = some w →
    exec (.entryFetched r) s = .next (policy (settle r (takeRaw r w s)))) ∧
  (∀ (r : Nat) (w : Raw) (s : State), (s.ring r).raws = [w] → w.second = false → w.err = .ok → enOwn w.words = true →
    enCheck w.words ≠ entryCrc w.words → 2 * usTu ≤ s.now - w.at_ →
    exec (.entryReread r) s = .next (readEntry r w.count true (dropRaw r w.count s)))

/-! ### Ring commands -/

/-- BIND, PIN, UNPIN and UPDATE (R98): BIND loads the selected ring from its registers and counts it in its context; PIN gives
it a seat of its own and drains what stands in the way; UNPIN ends that; UPDATE loads the policy fields again. UNBIND of a
bound ring with an empty window and no entry running frees its seat and leaves the counts, the registers and the doorbell
state of the ring (R98). RESTART of a STOPPED ring goes on with the entry it stopped at, or past it with skip (R113); ABANDON
fails the entries of the next 2^log2 counts (R114), logged with E_RING_ABANDONED. While an ABANDON is in progress its busy bit
reads 1 and the driver must not write MAR_RING_CMD (R97): a ring command then is a violation, whose behaviour the spec does
not define (R1). A command whose conditions do not hold sets cmd_err and changes nothing else (R98). Where the spec leaves it
open or silent it rests on the model's choices, assumptions 6, 22, 24 and 94. -/
def Obligations.RingCommandsTakeEffect : Prop :=
  (∀ s : State, s.ump.porN = true → abandoning (s.ring (ringSel s)) = false → bindOk s = true →
    exec .bind s = .next (let s1 := updRing (ringSel s) boundRing s
      lookNow (ringSel s) (queuePub (ringSel s) [.record 0 0] (countRing (s1.ring (ringSel s)).ctx (· + 1) s1)))) ∧
  (∀ (i : Nat) (s : State), s.ump.porN = true → abandoning (s.ring (ringSel s)) = false → pinOk s i = true →
    (s.seat i).ring = none → (s.ring (ringSel s)).seat = none →
    exec (.pin i) s = .next (policy (updRing (ringSel s) (fun g => { g with pin := some i }) (ringClear s)))) ∧
  (∀ s : State, s.ump.porN = true → abandoning (s.ring (ringSel s)) = false → ringCmdOk s = true → (s.ring (ringSel s)).st ≠ .unbound →
    (s.ring (ringSel s)).pin.isSome = true →
    exec .unpin s = .next (policy (settle (ringSel s) (updRing (ringSel s) (fun g => { g with pin := none }) (ringClear s))))) ∧
  (∀ s : State, s.ump.porN = true → abandoning (s.ring (ringSel s)) = false → ringCmdOk s = true → (s.ring (ringSel s)).st ≠ .unbound →
    exec .update s = .next (policy (settle (ringSel s) (updRing (ringSel s) loadPolicyRegs (ringClear s))))) ∧
  (∀ s : State, exec .seatPolicy s = .next (policy s)) ∧
  (∀ s : State, s.ump.porN = true → abandoning (s.ring (ringSel s)) = false → ringCmdOk s = true → (s.ring (ringSel s)).st ≠ .unbound →
    (s.ring (ringSel s)).begun = (s.ring (ringSel s)).head → ringRunning s (s.ring (ringSel s)) = false →
    (s.ring (ringSel s)).seat = none →
    exec .unbind s = .next (policy (countRing (s.ring (ringSel s)).ctx (· - 1) (forgetReads (ringSel s) (fun _ => true)
      (updRing (ringSel s) (fun g => { Ring.reset with
        regBase := g.regBase, regCmpl := g.regCmpl, regCfg := g.regCfg, regStartSeq := g.regStartSeq, regEnq := g.regEnq,
        head := g.head, begun := g.begun, fetch := g.fetch, recHead := g.recHead, lastDoorbell := g.lastDoorbell,
        knockRun := g.knockRun, storm := g.storm }) s))))) ∧
  (∀ (skip : Bool) (s : State), s.ump.porN = true → ringCmdOk s = true → (s.ring (ringSel s)).st = .stopped →
    (s.ring (ringSel s)).mode = .normal → (s.ring (ringSel s)).reason ≤ 7 →
    exec (.restart skip) s = .next (ringGoesOn (ringSel s) (if skip then skipLatched (ringSel s) (ringClear s)
      else updRing (ringSel s) (fun g => { g with fetch := g.latched }) (ringClear s)))) ∧
  (∀ s : State, s.ump.porN = true → ringCmdOk s = true → (s.ring (ringSel s)).st = .stopped → (s.ring (ringSel s)).mode = .normal →
    exec .abandon s = .next (policy (settle (ringSel s) (forgetReads (ringSel s) (fun _ => true)
      (updRing (ringSel s) (fun g => { g with
        mode := .abandon (2 ^ g.log2), latchPending := false, cache := [], reads := [], raws := [],
        fetch := g.begun, sawFree := false })
        (logRec .nothing { LogRec.zero with
          cls := 2, code := eRingAbandoned, island := islMar, ctx := (s.ring (ringSel s)).ctx, ring := ringSel s,
          count := (s.ring (ringSel s)).begun } (ringClear s))))))) ∧
  (∀ (i : Nat) (skip : Bool) (s : State), abandoning (s.ring (ringSel s)) = true →
    ∀ c, c ∈ [Instr.bind, .unbind, .restart skip, .abandon, .pin i, .unpin, .update] →
      exec c s = .fault (.portProtocol "MAR_RING_CMD")) ∧
  (∀ (skip : Bool) (s : State), s.ump.porN = true → ringCmdOk s = true → (s.ring (ringSel s)).st = .stopped →
    (s.ring (ringSel s)).mode = .normal →
    ((s.ring (ringSel s)).reason = 8 ∨ (s.ring (ringSel s)).reason = 9 →
      exec (.restart skip) s = .next (ringGoesOn (ringSel s) (ringClear s))) ∧
    ((s.ring (ringSel s)).reason = 10 → exec (.restart skip) s = .next (ringGoesOn (ringSel s)
      (queuePub (ringSel s) [recordStep (s.ring (ringSel s))]
        (updRing (ringSel s) (fun g => { g with st := .idle }) (ringClear s)))))) ∧
  (∀ s : State, s.ump.porN = true → abandoning (s.ring (ringSel s)) = false →
    (bindOk s = false → exec .bind s = .next (ringRefuse s)) ∧
    (∀ i, pinOk s i = false → exec (.pin i) s = .next (ringRefuse s)) ∧
    ((s.ring (ringSel s)).st = .unbound → exec .unbind s = .next (ringRefuse s) ∧ exec .unpin s = .next (ringRefuse s) ∧
      exec .update s = .next (ringRefuse s)) ∧
    ((s.ring (ringSel s)).st ≠ .stopped → exec .abandon s = .next (ringRefuse s) ∧
      ∀ skip, exec (.restart skip) s = .next (ringRefuse s)) ∧
    ringRefuse s = updRing (ringSel s) (fun g => { g with cmdErr := true }) s)

/-- A completion interrupt put off by the ring's hold-off is raised once the hold-off has passed (R109). An entry whose
timeout has expired fails with class 2, E_ENTRY_TIMEOUT, and stops its ring, when it lies on no cycle of the wait-for graph;
when it lies on one, that cycle is broken at its latest WAITF (R110, R111, R243). Where the spec leaves it open or silent it
rests on the model's choices, assumptions 27 and 28. -/
def Obligations.RingTimersExpire : Prop :=
  (∀ (r : Nat) (s : State), (s.ring r).irqDue = true → (s.ring r).irqLast.getD 0 + (s.ring r).irqHoldoff * usTu ≤ s.now →
    exec (.irqHoldoffEnd r) s = .next (ringIrq r s)) ∧
  (∀ (r : Nat) (c : Count) (posted : List (Nat × Count × List W64)) (w : Work) (t0 t : Nat) (s : State),
    s.work? (.entry r c) = some w → w.timer = some t0 → entryTimeoutTu w = some t → w.done = false →
    t0 + t ≤ s.now → s.ump.rst ≠ .dead →
    (shortCycles s (graphNodes s posted) ⟨r, c, w.words, some w⟩).bind (latestWait s) = none →
    exec (.entryTimeout r c posted) s = .next (
      let s1 := updWork (.entry r c) (fun w => { w with timer := none }) s
      failSeat (.entry r c) 8 eEntryTimeout (logRec (.ring r) (ownerRec (.entry r c) s1
        { LogRec.zero with cls := 2, code := eEntryTimeout, island := islMar, tag := enTag w.words }) s1))) ∧
  (∀ (r : Nat) (c : Count) (posted : List (Nat × Count × List W64)) (w : Work) (t0 t : Nat) (s : State)
    (y : GNode) (v : Work) (p : Prog),
    s.work? (.entry r c) = some w → w.timer = some t0 → entryTimeoutTu w = some t → w.done = false →
    t0 + t ≤ s.now → s.ump.rst ≠ .dead →
    (shortCycles s (graphNodes s posted) ⟨r, c, w.words, some w⟩).bind (latestWait s) = some (y, v, p) →
    exec (.entryTimeout r c posted) s = .next (resolveDeadlock s (graphNodes s posted) ⟨r, c, w.words, some w⟩ (.entry r c) y v p))

/-! ### Cox cores -/

/-- An idle core takes the best READY seat and begins its program; a core whose slice is used up goes to the next seat
assigned to it; a released seat goes to the core with the fewest assigned seats (R131, R148). Where the spec leaves it open or
silent it rests on the model's choice, assumption 37. -/
def Obligations.CoresTakeYieldAndResumeSeats : Prop :=
  (∀ (k seat : Nat) (s : State), computeUp s = true → k < s.build.coxCores → (s.core k).st = .idle → (s.core k).seats = [] →
    best (readyBefore s) (readySeats s) = some seat →
    exec (.coreTakeSeat k) s = .next (
      let s2 := takeSeat k seat (updCore k (fun c => { c with seats := [seat], st := .exec, stall := .none, since := s.now }) s)
      match (s2.seat seat).ring with
      | some r => settle r s2
      | none => s2)) ∧
  (∀ (k seat next : Nat) (rest : List Nat) (p : Prog) (s : State), computeUp s = true → k < s.build.coxCores →
    (s.core k).st = .exec → (s.core k).seats = seat :: next :: rest → s.prog? seat = some p → sliceLen s ≤ p.sliceWords →
    next ≠ seat → Gives (exec (.sliceYield k) s) fun t =>
      (t.core k).seats = next :: rest ++ [seat] ∧ t.prog? seat = some { p with park := .slice, sliceWords := 0 } ∧
      (∀ q, s.prog? next = some q → t.prog? next = some { q with park := .none, sliceWords := 0 }) ∧
      t.mar.rings = s.mar.rings ∧ t.mar.slots = s.mar.slots ∧ t.ports = s.ports ∧ t.ump = s.ump ∧ t.rack = s.rack) ∧
  (∀ (seat k : Nat) (p : Prog) (s : State), s.prog? seat = some p → computeUp s = true → p.released = true →
    (s.seat seat).st = .wait →
    best (fun a b => (s.core a).seats.length < (s.core b).seats.length) (List.range s.build.coxCores) = some k →
    Gives (exec (.seatResume seat) s) fun t =>
      (t.core k).seats = (s.core k).seats ++ [seat] ∧ (t.seat seat).st = .run ∧
      t.prog? seat = some { p with park := .none, released := false, sliceWords := 0 } ∧
      t.mar.rings = s.mar.rings ∧ t.ports = s.ports ∧ t.ump = { s.ump with hang := t.ump.hang } ∧ t.rack = s.rack)

/-! ### Control words of flow and arithmetic -/

/-- NOP, JUMP, BRANCH, LOOP and RETC set the pc of their program as R125 and R161 say, LOOP counts its register down and sets
Z, and RETC takes back what CALLC put into the frame; nothing outside the program changes but what counting and reading ahead
change. -/
def Obligations.FlowWordsSetThePc : Prop :=
  ∀ (k seat : Nat) (p : Prog) (w : CWord) (s : State),
    (Issues s k 0x00 seat p w → Gives (exec (.wNop k) s) fun t =>
      WordFrame seat s t ∧ t.prog? seat = some p.counted.past) ∧
    (Issues s k 0x02 seat p w → operandA p.regs w < p.len → Gives (exec (.wJump k) s) fun t =>
      WordFrame seat s t ∧ t.prog? seat = some { p.counted with pc := operandA p.regs w }) ∧
    (Issues s k 0x03 seat p w → fld w.w1 0 24 < p.len → Gives (exec (.wBranch k) s) fun t =>
      WordFrame seat s t ∧ t.prog? seat = some (if branchTaken w.sub (p.regs.get w.ra) (operandV p.regs w) p.z p.f
        then { p.counted with pc := fld w.w1 0 24 } else p.counted.past)) ∧
    (Issues s k 0x04 seat p w → fld w.w1 0 24 < p.len → Gives (exec (.wLoop k) s) fun t =>
      WordFrame seat s t ∧ t.prog? seat = some { p.counted with
        regs := p.regs.set w.rd (p.regs.get w.rd - 1), z := zOf (p.regs.get w.rd - 1), zown := none,
        pc := if p.regs.get w.rd - 1 = 0 then p.pc + 1 else fld w.w1 0 24 }) ∧
    (∀ (fr : Frame) (rest : List Frame), Issues s k 0x06 seat p w → p.frames = fr :: rest →
      Gives (exec (.wRetc k) s) fun t => WordFrame seat s t ∧ t.prog? seat = some { p.counted with
        frames := rest, pc := fr.retPc, base := fr.base, len := fr.len, tag := fr.tag,
        regs := (((p.regs.set 12 fr.c12).set 13 fr.c13).set 14 fr.c14).set 15 fr.c15 })

/-- SETC and ADDC write their destination register and go on (R121, R122): SETC takes the operand, the time, the flags or the
word SELF and leaves Z; ADDC takes the result of its sub-operation and sets Z by it. No other register, flag or program
changes. The
sub-operations of ADDC are add, subtract, and, or, exclusive or, the shifts by the low six bits of the operand, and multiply,
all modulo 2^64; Z is 1 when the result is zero. -/
def Obligations.ArithmeticWordsWriteOneRegister : Prop :=
  (∀ (k seat : Nat) (p : Prog) (w : CWord) (s : State),
    (Issues s k 0x10 seat p w → Gives (exec (.wSetc k) s) fun t =>
      WordFrame seat s t ∧ t.prog? seat = some { p.counted.past with regs := p.regs.set w.rd (match w.sub with
        | 0 => operandV p.regs w
        | 1 => w64 s.now
        | 2 => flagsWord p.z p.f
        | _ => selfWord p.ctx p.owner seat k) }) ∧
    (Issues s k 0x11 seat p w → Gives (exec (.wAddc k) s) fun t =>
      WordFrame seat s t ∧ t.prog? seat = some { p.counted.past with
        regs := p.regs.set w.rd (addcResult w.sub (p.regs.get w.ra) (operandV p.regs w)),
        z := zOf (addcResult w.sub (p.regs.get w.ra) (operandV p.regs w)), zown := none })) ∧
  (∀ a v : W64, addcResult 0 a v = a + v ∧ addcResult 1 a v = a - v ∧ addcResult 2 a v = a &&& v ∧ addcResult 3 a v = a ||| v ∧
    addcResult 4 a v = a ^^^ v ∧ (addcResult 5 a v).toNat = a.toNat * 2 ^ (v.toNat % 64) % 2 ^ 64 ∧
    (addcResult 6 a v).toNat = a.toNat / 2 ^ (v.toNat % 64) ∧ addcResult 7 a v = a * v ∧ (zOf a = true ↔ a = 0))

/-- END and HEATEND, and RETC with no frame left, end the program: of an entry at once, of a heat when c12 = 0; a heat whose
c12 is not 0 fails with E_HEAT_COURSE_STATUS, and HEATEND outside a heat's program is an illegal word (R125, R266); CALLC of a course that
resolves to a body without a parameter layout pushes a frame and enters the body, and an eighth call fails with E_CALL_DEPTH
(R160). -/
def Obligations.ProgramsEndAndCall : Prop :=
  ∀ (k seat : Nat) (p : Prog) (w : CWord) (s : State),
    (∀ (r : Nat) (c : Count), Issues s k 0x01 seat p w → p.owner = .entry r c →
      exec (.wEnd k) s = .next (endProgram seat (countWord k seat p s))) ∧
    (∀ l h : Nat, Issues s k 0x01 seat p w → p.owner = .heat l h → p.regs.get 12 = 0 →
      exec (.wEnd k) s = .next (endProgram seat (countWord k seat p s))) ∧
    (∀ l h : Nat, Issues s k 0xA0 seat p w → p.owner = .heat l h → p.regs.get 12 = 0 →
      exec (.wHeatend k) s = .next (endProgram seat (countWord k seat p s))) ∧
    (∀ (pin : Pin) (s1 : State), Issues s k 0x05 seat p w → callDepth p < 7 →
      resolveCourse p.owner p.ctx (w32 (fld w.w1 0 32)) (fld w.w1 32 16) (countWord k seat p s) = .ok (pin, s1) →
      pin.layout = 0 →
      exec (.wCallc k) s = .next (enterCourse seat pin (operandV p.regs w) s1)) ∧
    (∀ (r : Nat) (c : Count), Issues s k 0x06 seat p w → p.frames = [] → p.owner = .entry r c →
      exec (.wRetc k) s = .next (endProgram seat (countWord k seat p s))) ∧
    (∀ l h : Nat, Issues s k 0x06 seat p w → p.frames = [] → p.owner = .heat l h → p.regs.get 12 = 0 →
      exec (.wRetc k) s = .next (endProgram seat (countWord k seat p s))) ∧
    (∀ l h : Nat, p.owner = .heat l h → p.regs.get 12 ≠ 0 → ∀ t : State, t = ownerError (.heat l h) 1
        { wordRec (countWord k seat p s) k seat p eHeatCourseStatus with info := fld (p.regs.get 12) 0 32 }
        (countWord k seat p s) →
      (Issues s k 0x01 seat p w → exec (.wEnd k) s = .next t) ∧
      (Issues s k 0xA0 seat p w → exec (.wHeatend k) s = .next t) ∧
      (Issues s k 0x06 seat p w → p.frames = [] → exec (.wRetc k) s = .next t)) ∧
    (∀ (r : Nat) (c : Count), Issues s k 0xA0 seat p w → p.owner = .entry r c →
      exec (.wHeatend k) s = .next (wordFail k seat p 2 eBadOpcode (countWord k seat p s))) ∧
    (Issues s k 0x05 seat p w → 7 ≤ callDepth p →
      exec (.wCallc k) s = .next (wordFail k seat p 1 eCallDepth (countWord k seat p s)))

/-! ### Control words of memory, waiting and signalling -/

/-- LOADC, STOREC and ATOMC with an aligned address, in a context they may act for, and with a tag free on their port, send
one request and go on (R126, R145): a read of memSize bytes, a write of the operand's low bytes, or one atomic operation. With
no tag free the word is held before it issues, and its core stalls. Where the spec leaves it open or silent it rests on the
model's choices, assumptions 19, 29 and 96. -/
def Obligations.MemoryWordsSendOneRequest : Prop :=
  ∀ (k seat : Nat) (p : Prog) (w : CWord) (ctx : CtxId) (s s1 : State), s1 = countWord k seat p s → actCtx s1 p w = .ok ctx →
    (Issues s k 0x12 seat p w → operandA p.regs w % memSize w.sub = 0 →
      poisonedAt s1 (operandA p.regs w) (memSize w.sub) = false → s1.ports.nm.length < portTags →
      exec (.wLoadc k) s = .next (advance seat (updProg seat
        (fun p => { p with zown := some (0, leastFree (s1.ports.nm.map (·.tag)) s1.ports.nm.length 0) })
        (issueNm false (operandA p.regs w) ctx [] (memSize w.sub) seat (.loadc p.owner seat w.rd (memSize w.sub) p.pos)
          (islCox k) (moreReqs p.owner s1))))) ∧
    (Issues s k 0x13 seat p w → operandA p.regs w % memSize w.sub = 0 → s1.ports.nm.length < portTags →
      exec (.wStorec k) s = .next (advance seat (issueNm true (operandA p.regs w) ctx
        (leBytes (operandV p.regs w).toNat (memSize w.sub)) (memSize w.sub) seat (.storec p.owner seat p.pos) (islCox k)
        (moreReqs p.owner s1)))) ∧
    (Issues s k 0x14 seat p w → operandA p.regs w % 8 = 0 → poisonedAt s1 (operandA p.regs w) 8 = false →
      s1.ports.at_.length < portTags → ∀ (cmp : W64) (s2 : State), cmp = (if w.opf % 2 == 1 then p.regs.get w.rd else w.w3) →
      s2 = (if w.sub = opAdd ∨ w.sub = opSwap ∨ w.sub = opCas then unreplayable p.owner s1 else s1) →
      exec (.wAtomc k) s = .next (advance seat (updProg seat
        (fun p => { p with zown := some (1, leastFree (s1.ports.at_.map (·.tag)) s1.ports.at_.length 0) })
        (issueAt w.sub (operandA p.regs w) ctx (operandV p.regs w) cmp
          (.atomc p.owner seat w.rd (if w.sub = opCas then some cmp else none) p.pos) (islCox k) (moreReqs p.owner s2))))) ∧
    (portTags ≤ s1.ports.nm.length → operandA p.regs w % memSize w.sub = 0 →
      (Issues s k 0x12 seat p w → poisonedAt s1 (operandA p.regs w) (memSize w.sub) = false →
        exec (.wLoadc k) s = .next (stallCore k .order s)) ∧
      (Issues s k 0x13 seat p w → exec (.wStorec k) s = .next (stallCore k .order s))) ∧
    (portTags ≤ s1.ports.at_.length → operandA p.regs w % 8 = 0 → poisonedAt s1 (operandA p.regs w) 8 = false →
      Issues s k 0x14 seat p w → exec (.wAtomc k) s = .next (stallCore k .order s))

/-- WAITF hands its fence to Stakeboat and its core holds the word until the first read returns; WAITT whose time has come
goes on at once and otherwise parks its seat (R128, R129, R150). SIGNALF, and SIGNALX to the block's own chip, perform one
MAXU on the fence; SIGNALX to another chip makes one crossing record with the next sequence number, sends it when the link is
up, and is held while 256 records to that chip or 4,096 in all wait for their answer (R132, R133, R233). Where the spec leaves
it open or silent it rests on the model's choices, assumptions 19, 29, 36, 95 and 96. -/
def Obligations.WaitAndSignalWordsAct : Prop :=
  ∀ (k seat : Nat) (p : Prog) (w : CWord) (s s1 : State), s1 = countWord k seat p s →
    (∀ ctx, actCtx s1 p w = .ok ctx → operandA p.regs w % 8 = 0 → bit (operandV p.regs w) 63 = false →
      (Issues s k 0x20 seat p w → poisonedAt s1 (operandA p.regs w) 8 = false →
        exec (.wWaitf k) s = .next (stallCore k .unit (registerWait seat (operandA p.regs w) ctx (operandV p.regs w) none
          (updProg seat (fun q => { q with
            issuedAt := s1.now, deadline := deadlineOf s1.now w.imm, park := .waitf w.rd w.soft (operandA p.regs w),
            released := false }) s1)))) ∧
      (Issues s k 0x21 seat p w →
        exec (.wSignalf k) s = .next (advance seat (issueAt opMaxu (operandA p.regs w) ctx (operandV p.regs w) 0
          (.signal p.owner seat (operandV p.regs w) p.pos) islStb (moreReqs p.owner s1)))) ∧
      (Issues s k 0x22 seat p w → w16 w.imm = chipId s1 →
        exec (.wSignalx k) s = .next (advance seat (issueAt opMaxu (operandA p.regs w) ctx (operandV p.regs w) 0
          (.signal p.owner seat (operandV p.regs w) p.pos) islStb (moreReqs p.owner s1)))) ∧
      (Issues s k 0x22 seat p w → w16 w.imm ≠ chipId s1 → s1.stb.outs.length < 4096 →
        (s1.stb.outs.filter fun o => o.dst == w16 w.imm).length < 256 → s1.stb.link ≠ .up →
        exec (.wSignalx k) s = .next (advance seat (moreReqs p.owner (updStb (fun b => { b with
          nextSeq := b.nextSeq.set (w16 w.imm).toNat ((w32 (s1.stb.nextSeq.get (w16 w.imm).toNat)).toNat + 1),
          outs := b.outs ++ [⟨w16 w.imm, w32 (s1.stb.nextSeq.get (w16 w.imm).toNat), p.owner, seat, ctx, operandA p.regs w,
            operandV p.regs w, p.pos, false, s1.now, s1.now⟩] }) s1)))) ∧
      (∀ o : OutRec, o = ⟨w16 w.imm, w32 (s1.stb.nextSeq.get (w16 w.imm).toNat), p.owner, seat, ctx, operandA p.regs w,
          operandV p.regs w, p.pos, false, s1.now, s1.now⟩ →
        (Issues s k 0x22 seat p w → w16 w.imm ≠ chipId s1 → s1.stb.outs.length < 4096 →
          (s1.stb.outs.filter fun o => o.dst == w16 w.imm).length < 256 →
          exec (.wSignalx k) s = .next (advance seat (sendSignal o false (moreReqs p.owner (updStb (fun b => { b with
            nextSeq := b.nextSeq.set (w16 w.imm).toNat (o.seq.toNat + 1), outs := b.outs ++ [o] }) s1))))) ∧
        (Issues s k 0x22 seat p w → w16 w.imm ≠ chipId s1 → 4096 ≤ s1.stb.outs.length ∨
            256 ≤ (s1.stb.outs.filter fun o => o.dst == w16 w.imm).length →
          exec (.wSignalx k) s = .next (stallCore k .order s)))) ∧
    (∀ t, t = (if w.opf % 2 == 1 then (s1.now + (operandV p.regs w).toNat) % 2 ^ 64 else (operandV p.regs w).toNat) →
      (Issues s k 0x23 seat p w → t ≤ s1.now →
        exec (.wWaitt k) s = .next (advance seat (noteRelease seat p 2 0 false false false s1))) ∧
      (Issues s k 0x23 seat p w → s1.now < t →
        exec (.wWaitt k) s = .next (parkSeat k seat (.waitt t) s1)))

/-- A word that fails one of its checks performs nothing and fails with its class and code: a JUMP, BRANCH or LOOP whose
target is at or beyond the length of the running program with class 2, E_PROGRAM_BOUNDS (R125); LOADC, STOREC and ATOMC at a
misaligned address with E_BAD_OPERAND (R126) and for a context they may not act for with the class and code of R145; WAITF,
SIGNALF and SIGNALX at a misaligned fence address or with bit 63 of the fence value set with class 1, E_FENCE_VALUE (R128,
R132, R133). Where the spec leaves it open or silent it rests on the model's choices, assumptions 35 and 96. -/
def Obligations.WordsCheckTheirOperandsFirst : Prop :=
  ∀ (k seat : Nat) (p : Prog) (w : CWord) (s s1 : State), s1 = countWord k seat p s →
    (Issues s k 0x02 seat p w → p.len ≤ operandA p.regs w →
      exec (.wJump k) s = .next (wordFail k seat p 2 eProgramBounds s1)) ∧
    (Issues s k 0x03 seat p w → p.len ≤ fld w.w1 0 24 →
      exec (.wBranch k) s = .next (wordFail k seat p 2 eProgramBounds s1)) ∧
    (Issues s k 0x04 seat p w → p.len ≤ fld w.w1 0 24 →
      exec (.wLoop k) s = .next (wordFail k seat p 2 eProgramBounds s1)) ∧
    (∀ ctx, actCtx s1 p w = .ok ctx → NotHeld k (wordFailAt k seat p 1 eBadOperand (operandA p.regs w) s1) →
      (Issues s k 0x12 seat p w → operandA p.regs w % memSize w.sub ≠ 0 →
        exec (.wLoadc k) s = .next (wordFailAt k seat p 1 eBadOperand (operandA p.regs w) s1)) ∧
      (Issues s k 0x13 seat p w → operandA p.regs w % memSize w.sub ≠ 0 →
        exec (.wStorec k) s = .next (wordFailAt k seat p 1 eBadOperand (operandA p.regs w) s1)) ∧
      (Issues s k 0x14 seat p w → operandA p.regs w % 8 ≠ 0 →
        exec (.wAtomc k) s = .next (wordFailAt k seat p 1 eBadOperand (operandA p.regs w) s1))) ∧
    (∀ (c : Nat) (e : BitVec 16), actCtx s1 p w = .error (c, e) → NotHeld k (wordFailAt k seat p c e (operandA p.regs w) s1) →
      (Issues s k 0x12 seat p w → exec (.wLoadc k) s = .next (wordFailAt k seat p c e (operandA p.regs w) s1)) ∧
      (Issues s k 0x13 seat p w → exec (.wStorec k) s = .next (wordFailAt k seat p c e (operandA p.regs w) s1)) ∧
      (Issues s k 0x14 seat p w → exec (.wAtomc k) s = .next (wordFailAt k seat p c e (operandA p.regs w) s1))) ∧
    (operandA p.regs w % 8 ≠ 0 ∨ bit (operandV p.regs w) 63 = true →
      (Issues s k 0x20 seat p w → exec (.wWaitf k) s = .next (wordFailAt k seat p 1 eFenceValue (operandA p.regs w) s1)) ∧
      (Issues s k 0x21 seat p w → exec (.wSignalf k) s = .next (wordFailAt k seat p 1 eFenceValue (operandA p.regs w) s1)) ∧
      (Issues s k 0x22 seat p w → NotHeld k (wordFailAt k seat p 1 eFenceValue (operandA p.regs w) s1) →
        exec (.wSignalx k) s = .next (wordFailAt k seat p 1 eFenceValue (operandA p.regs w) s1)))

/-- A parked WAITT is released when its time is reached (R129), and a parked WAITF or BARRIER whose timeout has passed fails
with E_WAIT_TIMEOUT, a WAITF once no read for its waiter is in flight (R128, R218). Where the spec leaves it open or silent it
rests on the model's choice, assumption 36. -/
def Obligations.ParkedWaitsEndByTime : Prop :=
  (∀ (seat t : Nat) (p : Prog) (s : State), s.prog? seat = some p → p.park = .waitt t → p.released = false →
    (s.seat seat).st = .wait → t ≤ s.now → computeUp s = true →
    exec (.waittRelease seat) s = .next (releaseProg seat (noteRelease seat p 2 0 false false true s))) ∧
  (∀ (seat t rd a : Nat) (soft : Bool) (p : Prog) (s : State), s.prog? seat = some p → p.deadline = some t → t ≤ s.now →
    p.released = false → computeUp s = true → p.park = .waitf rd soft a →
    readOut s (s.stb.waiters.get seat) = false → exec (.waitTimeout seat) s = .next (failWait seat p s)) ∧
  (∀ (seat t rd a : Nat) (soft : Bool) (p : Prog) (s : State), s.prog? seat = some p → p.deadline = some t → t ≤ s.now →
    p.released = false → computeUp s = true → p.park = .waitf rd soft a →
    readOut s (s.stb.waiters.get seat) = true →
    exec (.waitTimeout seat) s = .next (updWaiter seat (fun w => { w with timedOut := true }) s)) ∧
  (∀ (seat t mask : Nat) (mem : Bool) (p : Prog) (s : State), s.prog? seat = some p → p.deadline = some t → t ≤ s.now →
    p.released = false → computeUp s = true → p.park = .barrier mask mem →
    exec (.waitTimeout seat) s = .next (failWait seat p s))

/-! ### Control words of launching, saving and memory management -/

/-- LAUNCH and CREWLAUNCH with good operands put one message into the seat's tree and add the pieces to their group when the
root takes it and the group has room; the core holds the launch otherwise (R134 to R137), and TREE_ACCEPT issues it again.
BARRIER that is met goes on; one that is not parks its seat (R138). Where the spec leaves it open or silent it rests on the
model's choices, assumptions 13 and 96. -/
def Obligations.LaunchWordsEnterTheTree : Prop :=
  ∀ (k seat : Nat) (p : Prog) (w : CWord) (s s1 : State), s1 = countWord k seat p s →
    (∀ (ctx : CtxId) (m : LaunchMsg), actCtx s1 p w = .ok ctx → (operandV p.regs w).toNat < 2 ^ 25 →
      fld (operandV p.regs w) 0 9 < s1.build.clusters → fld (operandV p.regs w) 9 3 < s1.build.engines →
      1 ≤ fld (operandV p.regs w) 12 13 → fld (operandV p.regs w) 12 13 ≤ 4096 → operandA p.regs w % 64 = 0 →
      m = { progMsg s1 seat p ctx .piece (w.opf % 4) with
        target := fld (operandV p.regs w) 0 9, engine := fld (operandV p.regs w) 9 3,
        count := fld (operandV p.regs w) 12 13, piece := operandA p.regs w } →
      (Issues s k 0x30 seat p w → groupFull s1 p.owner m.group 1 = false → treeRefuses s1 (seatTree s1 seat) = false →
        exec (.wLaunch k) s = .next (advance seat (enterTree (seatTree s1 seat) m (addGroup p.owner m.group 1 s1)))) ∧
      (Issues s k 0x30 seat p w → groupFull s1 p.owner m.group 1 = true ∨ treeRefuses s1 (seatTree s1 seat) = true →
        exec (.wLaunch k) s = .next (stallCore k .tree s1))) ∧
    (∀ (ctx : CtxId) (m : LaunchMsg) (crew : Crew), actCtx s1 p w = .ok ctx → (operandV p.regs w).toNat < 2 ^ 22 →
      crew = crewFor s1 (progMsg s1 seat p ctx .crewPiece (w.opf % 4)).epoch (fld (operandV p.regs w) 0 6) →
      crew.defined = true → fld (operandV p.regs w) 6 3 < s1.build.engines → 1 ≤ fld (operandV p.regs w) 9 13 →
      fld (operandV p.regs w) 9 13 ≤ 4096 → operandA p.regs w % 64 = 0 → fld w.w3 0 32 % 64 = 0 →
      m = { progMsg s1 seat p ctx .crewPiece (w.opf % 4) with
        target := fld (operandV p.regs w) 0 6, engine := fld (operandV p.regs w) 6 3, count := fld (operandV p.regs w) 9 13,
        piece := operandA p.regs w, stride := fld w.w3 0 32 / 64, aligned := crew.aligned } →
      (Issues s k 0x31 seat p w → groupFull s1 p.owner m.group crew.members.length = false →
        treeRefuses s1 (seatTree s1 seat) = false →
        exec (.wCrewlaunch k) s =
          .next (advance seat (enterTree (seatTree s1 seat) m (addGroup p.owner m.group crew.members.length s1)))) ∧
      (Issues s k 0x31 seat p w →
        groupFull s1 p.owner m.group crew.members.length = true ∨ treeRefuses s1 (seatTree s1 seat) = true →
        exec (.wCrewlaunch k) s = .next (stallCore k .tree s1))) ∧
    ((operandV p.regs w).toNat < 32 →
      (Issues s k 0x32 seat p w → barrierMet s1 seat p.owner (fld (operandV p.regs w) 0 4) (bit (operandV p.regs w) 4) = true →
        exec (.wBarrier k) s = .next (advance seat s1)) ∧
      (Issues s k 0x32 seat p w → barrierMet s1 seat p.owner (fld (operandV p.regs w) 0 4) (bit (operandV p.regs w) 4) = false →
        exec (.wBarrier k) s = .next (parkSeat k seat (.barrier (fld (operandV p.regs w) 0 4) (bit (operandV p.regs w) 4))
          (updProg seat (fun p => { p with issuedAt := s1.now, deadline := deadlineOf s1.now w.imm }) s1)))) ∧
    (∀ e : RespErr, computeUp s = true → (s.core k).st = .stall → (s.core k).stall = .tree → running s k = some (seat, p) →
      wordAtPc s k p = some (e, w) →
      (w.op = 0x30 → exec (.treeAccept k) s = .next (launchWord k seat p w (runCore k s))) ∧
      (w.op = 0x31 → exec (.treeAccept k) s = .next (crewlaunchWord k seat p w (runCore k s))))

/-- SAVECTX starts a save, or with address 0 a vacate, of an acting context over the clusters its operand names, with a free
hold slot and a root that takes its HOLD; LOADCTX reads the area's header and starts a restore where it fits (R326, R328).
Where the spec leaves it open or silent it rests on the model's choices, assumptions 35, 43, 44 and 45. -/
def Obligations.SaveAndLoadWordsStartJobs : Prop :=
  ∀ (k seat : Nat) (p : Prog) (w : CWord) (ctx : CtxId) (cs : List Nat) (scope target : Nat) (s s1 : State),
    s1 = countWord k seat p s → actCtx s1 p w = .ok ctx → (operandV p.regs w).toNat < 128 → operandA p.regs w % 4096 = 0 →
    saveScope s1 (jobMsg s1 seat p ctx (w.opf % 4)).epoch (operandV p.regs w).toNat = some (cs, scope, target) →
    (ctxRegions s1 ctx).isEmpty = false → groupFull s1 p.owner (w.opf % 4) cs.length = false →
    (∀ (h : Nat) (t : State), Issues s k 0x40 seat p w → cs.any (heldBySave s1 ctx) = false →
      treeRefuses s1 (seatTree s1 seat) = false → freeHold s1 cs = some h →
      t = advance seat (startSave (if operandA p.regs w = 0 then .vacate else .save) (.prog p.owner seat (w.opf % 4)) ctx
        (operandA p.regs w) h (seatTree s1 seat) cs { jobMsg s1 seat p ctx (w.opf % 4) with scope := scope, target := target }
        (addGroup p.owner (w.opf % 4) cs.length (unreplayable p.owner s1))) →
      exec (.wSavectx k) s = .next t) ∧
    (∀ (header : MemRead) (t : State), Issues s k 0x41 seat p w → poisonedAt s1 (operandA p.regs w) 4096 = false →
      header.err = .ok → headerFits header.bytes ctx cs = true →
      t = advance seat (startRestore (.prog p.owner seat (w.opf % 4)) ctx (operandA p.regs w) (some (leAt header.bytes 4 4)) cs
        (jobMsg s1 seat p ctx (w.opf % 4)) (addGroup p.owner (w.opf % 4) cs.length
          (unreplayable p.owner (ownRead islSld (operandA p.regs w) ctx 128 s1)))) →
      exec (.wLoadctx k header) s = .next t)

/-- ALLOC of a non-zero multiple of 64 bytes puts base and handle of a new object into its registers (R140); REFADD, and
REFSUB and FREE with the now bit, act at once (R141, R142); REFSUB and FREE without it put their drop off to the entry's
completion, while fewer than 256 are. Where the spec leaves it open or silent it rests on the model's choice, assumption 7. -/
def Obligations.ReferenceWordsAct : Prop :=
  ∀ (k seat : Nat) (p : Prog) (w : CWord) (s s1 : State), s1 = countWord k seat p s →
    (∀ (i : Nat) (s2 t : State), Issues s k 0x50 seat p w → (operandV p.regs w).toNat ≠ 0 → (operandV p.regs w).toNat % 64 = 0 →
      allocObject p.ctx (ctxPartition s1 p.ctx) (operandV p.regs w).toNat (bit w.w3 0) s1 = .ok (i, s2) →
      t = advance seat (updProg seat (fun q => { q with
        regs := (q.regs.set w.rd (w64 (s2.rack.objs.get i).base)).set w.ra (w64 (mkHandle i (s2.rack.objs.get i).gen).toNat),
        f := if w.soft then false else q.f }) (unreplayable p.owner s2)) →
      exec (.wAlloc k) s = .next t) ∧
    (∀ (h : W32) (s2 : State), h = w32 (operandV p.regs w).toNat →
      (Issues s k 0x52 seat p w → refAddOp (some p.ctx) h (refCount w) (unreplayable p.owner s1) = .ok s2 →
        exec (.wRefadd k) s = .next (advance seat s2)) ∧
      (Issues s k 0x53 seat p w → w.opf % 2 = 1 → refSubOp (some p.ctx) h (refCount w) (unreplayable p.owner s1) = .ok s2 →
        exec (.wRefsub k) s = .next (advance seat s2)) ∧
      (Issues s k 0x51 seat p w → w.opf % 2 = 1 → freeOp (some p.ctx) h (unreplayable p.owner s1) = .ok s2 →
        exec (.wFree k) s = .next (advance seat s2))) ∧
    (∀ (h : W32) (o : Work), h = w32 (operandV p.regs w).toNat → s1.work? p.owner = some o → o.drops.length < 256 →
      w.opf % 2 = 0 →
      (Issues s k 0x53 seat p w → exec (.wRefsub k) s =
        .next (advance seat (updWork p.owner (fun x => { x with drops := x.drops ++ [⟨h, refCount w, false⟩] }) s1))) ∧
      (Issues s k 0x51 seat p w → exec (.wFree k) s =
        .next (advance seat (updWork p.owner (fun x => { x with drops := x.drops ++ [⟨h, 1, true⟩] }) s1))))

/-- KVGROW and KVTRIM read their list, none of whose tables is being spilled, filled or moved, take its records one after
another (R311, R312, R314) and begin writing what those changed; one that may free pages makes its entry unreplayable. Where
the spec leaves it open or silent it rests on the model's choices, assumptions 8 and 48. -/
def Obligations.KvWordsWorkThroughTheirList : Prop :=
  ∀ (k seat : Nat) (p : Prog) (w : CWord) (m : MemRead) (s s1 : State), s1 = countWord k seat p s →
    (operandV p.regs w).toNat < 65536 → operandA p.regs w % 16 = 0 →
    poisonedAt s1 (operandA p.regs w) (16 * (operandV p.regs w).toNat) = false → m.err = .ok →
    (∀ i, i < (operandV p.regs w).toNat → tabMoves s1 (hIdx (w32 (leAt m.bytes (16 * i) 4))) = false) →
    (∀ (r : KvRun), r = (List.range (operandV p.regs w).toNat).foldl
        (growRecord p.ctx (w.imm % 16) (operandA p.regs w) (operandV p.regs w).toNat m.bytes)
          ⟨ownRead islRck (operandA p.regs w) p.ctx (16 * (operandV p.regs w).toNat) s1, [], [], none, none⟩ →
      Issues s k 0x60 seat p w → exec (.wKvgrow k m) s = .next (kvBegin k p w
        (if ((List.range (operandV p.regs w).toNat).any fun i => leAt m.bytes (16 * i) 8 % 2 ^ 32 == 0) = true
         then { r with st := unreplayable p.owner r.st } else r))) ∧
    (∀ (r : KvRun), r = (List.range (operandV p.regs w).toNat).foldl
        (trimRecord p.ctx (w.imm % 16) (operandA p.regs w) (operandV p.regs w).toNat m.bytes)
          ⟨ownRead islRck (operandA p.regs w) p.ctx (16 * (operandV p.regs w).toNat) s1, [], [], none, none⟩ →
      Issues s k 0x61 seat p w → exec (.wKvtrim k m) s = .next (kvBegin k p w
        (if ((List.range (operandV p.regs w).toNat).any fun i => leAt m.bytes (16 * i) 8 / 2 ^ 32 % 2 == 1) = true
         then { r with st := unreplayable p.owner r.st } else r)))

/-- JUDGE hands its job to Judge and the core holds the word until it is accepted (R276); ENQUEUE reads the entry's image
(R167); MARK writes its tag, or leaves it, and its quiet form writes no trace record (R144). Where the spec leaves it open or
silent it rests on the model's choices, assumptions 29, 34 and 100. -/
def Obligations.JudgeEnqueueAndMarkAct : Prop :=
  ∀ (k seat : Nat) (p : Prog) (w : CWord) (s s1 : State), s1 = countWord k seat p s →
    (Issues s k 0x70 seat p w → (operandV p.regs w).toNat ≠ 0 → (operandV p.regs w).toNat ≤ 4096 →
      operandA p.regs w % 64 = 0 → fld w.w3 0 56 % 64 = 0 → groupFull s1 p.owner (w.opf % 4) 1 = false →
      exec (.wJudge k) s = .next (stallCore k .unit (newJob (.prog p.owner seat (w.opf % 4)) p.ctx (operandV p.regs w).toNat
        (operandA p.regs w) (fld w.w3 0 56) (addGroup p.owner (w.opf % 4) 1 s1)))) ∧
    (∀ ctx, Issues s k 0x80 seat p w → operandA p.regs w % 64 = 0 → (operandV p.regs w).toNat < 4096 →
      enqueueCheck s1 p w (operandV p.regs w).toNat = .ok ctx → poisonedAt s1 (operandA p.regs w) 64 = false →
      exec (.wEnqueue k) s = .next (stallCore k .unit (issueNm false (operandA p.regs w) ctx [] 64 seat (.enqImage k p.owner)
        islMar (moreReqs p.owner s1)))) ∧
    (Issues s k 0x90 seat p w → Gives (exec (.wMark k) s) fun t =>
      WordFrame seat s t ∧ t.prog? seat = some { p.counted.past with
        tag := if w.opf % 2 == 1 then fld w.w1 0 48 else p.tag } ∧
      (w.opf / 2 % 2 = 1 → t.wake = s1.wake))

/-! ### Course commands -/

/-- RECORD, PATCH, RETIRE and COURSE_QUERY, with their checks passed (R156 to R159): RECORD and PATCH read the new body, take
a reference on the new body, write the descriptor with version 1 or the next one, and PATCH drops the old body's reference;
RETIRE marks the descriptor and drops its body's reference; a query only reports. Where the spec leaves it open or silent it
rests on the model's choice, assumption 33. -/
def Obligations.CourseCommandsActWhenTheirChecksPass : Prop :=
  (∀ (h : W32) (m : MemRead) (size : Nat) (s s1 : State), s.ump.porN = true → inReset s = false → blank s = false →
    objStale s h = false → objStale s (argBody s) = false →
    (s.rack.courses.get (hIdx h)).isCourse = false → (objOf s h).st = .live → (objOf s h).size = 64 → bodyFits s h = true →
    m.err = .ok → size = (objOf s (argBody s)).size → size % 32 = 0 → 0 < size → size / 32 < 16777216 →
    firstBadWord s.build (size / 32) 0 (bodyWords m size) = none →
    refAddOp none (argBody s) 1 (ownRead islRck (objOf s (argBody s)).base (objOf s (argBody s)).owner size s) = .ok s1 →
    exec (.courseRecord h m) s = .next (crsStatus 0 h (writeDescriptor h ⟨true, false, argBody s, 1, size / 32, argLayout s⟩
      (dropLines (fun _ => true) (objOf s (argBody s)).base size s1)))) ∧
  (∀ (h : W32) (m : MemRead) (size : Nat) (c : Course) (s s1 s2 : State), s.ump.porN = true → inReset s = false →
    blank s = false → objStale s h = false →
    objStale s (argBody s) = false → c = s.rack.courses.get (hIdx h) → c.isCourse = true → c.retired = false →
    c.version < 65535 → bodyFits s h = true → m.err = .ok → size = (objOf s (argBody s)).size → size % 32 = 0 → 0 < size →
    size / 32 < 16777216 → firstBadWord s.build (size / 32) 0 (bodyWords m size) = none →
    refAddOp none (argBody s) 1 (ownRead islRck (objOf s (argBody s)).base (objOf s (argBody s)).owner size s) = .ok s1 →
    refSubOp none c.body 1 (writeDescriptor h ⟨true, false, argBody s, c.version + 1, size / 32, argLayout s⟩
      (dropLines (fun _ => true) (objOf s (argBody s)).base size s1)) = .ok s2 →
    exec (.coursePatch h m) s = .next (crsStatus 0 h s2)) ∧
  (∀ (h : W32) (c : Course) (s s1 : State), s.ump.porN = true → blank s = false → objStale s h = false → c = s.rack.courses.get (hIdx h) →
    c.isCourse = true → c.retired = false → refSubOp none c.body 1 (writeDescriptor h { c with retired := true } s) = .ok s1 →
    exec (.courseRetire h) s = .next (crsStatus 0 h s1)) ∧
  (∀ (h : W32) (s : State), s.ump.porN = true → blank s = false → objStale s h = false →
    (s.rack.courses.get (hIdx h)).isCourse = true → exec (.courseQuery h) s = .next (crsStatus 0 h s))

/-- A course command that fails a check writes its result and changes nothing else, but for the read of the body that it has
made by then (R156 to R159): result 1 for a stale handle, 2 for one that RECORD finds recorded or the others find not
recorded, 5 for a retired course, 3 with the index of the first word that fails, or with 0 for a body of a wrong size. Where
the spec leaves it open or silent it rests on the model's choices, assumptions 33 and 97. -/
def Obligations.CourseCommandsReportTheirFailures : Prop :=
  (∀ (h : W32) (m : MemRead) (c : Instr) (s : State),
    c ∈ [Instr.courseRecord h m, .coursePatch h m, .courseRetire h, .courseQuery h] → s.ump.porN = true → inReset s = false →
    blank s = false → objStale s h = true →
    exec c s = .next (crsStatus 1 h s)) ∧
  (∀ (h : W32) (m : MemRead) (c : Instr) (s : State), c ∈ [Instr.coursePatch h m, .courseRetire h, .courseQuery h] →
    s.ump.porN = true → inReset s = false → blank s = false → objStale s h = false → (s.rack.courses.get (hIdx h)).isCourse = false →
    exec c s = .next (crsStatus 2 h s)) ∧
  (∀ (h : W32) (m : MemRead) (s : State), s.ump.porN = true → inReset s = false → blank s = false → objStale s h = false → objStale s (argBody s) = false →
    (s.rack.courses.get (hIdx h)).isCourse = true → exec (.courseRecord h m) s = .next (crsStatus 2 h s)) ∧
  (∀ (h : W32) (m : MemRead) (c : Instr) (s : State), c ∈ [Instr.coursePatch h m, .courseRetire h] → s.ump.porN = true →
    inReset s = false → blank s = false →
    objStale s h = false → (s.rack.courses.get (hIdx h)).isCourse = true → (s.rack.courses.get (hIdx h)).retired = true →
    exec c s = .next (crsStatus 5 h s)) ∧
  (∀ (h : W32) (m : MemRead) (size i : Nat) (s : State), s.ump.porN = true → inReset s = false → blank s = false →
    objStale s h = false → objStale s (argBody s) = false →
    (s.rack.courses.get (hIdx h)).isCourse = false → (objOf s h).st = .live → (objOf s h).size = 64 → bodyFits s h = true →
    m.err = .ok → size = (objOf s (argBody s)).size →
    (size % 32 ≠ 0 ∨ size = 0 ∨ 16777216 ≤ size / 32 → exec (.courseRecord h m) s = .next (crsInvalid 0 h s)) ∧
    (size % 32 = 0 → 0 < size → size / 32 < 16777216 → firstBadWord s.build (size / 32) 0 (bodyWords m size) = some i →
      exec (.courseRecord h m) s = .next (crsInvalid i h
        (ownRead islRck (objOf s (argBody s)).base (objOf s (argBody s)).owner size s)))) ∧
  (∀ (k : Nat) (h : W32) (s : State), ∃ v b, crsStatus k h s =
    { s with rack := { s.rack with crsResult := k, crsVersion := v, crsBody := b } })

/-! ### Trees and Rowlocks -/

/-- What a tree's next message does at its cluster, once no node on its way is held by one before it (R177, R179, R182, R185,
R203, R204): a PIECE, or a crew member's piece at the base plus its rank times the stride, takes a launch slot, or stays in
the tree while the slots are full; a CANCEL drops every covered command not yet presented; a HOLD and a RELEASE begin and end
a hold of their context. CANCEL_SEND sends the oldest owed cancel, once no launch of its programs is held. Taking a slot adds
exactly one piece, with the cluster's next piece number, at the end of its engine's slots, and changes no other engine and no
other cluster (R185). Where the spec leaves it open or silent it rests on the model's choice, assumption 42. -/
def Obligations.TreeMessagesReachTheirCluster : Prop :=
  (∀ (t c : Nat) (f : Flight) (s : State), computeUp s = true → atRow s t c = some f →
    (f.msg.kind = .piece →
      (slotsFull s c f.msg.engine = false →
        exec (.piece t c) s = .next (settleRow c (takeSlot c f.msg.piece 0 f.msg (deliver t c f s)))) ∧
      (slotsFull s c f.msg.engine = true → exec (.piece t c) s = .next s)) ∧
    (∀ (ms : List Nat) (i : Nat), f.msg.kind = .crewPiece → ms = (crewFor s f.msg.epoch f.msg.target).members → i = crewRank ms c →
      slotsFull s c f.msg.engine = false →
      exec (.crewPiece t c) s = .next (settleRow c (takeSlot c ((f.msg.piece + i * f.msg.stride * 64) % 2 ^ 56)
        (staggerOffset s c f.msg.engine ms.length i) f.msg (deliver t c f s)))) ∧
    (f.msg.kind = .cancel → exec (.cancel t c) s = .next (settleRow c (each (busyEngines (deliver t c f s) c) (fun s e =>
      each ((s.eng c e).pieces.filter (covered f.msg)) (fun s p => cutPiece c e p.id none s) s) (deliver t c f s)))) ∧
    (f.msg.kind = .hold → exec (.hold t c) s = .next (settleRow c (updRow c (fun r => { r with
      holds := r.holds.filter (fun h => h.1 != f.msg.holdId) ++ [(f.msg.holdId, ⟨f.msg.ctx, false⟩)] }) (deliver t c f s)))) ∧
    (f.msg.kind = .release → exec (.release t c) s = .next (settleRow c (updRow c (fun r => { r with
      holds := r.holds.filter fun h => h.1 != f.msg.holdId }) (deliver t c f s)))) ∧
    (∀ (o : Owner) (ctx : CtxId) (seat : Nat) (entry : Count) (rest : List (Option Owner × CtxId × Nat × Count)),
      s.mar.cancels = (some o, ctx, seat, entry) :: rest → launchHeld s seat = false →
      exec .cancelSend s = .next (sendCancel (some o) ctx seat entry (abortOwner o (updMar (fun m => { m with cancels := rest }) s))))) ∧
  (∀ (c addr offset : Nat) (m : LaunchMsg) (s t : State), t = takeSlot c addr offset m s →
    (t.eng c m.engine).pieces =
      (s.eng c m.engine).pieces ++ [mkPiece (s.row c).nextPiece addr s.now offset m] ∧
    (t.row c).nextPiece = (s.row c).nextPiece + 1 ∧
    (∀ e, e ≠ m.engine → t.eng c e = s.eng c e) ∧ (∀ d, d ≠ c → t.row d = s.row d) ∧
    t = { s with fab := { s.fab with rows := t.fab.rows } })

/-- A CHUNK_REQUEST reads the next commands of the piece due longest: at most 64, as many as the engine's buffer has room for,
under a tag none of the cluster's chunks carries (R186, R187). Each beat of its answer becomes the piece's next fetched
command, or, with an error, the place where the piece ends; the last beat frees the tag. An answer whose tag no chunk carries
is against the port's protocol (R19). A synchronisation arrival for the resident context acts on the named counter; one for
another context adds to the parked store; one that finds the store full holds the cluster's arrivals back (R226, R227), and a
counter of 48 or more is logged and dropped; a store that has held arrivals back for 10 ms raises a class 4 error (R228).
Where the spec leaves it open or silent it rests on the model's choices, assumptions 6 and 39. -/
def Obligations.ChunksAndArrivalsReachTheirRowlock : Prop :=
  (∀ (c e n tag : Nat) (p : Piece) (s : State), computeUp s = true →
    best (fun a b => a.due.getD 0 < b.due.getD 0) ((s.eng c e).pieces.filter fun p => p.due.isSome && !p.cut) = some p →
    n = min 64 (p.msg.count - p.asked) → n ≤ bufferRoom (s.eng c e) → (s.row c).chunks.length < 16 →
    tag = leastFree ((s.row c).chunks.map (·.tag)) 16 0 → p.asked + n = p.msg.count → p.active = false →
    exec (.chunkRequest c e) s = .next (hangEv (islRow c) 0x01 (5 + put tag 4 10 + put ((p.addr + 64 * p.asked) / 256) 16 48)
      (updPiece c e p.id (fun q => { q with asked := q.asked + n, due := none, dueSince := none })
        (updRow c (fun r => { r with
          chunks := r.chunks ++ [⟨tag, e, p.id, p.msg.ctx, p.asked, p.asked, n, false, p.addr + 64 * p.asked, s.now, false⟩] }) s)))) ∧
  (∀ (c tag : Nat) (data : List W64) (last : Bool) (err : RespErr) (q : ChunkReq) (s : State), c < s.build.clusters →
    ((s.row c).chunks.find? fun q => q.tag == tag) = some q → inReset s = false → q.failed = false →
    exec (.rpResponse c tag data last err) s = .next (settleRow c (takeBeat c q data err (rspEv (islRow c) 5 tag err
      (updRow c (fun r => { r with
        chunks := if last then r.chunks.filter (fun x => x.tag != tag) else r.chunks.map (nextBeat tag err) }) s))))) ∧
  (∀ (c tag : Nat) (data : List W64) (last : Bool) (err : RespErr) (s : State), c < s.build.clusters →
    ((s.row c).chunks.find? fun q => q.tag == tag) = none →
    exec (.rpResponse c tag data last err) s = .fault (.portProtocol "rp_rsp")) ∧
  (∀ (c : Nat) (ctr : BitVec 6) (inc : BitVec 16) (ctx : CtxId) (s : State), c < s.build.clusters → s.ump.porN = true →
    inReset s = false →
    (48 ≤ ctr.toNat → exec (.arrival c ctr inc ctx) s = .next (settleRow c (logRec .nothing
      { LogRec.zero with code := eBadArrival, island := islRow c, cluster := c, ctx := ctx } s))) ∧
    (∀ t, ctr.toNat < 48 → (s.row c).arrWait = [] → takeArrival c ctx ctr.toNat inc.toNat s = some t →
      exec (.arrival c ctr inc ctx) s = .next (settleRow c t)) ∧
    (ctr.toNat < 48 → (s.row c).arrWait = [] → takeArrival c ctx ctr.toNat inc.toNat s = none →
      exec (.arrival c ctr inc ctx) s = .next (settleRow c (refuseEv (islRow c) 9 false true (updRow c (fun r => { r with
        arrHeld := some s.now, arrWait := [(ctx, ctr.toNat, inc.toNat)] }) s))))) ∧
  (∀ (c since : Nat) (s s1 : State), s.ump.porN = true → s1 = drainArrivals c 70 s → (s1.row c).arrHeld = some since →
    10 * msTu ≤ s1.now - since → exec (.arrivalStall c) s = .next (raise4
      { LogRec.zero with code := eArrivalStall, island := islRow c, cluster := c } s1))

/-- The life of a command at its engine (R194 to R197, R202, R224): PRESENT offers the selected command when pacing permits
it, after any engine of a lower index that would claim the same counter; CATCH makes the presented command the running one;
FINISH without an error posts its counters, counts it and lets the engine go on; an error report of class 1 to 3 is kept for
the FINISH to act on, one of class 4 or 5 acts at once. FINISH with an error posts nothing and ends the piece with the error
reported, or with E_ENGINE_REPORT, logged, when none was (R198). CATCH with nothing presented and FINISH with nothing running
are against the port's protocol. Where the spec leaves it open or silent it rests on the model's choices, assumptions 6, 65
and 103. -/
def Obligations.CommandsArePresentedCaughtAndFinished : Prop :=
  (∀ (c e : Nat) (p : Piece) (w : List W64) (s0 s : State), computeUp s0 = true → c < s0.build.clusters → e < s0.build.engines →
    s = each (claimsBefore (settleVacated s0) c e) (fun s i => presentOne c i s) (settleVacated s0) →
    mayPresent (s.eng c e) = true → selectCmd s c e = some (p, w) → pacePermits s c e = true → 48 ≤ hWaitCtr w →
    alignLate s p = false → pacedFrom s p = none →
    exec (.present c e) s0 = .next (settleRow c (moveEng c e (fun g => { g with
        presented := some ⟨p.id, w, p.first, p.msg, 0, false, s.now⟩, st := if g.st == .run then .runPresent else .present })
      (paceTake c e (updPiece c e p.id (fun q => { q with
        first := q.first + 1, fetched := q.fetched.filter (fun x => x.1 != q.first),
        chainRun := if hHoldBoundary w then q.chainRun + 1 else 0, waitSince := none, started := true, pacedSince := none }) s))))) ∧
  (∀ (c e : Nat) (r : RunCmd) (s : State), engBuilt s c e = true → inReset s = false → (s.eng c e).st = .present → (s.eng c e).presented = some r →
    r.fill = false →
    exec (.catchCmd c e) s = .next (settleRow c (moveEng c e (fun g => { g with
        st := .run, presented := none, running := some { r with since := s.now }, errSeen := none,
        chain := if hHoldBoundary r.words then some r.piece else none })
      (noteCatch c e r (updPiece c e r.piece (fun p => { p with
        caught := p.caught + 1, lastCatch := some s.now, unsafeCaught := p.unsafeCaught || !(hReplaySafe r.words) }) s))))) ∧
  (∀ (c e : Nat) (r : RunCmd) (s s0 : State), engBuilt s c e = true → inReset s = false → s0 = presentFirst c e s → (s0.eng c e).running = some r →
    r.fill = false → (s0.eng c e).errSeen = none →
    exec (.finish c e false) s = .next (settleRow c (rampDown c e (moveEng c e (afterFinish s0.now)
      (updPiece c e r.piece (fun p => { p with finished := p.finished + 1 }) (finishPost c r (noteFinish c e r false s0))))))) ∧
  (∀ (c e : Nat) (cls : BitVec 3) (code : BitVec 16) (info : W32) (r : RunCmd) (s : State), engBuilt s c e = true →
    inReset s = false → 1 ≤ cls.toNat → cls.toNat ≤ 3 → (s.eng c e).running = some r → engineCode cls.toNat code = code →
    exec (.engineErrorReport c e cls code info) s = .next (logRec (pieceWhy s r.msg cls.toNat)
      { pieceRec s c e r.msg cls.toNat code with tag := cmdTag r.msg r.words, info := info.toNat }
      (noteReport c e cls.toNat code s))) ∧
  (∀ (c e k : Nat) (code : BitVec 16) (s : State), (s.eng c e).running.isSome = true →
    ((noteReport c e k code s).eng c e).errSeen = (if (s.eng c e).errSeen.isSome then (s.eng c e).errSeen else some (k, code)) ∧
    (code ≠ ePoisonedObject → noteReport c e k code s = { s with fab := (noteReport c e k code s).fab })) ∧
  (∀ (c e : Nat) (s : State), engBuilt s c e = true → inReset s = false → (s.eng c e).presented = none →
    exec (.catchCmd c e) s = .fault (.portProtocol "eng_cmd")) ∧
  (∀ (c e : Nat) (err : Bool) (s : State), engBuilt s c e = true → inReset s = false → ((presentFirst c e s).eng c e).running = none →
    exec (.finish c e err) s = .fault (.portProtocol "eng_fin")) ∧
  (∀ (c e : Nat) (r : RunCmd) (s s0 s1 : State) (x : Option (Nat × BitVec 16)), engBuilt s c e = true → inReset s = false →
    s0 = presentFirst c e s → (s0.eng c e).running = some r → r.fill = false → x = (s0.eng c e).errSeen →
    s1 = (match x with
      | some _ => s0
      | none => logRec (pieceWhy s0 r.msg 1)
          { pieceRec s0 c e r.msg 1 eEngineReport with tag := cmdTag r.msg r.words } s0) →
    exec (.finish c e true) s = .next (settleRow c (rampDown c e (updPiece c e r.piece
      (fun p => { p with err := if p.err.isSome then p.err else some (x.getD (1, eEngineReport)) })
      (cutPiece c e r.piece (some (x.getD (1, eEngineReport))) (moveEng c e (afterFinish s0.now)
        (updPiece c e r.piece (fun p => { p with finished := p.finished + 1 }) (noteFinish c e r true s1)))))))) ∧
  (∀ (c e : Nat) (code : BitVec 16) (info : W32) (s : State) (r : LogRec), engBuilt s c e = true →
    (r = engineRec s c e 4 code info →
      exec (.engineErrorReport c e 4 code info) s = .next (raise4 r (noteReport c e 4 r.code s))) ∧
    (r = engineRec s c e 5 code info →
      exec (.engineErrorReport c e 5 code info) s = .next (raise5 r (noteReport c e 5 r.code s))))

/-- The oldest report of a Rowlock reaches the program or the slide job it belongs to (R199); an active piece that has waited
2 µs gives its place to a piece of another seat while four are active (R193); pre_ack is taken as the pre-emption protocol
says and is a protocol error otherwise (R205); a start time or a stagger reached lets its engine present (R184, R339); a
complete hold of a vacate lets Slide capture the cluster (R326). Where the spec leaves it open or silent it rests on the
model's choices, assumptions 6, 42 and 44. -/
def Obligations.ReportsYieldsStartsAndPreemption : Prop :=
  (∀ (c : Nat) (q : Report) (rest : List Report) (s s1 : State), computeUp s = true → (s.row c).reports = q :: rest →
    s1 = updRow c (fun r => { r with reports := rest }) s →
    (q.origin = 1 → exec (.pieceReport c) s = .next (slideReport c q s1)) ∧
    (q.origin ≠ 1 → exec (.pieceReport c) s = .next (programReport q s1))) ∧
  (∀ (c e : Nat) (p q : Piece) (s : State), computeUp s = true → 4 ≤ (activePieces (s.eng c e)).length →
    ((s.eng c e).pieces.find? fun p => p.active && (s.eng c e).chain != some p.id &&
      p.waitSince.any fun t => 2 * usTu ≤ s.now - t) = some p →
    ((s.eng c e).pieces.find? fun q => !q.active && q.msg.seat != p.msg.seat && !(seatActive (s.eng c e) q.msg.seat)) = some q →
    exec (.activeYield c e) s = .next (settleRow c (activatePiece c e q
      (updPiece c e p.id (fun p => { p with active := false, gaveUp := true, waitSince := none }) s)))) ∧
  (∀ (c e : Nat) (s : State), engBuilt s c e = true → inReset s = false → (s.eng c e).preReq = true →
    (s.eng c e).preAck = false →
    (s.eng c e).running = none → Gives (exec (.preAckRise c e) s) fun t =>
      t.eng c e = { s.eng c e with preReq := false, preAck := true, st := .unpreempt, preSince := s.now } ∧
      (∀ f, f ≠ e → t.eng c f = s.eng c f) ∧ (∀ d, d ≠ c → t.row d = s.row d) ∧
      t = { s with fab := { s.fab with rows := t.fab.rows }, ump := { s.ump with hang := t.ump.hang } }) ∧
  (∀ (c e : Nat) (s : State), engBuilt s c e = true → inReset s = false → (s.eng c e).preAck = true → (s.eng c e).preReq = false →
    exec (.preAckFall c e) s = .next (settleRow c (moveEng c e (fun g => { g with preAck := false, st := .idle }) s))) ∧
  (∀ (c e : Nat) (s : State), engBuilt s c e = true → inReset s = false → (s.eng c e).preAck = false →
    ((s.eng c e).preReq = false → exec (.preAckRise c e) s = .fault (.portProtocol "eng_pre_ack")) ∧
    exec (.preAckFall c e) s = .fault (.portProtocol "eng_pre_ack")) ∧
  (∀ (c e : Nat) (p : Piece) (s : State), p ∈ (s.eng c e).pieces → p.first = 0 → dueAt s p ≤ s.now →
    (p.startAt.isSome = true → p.offset = 0 → exec (.alignedStart c e) s = .next (presentOp c e s)) ∧
    (0 < p.offset → exec (.staggerStart c e) s = .next (presentOp c e s))) ∧
  (∀ (c n : Nat) (h : Nat × HoldSlot) (j : SaveJob) (s : State), c < s.build.clusters → computeUp s = true →
    ((s.row c).holds.find? fun h => h.1 == n) = some h → h.2.complete = true →
    (s.sld.jobs.find? fun j => j.kind != .restore && !j.failed && j.holdId == n && j.ctx == h.2.ctx &&
      j.clusters.any fun x => x.cluster == c && x.st == .hold) = some j → j.kind = .vacate →
    exec (.holdComplete c n) s = .next (captureCluster j c s))

/-! ### Responses, watches and the crossing -/

/-- A response ends the request whose tag it carries and reaches what asked for it (R19): it leaves the port, leaves its hang
event, and its answer goes to the unit that asked; a response whose tag no request carries is against the port's protocol. An
answered trace block lets the stream's written count go on over every answered block at the front (R362, R365). Where the spec
leaves it open or silent it rests on the model's choices, assumptions 6, 15 and 68. -/
def Obligations.ResponsesEndTheirRequests : Prop :=
  (∀ (tag : Nat) (data : List W64) (err : RespErr) (q : MemReq) (s : State),
    (s.ports.nm.find? fun q => q.tag == tag && q.tag < portTags) = some q → s.ports.nm.length < portTags →
    exec (.nmResponse tag data err) s = .next (memAnswer 0 q data err
      (rspEv q.isl 0 tag err (updPorts (fun p => { p with nm := dropMem s.now tag p.nm }) s)))) ∧
  (∀ (tag : Nat) (old : W64) (err : RespErr) (q : AtReq) (s : State),
    (s.ports.at_.find? fun q => q.tag == tag && q.tag < portTags) = some q → s.ports.at_.length < portTags →
    exec (.atResponse tag old err) s = .next (atAnswer q old err
      (rspEv q.isl 1 tag err (updPorts (fun p => { p with at_ := dropAt s.now tag p.at_ }) s)))) ∧
  (∀ (tag : Nat) (data : List W64) (err : RespErr) (q : MemReq) (s : State),
    (s.ports.hm.find? fun q => q.tag == tag && q.tag < portTags) = some q →
    exec (.hmResponse tag data err) s = .next (memAnswer 2 q data err
      (rspEv q.isl 2 tag err (updPorts (fun p => { p with hm := dropMem s.now tag p.hm }) s)))) ∧
  (∀ (tag : Nat) (data : List Byte) (q : WdReq) (s : State), (s.ports.wd.find? fun q => q.tag == tag) = some q →
    s.ump.rst ≠ .dead →
    exec (.wdResponse tag data false .ok) s = .next (rspEv islJdl 3 tag .ok (updPorts (fun p => { p with
      wd := p.wd.map fun x => if x.tag == tag then wideBeat data .ok q else x }) s))) ∧
  (∀ (tag i : Nat) (b : TraceBlock) (s : State),
    ((List.range 8).find? fun i => (s.stream i).blocks.any fun b => b.tag == tag && !b.answered) = some i →
    ((s.stream i).blocks.find? fun b => b.tag == tag && !b.answered) = some b → b.stale = false → computeUp s = true →
    exec (.wkResponse tag .ok) s = .next (writeFull i 8 (updStream i (fun st =>
      popBlocks { st with blocks := st.blocks.map fun x => if x.tag == tag then { x with answered := true } else x } 64)
      (rspEv islWak 4 tag .ok s)))) ∧
  (∀ (tag : Nat) (data : List W64) (err : RespErr) (s : State),
    ((s.ports.nm.find? fun q => q.tag == tag && q.tag < portTags) = none →
      exec (.nmResponse tag data err) s = .fault (.portProtocol "nm_rsp")) ∧
    ((s.ports.hm.find? fun q => q.tag == tag && q.tag < portTags) = none →
      exec (.hmResponse tag data err) s = .fault (.portProtocol "hm_rsp"))) ∧
  (∀ (tag : Nat) (old : W64) (err : RespErr) (s : State),
    ((s.ports.at_.find? fun q => q.tag == tag && q.tag < portTags) = none →
      exec (.atResponse tag old err) s = .fault (.portProtocol "at_rsp")))

/-- Stakeboat's watches (R215 to R221): the answer to an arming or a disarming write completes it; a notice makes its entry
read again and a lost notice makes every entry read again, counted; a polled waiter reads its fence once per poll period; an
armed entry without waiters is disarmed once its linger has passed. Where the spec leaves it open or silent it rests on the
model's choice, assumption 81. -/
def Obligations.WatchCommandsAct : Prop :=
  (∀ (e : Nat) (ok : Bool) (s : State), watchBuilt s e = true → s.ump.rst ≠ .dead → (s.stb.watch.get e).owed = false →
    inReset s = false →
    ((s.stb.watch.get e).st = .arming → exec (.mwResponse e ok) s = .next (armed e ok (rspEv islStb 6 e .ok s))) ∧
    ((s.stb.watch.get e).st = .disarming → exec (.mwResponse e ok) s = .next (disarmed e (rspEv islStb 6 e .ok s)))) ∧
  (∀ (e : Nat) (s : State), watchBuilt s e = true → computeUp s = true →
    exec (.notice e) s = .next (dirtyEntry (ergCount 14 1 {} s) e)) ∧
  (∀ s : State, computeUp s = true →
    exec .noticeLost s = .next (dirtyAll (updStb (fun b => { b with noticesLost := satAdd 64 b.noticesLost 1 }) s))) ∧
  (∀ (i : Nat) (s : State), (s.stb.waiters.get i).st = .polled → (s.stb.waiters.get i).timedOut = false → computeUp s = true →
    max (max 100 (fld s.stb.cfg 0 16) * 4) (16 * (polledWaiters s).length) ≤ s.now - (s.stb.waiters.get i).lastPoll →
    exec (.pollRead i) s = .next (readFor i false (updWaiter i (fun w => { w with lastPoll := s.now }) s))) ∧
  (∀ (e t : Nat) (s : State), (s.stb.watch.get e).linger = some t → (s.stb.watch.get e).st = .armed → computeUp s = true →
    t + fld s.stb.cfg 16 8 * usTu ≤ s.now → exec (.lingerExpiry e) s = .next (disarm e s)) ∧
  (∀ (e : Nat) (ok : Bool) (s : State), watchBuilt s e = false →
    exec (.mwResponse e ok) s = .fault (.notBuilt "mw_req_idx") ∧ exec (.notice e) s = .fault (.notBuilt "mn_idx"))

/-- What another chip sends over the crossing, and what time does to it (R233 to R242): a SIGNAL with a usable value, address
and context is counted and sends one MAXU to the atomic port, and one with bit 63 of its value set is rejected; an ACK ends
the records it covers and a REJECT fails its record, both only for this chip's present incarnation; acknowledgements go out 1
µs after the first they cover; a record is sent again after the resend time and given up after the give-up time; a lost link
is logged, what has not left for it is put back, and after the hold time a LINK RESET is sent; the link that comes up takes
its state at once and, where it answers a LINK RESET, every record is sent again in order and then every owed answer. Where
the spec leaves it open or silent it rests on the model's choices, assumptions 6, 80 and 104. -/
def Obligations.CrossingCommandsAct : Prop :=
  (∀ (src : BitVec 16) (msg : List W64) (s s1 : State), s.build.hasCrossing = true → msg.length = 4 → computeUp s = true →
    s1 = crossHang 0x03 msg s →
    (fld (wordAt msg 0) 0 4 = 1 → bit (wordAt msg 3) 63 = true → Gives (exec (.crossingSignal src msg) s) fun t =>
      t = sendReject src (fld (wordAt msg 0) 8 8) (w32 (fld (wordAt msg 1) 0 32)) eCrossingRejected
        (wakeEv islXng 8 false (some (w16 (fld (wordAt msg 0) 48 16)))
          [w64 (src.toNat + put (fld (wordAt msg 0) 8 8) 16 8 + putb (bit (wordAt msg 0) 4) 24 +
            put (w32 (fld (wordAt msg 1) 0 32)).toNat 32 32)]
          (updStb (fun b => { b with received := satAdd 64 b.received 1 }) s1))) ∧
    (fld (wordAt msg 0) 0 4 = 2 → fld (wordAt msg 0) 8 8 = s1.ump.incarn % 256 →
      exec (.crossingAck src msg) s = .next (each (s1.stb.outs.filter fun o => o.dst == src &&
        (o.seq - w32 (fld (wordAt msg 2) 0 32)).toNat ≤ (w32 (fld (wordAt msg 1) 0 32) - w32 (fld (wordAt msg 2) 0 32)).toNat)
        (fun s o => dropRecord o s) s1)) ∧
    (fld (wordAt msg 0) 0 4 = 2 → fld (wordAt msg 0) 8 8 ≠ s1.ump.incarn % 256 → exec (.crossingAck src msg) s = .next s1) ∧
    (∀ o, fld (wordAt msg 0) 0 4 = 3 → fld (wordAt msg 0) 8 8 = s1.ump.incarn % 256 →
      (s1.stb.outs.find? fun o => o.dst == src && o.seq == w32 (fld (wordAt msg 1) 0 32)) = some o →
      exec (.crossingReject src msg) s = .next (failRecord o eCrossingRejected (fld (wordAt msg 1) 32 16)
        (updStb (fun b => { b with rejected := satAdd 64 b.rejected 1 }) s1)))) ∧
  (∀ (src : BitVec 16) (incarn : BitVec 8) (r : RxRun) (s : State),
    (s.stb.runs.find? fun x => x.src == src && x.incarn == incarn.toNat) = some r → computeUp s = true →
    usTu ≤ s.now - r.since → exec (.ackFlush src incarn) s = .next (sendAck r s)) ∧
  (∀ (dst : BitVec 16) (seq : W32) (o : OutRec) (s : State), (s.stb.outs.find? fun o => o.dst == dst && o.seq == seq) = some o →
    computeUp s = true → o.sentOnce = true →
    (max 10 (fld s.stb.xngCfg 16 16) * usTu ≤ s.now - o.lastSent → exec (.resend dst seq) s = .next (sendSignal o true s)) ∧
    (max 1 (fld s.stb.xngCfg 32 16) * msTu ≤ s.now - o.firstSent →
      exec (.giveUp dst seq) s = .next (failRecord o eCrossingLost 0 s))) ∧
  (∀ s : State, s.build.hasCrossing = true → s.stb.linkOk = true → s.ump.rst ≠ .dead →
    exec .linkDown s = .next (logRec .nothing { LogRec.zero with code := eLinkLost, island := islXng }
      (updStb (fun b => { b with
        linkOk := false, link := .hold, linkAt := s.now, txq := []
        owedAcks := b.txq.filter (fun m => fld (wordAt m.2 0) 0 4 == 2 || fld (wordAt m.2 0) 0 4 == 3) ++ b.owedAcks }) s))) ∧
  (∀ s : State, s.stb.link = .hold → computeUp s = true → fld s.stb.xngCfg 48 16 * usTu ≤ s.now - s.stb.linkAt →
    exec .linkReset s = .next (crossHang 0x04 [crossWord0 s 4 0 (chipId s), 0, 0, 0] (updStb (fun b => { b with
      link := .resetSent, txq := b.txq ++ [(chipId s, [crossWord0 s 4 0 (chipId s), 0, 0, 0])] }) s))) ∧
  (∀ s : State, s.build.hasCrossing = true → s.stb.link ≠ .hold →
    (s.ump.porN = true → s.ump.rst ≠ .dead → s.stb.link ≠ .resetSent ∨ computeUp s = false →
      exec .linkUp s = .next { s with stb := { s.stb with linkOk := true, link := .up } }) ∧
    (∀ s1 s2 : State, s.stb.link = .resetSent → computeUp s = true →
      s1 = { s with stb := { s.stb with linkOk := true, link := .up } } →
      s2 = each (streamOrder s1) (fun s o => sendSignal o o.sentOnce s) s1 →
      exec .linkUp s = .next (each s2.stb.owedAcks (fun s a => sendAnswer a.1 a.2 s) (updStb (fun b => { b with owedAcks := [] }) s2))) ∧
    (s.ump.porN = false ∨ s.ump.rst = .dead → exec .linkUp s = .next s)) ∧
  (∀ s : State, s.build.hasCrossing = true → s.stb.link = .hold → exec .linkUp s = .fault (.portProtocol "cx_link_ok")) ∧
  (∀ (src : BitVec 16) (msg : List W64) (s : State), computeUp s = true → s.build.hasCrossing = true →
    fld (wordAt msg 0) 0 4 = 1 → msg.length = 4 → bit (wordAt msg 3) 63 = false → fld (wordAt msg 2) 0 56 % 8 = 0 →
    ctxLive s (w16 (fld (wordAt msg 0) 48 16)) = true →
    Gives (exec (.crossingSignal src msg) s) fun t => t.stb.received = satAdd 64 s.stb.received 1 ∧ t.stb.outs = s.stb.outs ∧
      t.stb.waiters = s.stb.waiters ∧ t.stb.watch = s.stb.watch ∧
      (∃ q, t.ports.at_ = s.ports.at_ ++ [q] ∧ q.op = opMaxu ∧ q.addr = fld (wordAt msg 2) 0 56 ∧ q.opnd = wordAt msg 3 ∧
        q.ctx = w16 (fld (wordAt msg 0) 48 16)))

/-! ### Loops, heats and Judge -/

/-- Loop commands with their conditions met (R250 to R253): START, with or without clear, makes the loop its descriptor
describes, read as 2,048 bytes at the address in the loop's register, and takes the references on its models' weights; with
clear it drops the old sequences' gates and writes the sequence table to zero before the loop runs; STOP and DRAIN move a loop
on; RELOAD exchanges its models and shapes. A refused one sets cmd_err and the offset of the first check that fails and
changes nothing else. A driver that writes while the loop is busy is against R274. Where the spec leaves it open or silent it
rests on the model's choices, assumptions 6, 51, 52 and 106. -/
def Obligations.LoopCommandsFollowTheLoopState : Prop :=
  ∀ (l : Nat) (g : Loop) (s s0 : State), l = selLoop s → g = s.loop l → loopBuilt s l = true → computeUp s = true →
    blank s = false → s0 = ownRead islHea (fld g.desc 6 50 * 64) 0xFFFF 2048 s →
    (g.starting = false →
      (∀ (desc : MemRead) (x : Loop), desc.err = .ok → x = startedLoop s.now g desc.bytes →
        firstFail (startChecks s0 l desc.bytes ++ modelChecks s0 x.models x.shapes) = none →
        (g.st = .stopped → exec (.loopStart desc) s = .next (updLoop l (fun _ => x) (takeWeights x.models s0))) ∧
        (∀ y : Loop, g.st = .stopped ∨ g.st = .failed →
          y = { x with st := .stopped, starting := true, seqs := Tab.const SeqEnt.reset } →
          exec (.loopStartClear desc) s = .next (addIntent l { kind := .clear, writes := [] }
            (updLoop l (fun _ => y) (dropGates l (takeWeights x.models s0)))))) ∧
      (∀ (desc : MemRead) (o : Nat), g.st = .stopped → desc.err = .ok →
        firstFail (startChecks s0 l desc.bytes ++
          modelChecks s0 (startedLoop s.now g desc.bytes).models (startedLoop s.now g desc.bytes).shapes) = some o →
        exec (.loopStart desc) s = .next (loopRefuse l o s0)) ∧
      (∀ desc : MemRead, (g.st ≠ .stopped → exec (.loopStart desc) s = .next (loopRefuse l 0 s)) ∧
        (g.st ≠ .stopped → g.st ≠ .failed → exec (.loopStartClear desc) s = .next (loopRefuse l 0 s)) ∧
        (g.st ≠ .running → g.st ≠ .draining → exec (.reload desc) s = .next (loopRefuse l 0 s))) ∧
      (g.st = .running ∨ g.st = .draining → exec .loopStop s =
        .next (checkLoop l (updLoop l (fun g => { g with stopping := true, cmdErr := false, badOffset := 0 }) s))) ∧
      (g.st = .running → exec .loopDrain s =
        .next (checkLoop l (updLoop l (fun g => { g with st := .draining, cmdErr := false, badOffset := 0 }) s))) ∧
      (g.st ≠ .running → g.st ≠ .draining → exec .loopStop s = .next (loopRefuse l 0 s) ∧ exec .loopDrain s = .next (loopRefuse l 0 s)) ∧
      (∀ (desc : MemRead) (m : Tab Model) (h : Tab Shape), g.st = .running ∨ g.st = .draining → desc.err = .ok →
        m = descTab Model.reset (descModel desc.bytes) 8 → h = descTab Shape.reset (descShape desc.bytes) 16 →
        firstFail (modelChecks s0 m h) = none →
        exec (.reload desc) s = .next (reloadResidency l g.models m (updLoop l
          (fun x => { x with models := m, shapes := h, cmdErr := false, badOffset := 0 }) (dropWeights l (takeWeights m s0)))))) ∧
    (g.starting = true → ∀ (desc : MemRead) (c : Instr),
      c ∈ [Instr.loopStart desc, .loopStartClear desc, .loopStop, .loopDrain, .reload desc] →
      exec c s = .fault (.portProtocol "HEA_LOOP_CMD"))

/-- Requests and results (R252 to R254, R270): a doorbell and 50 µs without one read the next request slot; the record read is
admitted, or cancels what it names, once its check code is right; RQ_RING_RESTART starts a stopped ring's reading again, and a
result consumed count is taken when it lies between the old one and what has been written. A gate whose fence has come lets
its sequence go on to prefill, and is tried again at its retry time. Where the spec leaves it open or silent it rests on the
model's choices, assumptions 53, 54, 55 and 106. -/
def Obligations.RequestsResultsAndGates : Prop :=
  (∀ (l : Nat) (ring : BitVec 4) (s : State), l = selLoop s → loopBuilt s l = true → blank s = false →
    exec (.rqDoorbell ring) s = .next (readRequest l ring.toNat false (updLoop l (fun g => { g with
      reqs := g.reqs.upd ring.toNat fun q => { q with lastLook := s.now, again := q.reading } }) s)) ∧
    (∀ v : W32, Gives (exec (.resultConsumed ring v) s) fun t =>
      ((v - ((s.loop l).ress.get ring.toNat).consumed).toNat ≤
          (((s.loop l).ress.get ring.toNat).written - ((s.loop l).ress.get ring.toNat).consumed).toNat →
        (t.loop l).ress.get ring.toNat = { (s.loop l).ress.get ring.toNat with consumed := v }) ∧
      (¬(v - ((s.loop l).ress.get ring.toNat).consumed).toNat ≤
          (((s.loop l).ress.get ring.toNat).written - ((s.loop l).ress.get ring.toNat).consumed).toNat →
        (t.loop l).ress.get ring.toNat = (s.loop l).ress.get ring.toNat) ∧
      (∀ k, k ≠ l → t.loop k = s.loop k) ∧ t = { s with heat := { s.heat with loops := t.heat.loops } })) ∧
  (∀ (l r : Nat) (s : State), loopBuilt s l = true → r < 16 → ((s.loop l).reqs.get r).lastLook + 50 * usTu ≤ s.now →
    exec (.requestPoll l r) s = .next (readRequest l r false s)) ∧
  (∀ (l r at_ : Nat) (w : List W64) (second : Bool) (s : State), loopLive (s.loop l) = true → computeUp s = true →
    ((s.loop l).reqs.get r).rec_ = some (w, second, at_) → requestIntact w = true →
    requestBad (s.loop l) ((s.loop l).reqs.get r) w = false →
    (rqKind w ≠ 2 → exec (.requestNew l r) s = .next (admitRequest l r w s)) ∧
    (rqKind w = 2 → exec (.requestCancel l r) s = .next (cancelRequest l r w s))) ∧
  (∀ (l : Nat) (bits : BitVec 16) (s : State), l = selLoop s → loopBuilt s l = true →
    exec (.rqRingRestart bits) s = .next (each ((List.range 16).filter fun r => bits.getLsbD r && ((s.loop l).reqs.get r).stopped)
      (fun s r => readRequest l r false
        (updLoop l (fun g => { g with reqs := g.reqs.upd r fun q => { q with stopped := false } }) s)) s)) ∧
  (∀ (l i : Nat) (obs : W64) (s s1 : State),
    (s.stb.gateDone.find? fun g => g.1 == l && g.2.1 == i) = some (l, i, .ok, obs) → computeUp s = true →
    ((s.loop l).seqs.get i).st = .gated → bit obs 63 = false →
    s1 = updSeq l i (fun e => { e with st := .prefill, waiter := none })
      (updStb (fun b => { b with gateDone := b.gateDone.filter fun g => !(g.1 == l && g.2.1 == i) }) s) →
    exec (.gateRelease l i) s = .next (writeEntry l i s1)) ∧
  (∀ (l i : Nat) (s : State), ((s.loop l).seqs.get i).st = .gated → ((s.loop l).seqs.get i).waiter = none →
    (s.stb.gateDone.any fun g => g.1 == l && g.2.1 == i) = false → ((s.loop l).seqs.get i).retryAt ≤ s.now → computeUp s = true →
    exec (.gateRetry l i) s = .next (startGate l i s))

/-- The life of a heat (R262 to R273): Heat places heats in passes; a save that is over lets the heat switch, a switch over
lets it compose, a growth over lets it write its parameters, a run over lets it send its requests to Judge or, with none, its
outcome, Judge's answer lets it send its outcome, and an acknowledged outcome is committed; a heat past its loop's timeout
fails with class 1, E_HEAT_TIMEOUT. Where the spec leaves it open or silent it rests on the model's choices, assumptions 56,
57, 58 and 106. -/
def Obligations.HeatsGoFromStateToState : Prop :=
  (∀ s : State, computeUp s = true → s.build.hasHeat = true → blank s = false →
    exec .heatPlace s = .next (let s1 := settleOwed (settlePoison s)
      let s2 := retryCompose (purgeRestored (each (s1.heat.loops.cells.map Prod.fst) (fun s l => dueIrqs l s) s1))
      let s3 := updHeat (fun h => { h with lastPlace := s.now }) s2
      place (s3.bhs.reruns.foldl tryRerun s3))) ∧
  (∀ (l k : Nat) (w : Work) (s : State), heatUp s l = true → s.work? (.heat l k) = some w → w.failed = none →
    ((s.hslot l k).st = .save → (s.sld.jobs.any fun j => j.who == .heat l k) = false →
      exec (.heatSaveDone l k) s = .next (enterSwitch l k s)) ∧
    ((s.hslot l k).st = .grow → (s.hslot l k).waiting = false → s.prog? (s.hslot l k).seat = none →
      ((dropUngrown l k s).hslot l k).members.isEmpty = false →
      ((dropUngrown l k s).hslot l k).members.length = (s.hslot l k).members.length →
      exec (.heatGrowDone l k) s = .next (writeParams l k (dropUngrown l k s))) ∧
    (((s.hslot l k).st = .compose ∨ (s.hslot l k).st = .grow ∨ (s.hslot l k).st = .run ∨ (s.hslot l k).st = .judge) →
      (s.loop l).timeout ≠ 0 → (s.hslot l k).began + (s.loop l).timeout * 64 * usTu ≤ s.now →
      exec (.heatTimeout l k) s = .next (heatError l k 1 eHeatTimeout s)) ∧
    (∀ (rs : List JudgeResult) (d : Nat × Nat × Option (BitVec 16) × List JudgeResult),
      (s.judge.done.find? fun d => d.1 == l && d.2.1 == k) = some d → d.2.2.1 = none → d.2.2.2 = rs → (s.hslot l k).st = .judge →
      exec (.heatJudgeDone l k) s = .next (sendOutcome l k (updHSlot l k (fun h => { h with members := giveResults h.members rs })
        { s with judge := { s.judge with done := s.judge.done.filter fun d => !(d.1 == l && d.2.1 == k) } })))) ∧
  (∀ (l k : Nat) (s : State), heatUp s l = true →
    ((s.hslot l k).st = .switch → courseOver s l k = true →
      ∀ (mine : List Pin) (s1 : State),
        s1 = updLoop l (fun g => { g with residue := g.residue + (s.hslot l k).time }) (updHSlot l k (fun h => { h with time := 0 }) s) →
        mine = (heatPins s1 l k).filter (fun p => p.course == (s.hslot l k).course && p.version == (s.hslot l k).version) →
        exec (.heatSwitchDone l k) s = .next (enterCompose l k (holdModel l k
          (vacateCrew (s.hslot l k).epoch l (s.hslot l k).crew (s.hslot l k).seat
            (updWork (.heat l k) (fun w => { w with pins := w.pins.filter fun p => !(mine.contains p) }) (each mine (dropPin (heatDropRec s1 l k)) s1)))))) ∧
    ((s.hslot l k).st = .run → courseOver s l k = true → sampledOf (s.hslot l k) = [] →
      exec (.heatRunDone l k) s =
        .next (sendOutcome l k (vacateCrew (s.hslot l k).epoch l (s.hslot l k).crew (s.hslot l k).seat s))) ∧
    ((s.hslot l k).st = .commit → (s.hslot l k).acked = true → (s.hslot l k).waiting = false →
      exec (.heatCommit l k) s = .next (tryFill l (commitHeat l k s))) ∧
    (∀ (ms : List (Member × Nat × Nat)) (s1 : State), (s.hslot l k).st = .run → courseOver s l k = true → ms = sampledOf (s.hslot l k) → ms ≠ [] →
      s1 = vacateCrew (s.hslot l k).epoch l (s.hslot l k).crew (s.hslot l k).seat s →
      exec (.heatRunDone l k) s = .next (startPlan (.heatRequests l k) islHea 63
        [lineWrites (s.loop l).ctx (judgeAddr s l k) (ms.flatMap (requestWords s1 l k))]
        (moveHSlot l k (fun h => { h with st := .judge, since := s.now, waiting := true }) s1))))

/-- What Heat and Judge do beside heats (R269, R262, R277, R278): the accounting item at the front of Heat's queue is charged
to its context, or to the residue of the loop of that context; a period that has passed writes every share's weight again and
raises the floor to the least virtual time of the ready contexts; KV_SPILL spills the sequence the starving one chooses once
it has starved for the loop's wait and no spill came within it, records the time, and then fills again what may be filled;
Judge accepts the submission at the front while fewer than 16 jobs are accepted, and works on the first job that is not
finished. Where the spec leaves it open or silent it rests on the model's choices, assumptions 42, 54, 58 and 59. -/
def Obligations.AccountingSpillingAndJudgeWork : Prop :=
  (∀ (x : AcctItem) (rest : List AcctItem) (s : State), s.fab.items = x :: rest → computeUp s = true →
    ((s.heat.loops.cells.find? fun g => g.2.ctx == x.ctx && (g.2.st != .stopped || loopInFlight g.2 != 0)) = none →
      exec .accountingItem s = .next (charge x.ctx x.tu { s with fab := { s.fab with items := rest } })) ∧
    (∀ (l : Nat) (g : Loop),
      (s.heat.loops.cells.find? fun g => g.2.ctx == x.ctx && (g.2.st != .stopped || loopInFlight g.2 != 0)) = some (l, g) →
      (∀ k, (g.slots.get k).st = .free) → Gives (exec .accountingItem s) fun t =>
        t = updLoop l (fun g => { g with residue := g.residue + x.tu }) { s with fab := { s.fab with items := rest } })) ∧
  (∀ s : State, s.build.hasHeat = true → computeUp s = true → s.heat.lastPeriod + max 10 (fld s.heat.cfg 0 16) * usTu ≤ s.now →
    ∀ s1 : State, s1 = each (s.mar.slots.cells.filter fun p => p.2.st != .free) (fun s p =>
        updHeat (fun h => { h with shares := h.shares.upd p.1 fun x => { x with weight := p.2.weight.toNat } }) s)
        (updHeat (fun h => { h with lastPeriod := s.now }) s) →
      exec .accountingPeriod s = .next (each (s1.heat.loops.cells.map Prod.fst) (fun s l => dueIrqs l s)
        (updHeat (fun h => { h with floor := nextFloor s1 }) s1))) ∧
  (∀ (l : Nat) (s s1 : State), s1 = settlePoison s → computeUp s1 = true → loopLive (s1.loop l) = true → loopRecovers s1 l = false →
    (∀ (l2 i : Nat) (s2 : State), (s1.loop l).kvWaitMs ≠ 0 → (s1.loop l).lastSpill + (s1.loop l).kvWaitMs * msTu ≤ s1.now →
      (sortBy (fun a b => a.2.starvedSince.getD 0 < b.2.starvedSince.getD 0) ((liveSeqs (s1.loop l)).filter fun p =>
        p.2.st == .decode && p.2.kvWait && p.2.starvedSince.any fun t => t + (s1.loop l).kvWaitMs * msTu ≤ s1.now)).findSome?
        (spillChoice s1 l) = some (l2, i) → s2 = updLoop l (fun g => { g with lastSpill := s1.now }) s1 →
      exec (.kvSpill l) s = .next (tryFill l (startSpill l2 i s2)) ∧
      (∀ (t : Nat) (tab : PageTab) (as : List Nat) (homes : List PageEnt), t = hIdx ((s2.loop l2).seqs.get i).kv →
        tab = s2.mem.tabs.get t → tierRoom s2 (pageBytes (s2.mem.pools.get tab.pool)) tab.pages.length (tierUsed s2) = some as →
        homes = (tab.pages.zip as).map (fun x => { x.1 with tier := some x.2 }) →
        exec (.kvSpill l) s = .next (tryFill l (movePages s2.mem.nextId t homes
          (updSeq l2 i (fun e => { e with st := .spilled, kvWait := false, starvedSince := none }) (setSpilled t true
            (updMem (fun m => { m with
              nextId := m.nextId + 1
              moves := m.moves ++ [⟨m.nextId, .spill, t, l2, i, homes, tab.pages, 0, none, false, s2.now⟩] }) s2.nextFree))))))) ∧
    ((s1.loop l).kvWaitMs = 0 ∨ s1.now < (s1.loop l).lastSpill + (s1.loop l).kvWaitMs * msTu ∨
      (∀ q ∈ liveSeqs (s1.loop l), q.2.starvedSince = none ∨ spillChoice s1 l q = none) →
      exec (.kvSpill l) s = .next (tryFill l s1))) ∧
  (∀ (j : JudgeJob) (rest : List JudgeJob) (s : State), computeUp s = true → s.judge.waiting = j :: rest →
    (∀ q ∈ s.judge.waiting, jobOrphan s q = false) → s.judge.jobs.length < 16 →
    exec .judgeJobAccept s =
      .next (judgeAccepted j (updJudge (fun g => { g with waiting := rest, jobs := g.jobs ++ [{ j with since := s.now }] }) s))) ∧
  (∀ (j : JudgeJob) (s s1 : State), computeUp s = true → s1 = abandonJobs s →
    (s1.judge.jobs.find? fun j => j.err.isNone && j.at_ < j.n) = some j → j.out = 0 → j.started = true →
    exec .judgeRequest s = .next (workRequest j s1)) ∧
  (∀ (j j1 : JudgeJob) (s s1 : State), computeUp s = true → s1 = abandonJobs s →
    (s1.judge.jobs.find? fun j => j.err.isNone && j.at_ < j.n) = some j → j.out = 0 → j.started = false →
    j1 = { j with started := true, seed := s1.fresh, got := [], wide := [], since := s1.now } →
    exec .judgeRequest s = .next (workRequest j1 (updJJob j.id (fun _ => j1) s1.nextFree)))

/-! ### Memory and Slide -/

/-- Pools, copies and maps (R307, R309, R319, R321, R328): enabling a pool whose pages fit takes its blocks, and one that does
not fit is refused; disabling an enabled pool gives them back, and is refused while a table holds its pages; the next copy
piece enters its tree; MAP_REGISTER reads its map's header and regions and takes a map whose regions are good, UNREGISTER
drops a map no save holds, and both are refused otherwise; a restore claims its cluster when nothing is resident there. A
driver that writes SLD_CTX_CMD while it is busy is against the register's rule. Where the spec leaves it open or silent it
rests on the model's choices, assumptions 6, 47, 49 and 50. -/
def Obligations.MemoryCommandsAct : Prop :=
  (∀ (d : W64) (q : Nat) (p : Pool) (s s1 : State), s.ump.porN = true → q = poolSel s → q < s.build.kvPools → (s.mem.pools.get q).enabled = false →
    s1 = updMem (fun m => { m with pools := m.pools.upd q (poolWrite d) }) s → p = s1.mem.pools.get q →
    (fld p.cfg 0 16 = 0 ∨ pageTokens p = 0 ∨ perStack p = 0 → exec (.poolEnable d) s = .next (poolRefuse s1)) ∧
    (fld p.cfg 0 16 ≠ 0 → pageTokens p ≠ 0 → perStack p ≠ 0 →
      (poolBlocks s1 p = none → exec (.poolEnable d) s = .next (poolRefuse s1)) ∧
      (∀ bases, poolBlocks s1 p = some bases →
        exec (.poolEnable d) s = .next (pagesFreed (updMem (fun m => { m with pools := m.pools.upd q fun p =>
          { p with enabled := true, cmdErr := false, bases := bases, quarantine := [] } }) s1.nextFree))))) ∧
  (∀ (d : W64) (q : Nat) (s : State), s.ump.porN = true → q = poolSel s → q < s.build.kvPools → (s.mem.pools.get q).enabled = true →
    ((s.mem.tabs.cells.any fun t => t.2.isTable && t.2.pool == q) = true → exec (.poolDisable d) s = .next (poolRefuse s)) ∧
    ((s.mem.tabs.cells.any fun t => t.2.isTable && t.2.pool == q) = false →
      Gives (exec (.poolDisable d) s) fun t =>
        t.mem.pools.get q = { s.mem.pools.get q with enabled := false, cmdErr := false, bases := [], quarantine := [] } ∧
        (∀ r, r ≠ q → t.mem.pools.get r = s.mem.pools.get r) ∧
        t = { s with mem := { s.mem with pools := t.mem.pools } })) ∧
  (∀ (p : CopyPiece) (s : State), computeUp s = true → nextPiece s = some p → treeRefuses s p.tree = false → partMode s p.part = 0 →
    exec .copyPieceLaunch s = .next (enterTree p.tree p.msg (updSld (fun d => { d with
      pieces := d.pieces.map fun x => if x.id == p.id then { x with launched := true } else x })
      (updMem (fun m => { m with lastPart := p.part, parts := m.parts.upd p.part fun x => { x with tokens := x.tokens } })
        (refillPart p.part s))))) ∧
  (∀ (m : MemRead) (slot : Nat) (l : List Region) (s0 s : State), slot = sldSlot s0 → (s0.map slot).busy = 0 → blank s0 = false →
    computeUp s0 = true → (s0.slot slot).st ≠ .free → m.err = .ok → l = mapRegions m.bytes → l ≠ [] →
    s = ownRead islSld (fld (s0.map slot).map 6 50 * 64) (s0.slot slot).ctxId (64 + 16 * l.length) s0 →
    (∀ i, firstBadRegion s slot [] l = some i → exec (.mapRegister m) s0 = .next (mapRefuse i s)) ∧
    (firstBadRegion s slot [] l = none → exec (.mapRegister m) s0 = .next (startHandles slot (mapHandles (s.slot slot).ctxId l)
      (updMap slot (fun c => { c with cmdErr := false, badRegion := 0, regions := l })
        (updSld (fun d => { d with
          handles := each (mapHandles (s.slot slot).ctxId l) (fun t h => t.set h.1 (some slot)) d.handles }) s))))) ∧
  (∀ (slot : Nat) (s : State), slot = sldSlot s → (s.map slot).busy = 0 →
    (blank s = false → computeUp s = true → (s.slot slot).st ≠ .free → slotHeld s slot = false →
      exec .unregister s = .next (unregisterMap slot (updMap slot (fun c => { c with cmdErr := false, badRegion := 0 }) s))) ∧
    (s.ump.porN = true → (s.slot slot).st = .free ∨ slotHeld s slot = true → exec .unregister s = .next (mapRefuse 0 s))) ∧
  (∀ (m : MemRead) (s : State), (s.map (sldSlot s)).busy ≠ 0 →
    exec (.mapRegister m) s = .fault (.portProtocol "SLD_CTX_CMD") ∧ exec .unregister s = .fault (.portProtocol "SLD_CTX_CMD")) ∧
  (∀ (c : Nat) (j : SaveJob) (x : ClJob) (s s2 : State), c < s.build.clusters → computeUp s = true → (s.row c).resident = none →
    (s.sld.jobs.find? fun j => j.kind == .restore && !j.failed && j.clusters.any fun x => x.cluster == c && x.st == .waitRow) = some j →
    (j.clusters.find? fun x => x.cluster == c) = some x → x.valid = false →
    s2 = becomeResident c j.ctx (updRow c (fun r => { r with
      sync := each (List.range 48) (fun t i => t.set i 0) (Tab.const 0) }) s) →
    exec (.restoreBegin c) s = .next (settleRow c (clusterDone j.id c
      (match restoreHold s2 j c with | some k => releaseHold j c k s2 | none => s2))))

/-! ### Stroke -/

/-- Stroke (R337 to R350): enabling writes its configuration with enable 1 and enters pacing, or, while the compute islands
are in reset, pacing begins with full buckets when they leave it; disabling writes it with enable 0 and fills every bucket; a
new period takes its values from the telemetry of the last, counts the periods missed and empties the channels' sums; a sample
joins its channel's sum of the period and ends its staleness; an alert's event begins once, counted unless it is stuck, ends
after at least 2 µs, is stuck after 50 ms and unstuck 50 ms after it is low; the used channels without a sample for 10 µs go
stale together, logged as a mask when none was stale before. Where the spec leaves it open or silent it rests on the model's
choices, assumptions 30 and 63. -/
def Obligations.StrokeCommandsAct : Prop :=
  (∀ (d : W64) (s : State), s.build.hasStroke = true → s.ump.porN = true →
    (bit s.stk.cfg 0 = false → computeUp s = true →
      exec (.strokeEnable d) s = .next (stkEnter true (updStk (fun k => { k with cfg := (d ||| 1) &&& stkMask }) s))) ∧
    (bit s.stk.cfg 0 = true →
      exec (.strokeEnable d) s = .next (updStk (fun k => { k with cfg := (d ||| 1) &&& stkMask }) (settleBuckets s))) ∧
    (bit s.stk.cfg 0 = false → computeUp s = false →
      exec (.strokeEnable d) s = .next (updStk (fun k => { k with cfg := (d ||| 1) &&& stkMask, fullStart := true }) s)) ∧
    (Gives (exec (.strokeDisable d) s) fun t => t.stk.cfg = d &&& stkMask &&& ~~~1 ∧ t.stk.stale = [] ∧
      t.stk.force = StkVals.none ∧ t.stk.sent = StkVals.none ∧
      t.stk.buckets = Tab.const ⟨Q.ofNat s.stk.img.burst, Q.ofNat s.stk.img.burst, s.now⟩ ∧
      t = { s with stk := t.stk })) ∧
  (∀ s : State, stkOn s = true → s.stk.period < s.now / 4000 → Gives (exec .strokePeriod s) fun t =>
    t.stk.period = s.now / 4000 ∧ t.stk.force = s.stk.sent ∧ t.stk.late = satAdd 64 s.stk.late (s.now / 4000 - s.stk.period - 1) ∧
    t.stk.g = nextGain (updStk (fun k => { k with lTotal := k.loads }) (settleBuckets s)) ∧
    (∀ c, (t.stk.chans.get c).sum = 0 ∧ (t.stk.chans.get c).n = 0)) ∧
  (∀ s : State, stkOn s = false → s.build.hasStroke = true → computeUp s = true → s.stk.period < s.now / 4000 →
    exec .strokePeriod s =
      .next (updStk (fun k => { k with loads := loadTotal s, period := s.now / 4000, chans := newPeriod k.chans }) s)) ∧
  (∀ (ch : BitVec 4) (val : BitVec 16) (s : State), s.build.hasStroke = true → computeUp s = true → ch.toNat < 10 →
    Gives (exec (.telemetrySample ch val) s) fun t =>
      ((stkOn s = true ∨ (s.stk.chans.get ch.toNat).at_ / 4000 = s.now / 4000) →
        (t.stk.chans.get ch.toNat).sum = (s.stk.chans.get ch.toNat).sum + val.toNat ∧
        (t.stk.chans.get ch.toNat).n = (s.stk.chans.get ch.toNat).n + 1) ∧
      (stkOn s = false → (s.stk.chans.get ch.toNat).at_ / 4000 ≠ s.now / 4000 →
        (t.stk.chans.get ch.toNat).sum = val.toNat ∧ (t.stk.chans.get ch.toNat).n = 1) ∧
      (t.stk.chans.get ch.toNat).at_ = s.now ∧
      ch.toNat ∉ t.stk.stale ∧ (∀ i, i ≠ ch.toNat → t.stk.chans.get i = s.stk.chans.get i) ∧
      t = { s with stk := { s.stk with chans := t.stk.chans, stale := t.stk.stale } }) ∧
  (∀ (thermal : Bool) (s : State), s.build.hasStroke = true → computeUp s = true → (alertOf thermal s.stk).event = false →
    Gives (exec (.alertBegin thermal) s) fun t =>
      alertOf thermal t.stk = { alertOf thermal s.stk with event := true, since := s.now, effect := true } ∧
      alertOf (!thermal) t.stk = alertOf (!thermal) s.stk ∧
      ((alertOf thermal s.stk).stuck = false →
        (thermal = true → t.stk.thEvents = satAdd 64 s.stk.thEvents 1 ∧ t.stk.ocEvents = s.stk.ocEvents) ∧
        (thermal = false → t.stk.ocEvents = satAdd 64 s.stk.ocEvents 1 ∧ t.stk.thEvents = s.stk.thEvents)) ∧
      ((alertOf thermal s.stk).stuck = true → t.stk.thEvents = s.stk.thEvents ∧ t.stk.ocEvents = s.stk.ocEvents)) ∧
  (∀ (thermal : Bool) (s : State), (alertOf thermal s.stk).event = true → (alertOf thermal s.stk).stuck = false →
    ((alertOf thermal s.stk).since + 2 * usTu ≤ s.now → Gives (exec (.alertEnd thermal) s) fun t =>
      (alertOf thermal t.stk).event = false ∧ (alertOf thermal t.stk).low = s.now - 2 * usTu ∧
      (alertOf thermal t.stk).effect = stkOn s) ∧
    (s.now < (alertOf thermal s.stk).since + 2 * usTu → exec (.alertEnd thermal) s = .next s) ∧
    ((alertOf thermal s.stk).since + 50 * msTu < s.now → exec (.stuckAlert thermal) s =
      .next (logRec .nothing { LogRec.zero with code := eStuckAlert, island := islStk, info := if thermal then 1 else 0 }
        (updStk (setAlert thermal { alertOf thermal s.stk with stuck := true }) s)))) ∧
  (∀ (thermal : Bool) (s : State), (alertOf thermal s.stk).stuck = true → (alertOf thermal s.stk).event = false →
    (alertOf thermal s.stk).low + 50 * msTu ≤ s.now → Gives (exec (.alertUnstuck thermal) s) fun t =>
      alertOf thermal t.stk = { alertOf thermal s.stk with stuck := false } ∧ t = { s with stk := t.stk }) ∧
  (∀ (ch : BitVec 4) (fall : List Nat) (s : State), stkOn s = true → ch.toNat ∈ usedChans s →
    max (s.stk.chans.get ch.toNat).at_ s.stk.since + 10 * usTu ≤ s.now →
    fall = (usedChans s).filter (fun x => !(s.stk.stale.contains x) &&
      decide (max (s.stk.chans.get x).at_ s.stk.since + 10 * usTu ≤ s.now)) →
    (s.stk.stale = [] → exec (.telemetryStale ch) s =
      .next (logRec .nothing { LogRec.zero with
        code := eTelemetryStale, island := islStk, info := (fall.map fun x => 2 ^ x).foldl (· + ·) 0 }
        (updStk (fun k => { k with stale := k.stale ++ fall }) s))) ∧
    (s.stk.stale ≠ [] → ch.toNat ∉ s.stk.stale → exec (.telemetryStale ch) s =
      .next (updStk (fun k => { k with stale := k.stale ++ fall }) s)))

/-! ### Time, trace and counters -/

/-- TS_PULSE (R354): a pulse that is a new event is taken with the time it arrived at, the delay of its path taken off; in
mode 2 it loads the time from the load register unless that would run backwards, which is logged; one that is none only
lengthens the event it belongs to. An input that has read 1 for more than 50 ms is stuck, logged once, and no longer so 50 ms
after its last event (R355). TIME_LOCK locks the time registers (R353). Where the spec leaves it open or silent it rests on
the model's choice, assumption 66. -/
def Obligations.TimeInputsAct : Prop :=
  (∀ s : State, s.ump.porN = true → newEvent s s.tkp.pulseStuck s.tkp.lastPulse = true →
    (fld s.tkp.cfg 0 2 = 0 → Gives (exec .tsPulse s) fun t => t = { s with tkp := { s.tkp with lastPulse := some s.now } }) ∧
    (fld s.tkp.cfg 0 2 = 1 ∨ fld s.tkp.cfg 0 2 = 3 → exec .tsPulse s =
      .next (capture (s.now - fld s.tkp.cfg 22 16) (updTkp (fun t => { t with lastPulse := some s.now }) s))) ∧
    (fld s.tkp.cfg 0 2 = 2 → ∀ s2 : State, s2 = updTkp (fun k => { k with cfg := setFld k.cfg 0 2 1 })
        (updTkp (fun t => { t with lastPulse := some s.now }) s) →
      (s.now - fld s.tkp.cfg 22 16 ≤ s.tkp.load.toNat → exec .tsPulse s = .next (timeRecs true (updTkp (fun k => { k with
        now := s.tkp.load.toNat + (s.now - (s.now - fld s.tkp.cfg 22 16)), frac := 0 })
        (capture (s.now - fld s.tkp.cfg 22 16) s2)))) ∧
      (s.tkp.load.toNat < s.now - fld s.tkp.cfg 22 16 → exec .tsPulse s = .next (logRec .nothing
        { LogRec.zero with code := eTimeLoad, island := islTkp } (updTkp (fun k => { k with loadRefused := true }) s2))))) ∧
  (∀ s : State, s.ump.porN = true → newEvent s s.tkp.pulseStuck s.tkp.lastPulse = false →
    Gives (exec .tsPulse s) fun t => t = { s with tkp := { s.tkp with lastPulse := some s.now } }) ∧
  (∀ (line : BitVec 2) (t : Nat) (s : State), line.toNat ≤ 2 → inputLast s line.toNat = some t →
    (inputStuck s line.toNat = false → t + 50 * msTu < s.now → exec (.stuckInput line) s = .next (logRec .nothing
      { LogRec.zero with code := eStuckInput, island := if line.toNat = 0 then islTkp else islUmp, info := line.toNat }
      (setInput line.toNat true (some s.now) s))) ∧
    (inputStuck s line.toNat = true → t + 50 * msTu ≤ s.now →
      exec (.inputUnstuck line) s = .next (setInput line.toNat false none s))) ∧
  (∀ s : State, s.ump.porN = true → Gives (exec .timeLock s) fun t => t = { s with tkp := { s.tkp with locked := true } })

/-- Wake's streams and Erg (R360 to R372): enabling a stream whose registers are good sets its enable, zeroes its counts, sets
apart the blocks of before, stops it at once where a freeze it stops at is in force, and writes a time record, and otherwise
leaves it disabled; a consumed count only rises; a flush writes a block once the oldest record has waited its interval; a
status line carries written, lost and the last time. A sample interval that has passed samples the counters and histograms; a
freeze begins by register or by a new event of a trigger input whose bit is set, and ends by register. Where the spec leaves
it open or silent it rests on the model's choices, assumptions 68 and 69. -/
def Obligations.TraceAndCountersAct : Prop :=
  (∀ (d : W64) (i : Nat) (s s1 : State), s.ump.porN = true → i = selStream s → s.build.hasWake = true → (s.stream i).enabled = false →
    s1 = updStream i (fun st => { st with filter := d &&& filterMask &&& ~~~1 }) s →
    (streamOk (s1.stream i) = false → exec (.streamEnable d) s = .next s1) ∧
    (streamOk (s1.stream i) = true → exec (.streamEnable d) s = .next (timeRec false i (updStream i (fun st => { st with
      filter := st.filter ||| 1, enabled := true, written := 0, issued := 0, consumed := 0, recs := [], lossAt := [],
      blocks := st.blocks.map fun b => { b with stale := true }
      samples := Tab.const 0
      stopped := bit d 2 && (s.erg.trigOut0 || (s.erg.frozen && decide (s.erg.freezeTime ≤ s.now))) }) s1)))) ∧
  (∀ (n : W64) (s : State), s.ump.porN = true → s.build.hasWake = true → Gives (exec (.streamConsumed n) s) fun t =>
    (t.stream (selStream s)).consumed = max (s.stream (selStream s)).consumed n.toNat ∧
    (∀ i, i ≠ selStream s → t.stream i = s.stream i) ∧
    t = { s with wake := { s.wake with streams := t.wake.streams } }) ∧
  (∀ (i : Nat) (s : State), i < 8 → s.build.hasWake = true → computeUp s = true →
    (∀ r : TraceRec, (s.stream i).recs.head? = some r → r.stamp + 4 * max 100 (fld s.wake.cfg 0 16) ≤ s.now →
      exec (.traceFlush i) s = .next (writeBlock i s)) ∧
    ((s.stream i).enabled = true → exec (.statusLinePublish i) s = .next (updStream i (fun st => { st with lastPub := s.now })
      (issueNm true (fld (s.stream i).statusLine 6 50 * 64) 0xFFFF
        (wordsToBytes [w64 (s.stream i).written, w64 (s.stream i).lost, w64 (s.stream i).lastStamp, 0, 0, 0, 0, 0]) 64 0
        (.statusLine i) islWak s))) ∧
    exec (.timeRecord i) s = .next (timeRec false i s)) ∧
  (∀ s s1 : State, s.build.hasErg = true → computeUp s = true → s.erg.lastSample + 400 * max 1 (fld s.erg.cfg 0 16) ≤ s.now →
    ergActive s = true → bit s.erg.cfg 19 = false →
    s1 = updErg (fun e => { e with lastSample := s.now, intervals := e.intervals + 1 })
      (each (List.range 4) sampleHist (each (List.range 64) sampleCounter s)) → bit s1.erg.cfg 19 = false →
    exec .sampleInterval s = .next (each (List.range 64) publishCounter s1)) ∧
  (∀ (d : W64) (s : State), s.ump.porN = true → s.build.hasErg = true →
    exec (.pubEnable d) s = .next (ctrCfgWrite (d ||| 0x1000000000000) s) ∧
    exec (.trig1Clear d) s = .next (ergCfgWrite (d ||| 0x10000000) s) ∧
    exec (.freezeStart d) s = .next (freezeStart (freezeFields d s)) ∧
    ((freezeFields d s).erg.frozen = true →
      exec (.freezeEnd d) s = .next (updErg (fun e => { e with frozen := false, resumeAt := s.now + 800 }) (freezeFields d s)))) ∧
  (∀ (line : Bool) (n : Nat) (s : State), s.ump.porN = true → n = (if line then 2 else 1) →
    newEvent s (inputStuck s n) (inputLast s n) = false →
    exec (.trigIn line) s = .next (setInput n (inputStuck s n) (some s.now) s)) ∧
  (∀ (line : Bool) (n : Nat) (s : State), s.ump.porN = true → n = (if line then 2 else 1) →
    newEvent s (inputStuck s n) (inputLast s n) = true →
    (bit s.erg.freeze n = false → exec (.trigIn line) s = .next (setInput n false (some s.now) s)) ∧
    (bit s.erg.freeze n = true → exec (.trigIn line) s = .next (freezeStart (setInput n false (some s.now) s)))) ∧
  (∀ s : State, s.build.hasErg = true → s.erg.frozen = true → s.erg.trigOut0 = false → s.erg.freezeTime ≤ s.now →
    exec .freezeInstant s = .next (freezeStreams true (updErg (fun e => { e with trigOut0 := true }) s)))

/-- R369: a histogram that is enabled for a source bins each value v of it that passes its context filter: in linear mode in bin
min(31, floor(v / 2^shift)); in log mode in bin 0 when v < 2^shift, and otherwise in bin min(31, floor(log2 v) − shift + 1). Bins
are 32-bit and saturate; the other bins, and everything else, stay. A value that does not pass changes nothing. While Erg counts,
a value of a source reaches all four histograms. -/
def Obligations.HistogramsBinByTheirScale : Prop :=
  (∀ (id v h sh b : Nat) (ctx : Option CtxId) (g : Hist) (s t : State), g = s.erg.hists.get h → bit g.cfg 31 = true →
    fld g.cfg 0 8 = id → sh = fld g.cfg 9 5 → t = histOne id v ctx s h →
    (bit g.cfg 14 = true → ctx.map BitVec.toNat ≠ some (fld g.cfg 15 16) → t = s) ∧
    (bit g.cfg 14 = false ∨ ctx.map BitVec.toNat = some (fld g.cfg 15 16) →
      (bit g.cfg 8 = false → b = min 31 (v / 2 ^ sh)) → (bit g.cfg 8 = true → v < 2 ^ sh → b = 0) →
      (bit g.cfg 8 = true → 2 ^ sh ≤ v → b = min 31 (Nat.log2 v - sh + 1)) →
      (t.erg.hists.get h).bins.get b = min 0xFFFFFFFF (g.bins.get b + 1) ∧
      (∀ k, k ≠ b → (t.erg.hists.get h).bins.get k = g.bins.get k) ∧ (∀ j, j ≠ h → t.erg.hists.get j = s.erg.hists.get j) ∧
      t = { s with erg := { s.erg with hists := t.erg.hists } })) ∧
  (∀ (id v : Nat) (q : Qual) (s : State), ergCounts id s = true →
    ergValue id v q s = ergCount id 1 q (histOne id v q.ctx (histOne id v q.ctx (histOne id v q.ctx (histOne id v q.ctx s 0) 1) 2) 3))

/-! ### Errors, supervision, reset and images -/

/-- R381: a write of 1 to a slot's bit in UMP_LOG_STATUS.valid frees the slot; for a pending slot it is ignored. When a record of a
class at least irq_class takes a slot and irq_en is 1, the interrupt irq_vector is raised; none is raised while an earlier one has
gone unanswered by a read of UMP_LOG_STATUS, which the row LOG_STATUS_READ does. -/
def Obligations.LogSlotsAreFreedAndInterrupt : Prop :=
  (∀ (bits : BitVec 16) (i : Nat) (s : State), s.ump.porN = true → i < 16 → Gives (exec (.logFree bits) s) fun t =>
    (bits.getLsbD i = true → slotPending s i = false → t.ump.log.get i = { s.ump.log.get i with valid := false }) ∧
    (bits.getLsbD i = false ∨ slotPending s i = true → t.ump.log.get i = s.ump.log.get i)) ∧
  (∀ (why : PendWhy) (r : LogRec) (i : Nat) (s t : State), t = logRec why r s → logSlotFor s r.cls = some i →
    (t.ump.log.get i).valid = true ∧ (t.ump.log.get i).entry.cls = r.cls ∧
    (bit s.ump.cfg 11 = true → fld s.ump.cfg 12 3 ≤ r.cls → s.ump.irqWaiting = false →
      t.ports.irqs = s.ports.irqs ++ [fld s.ump.cfg 0 11] ∧ t.ump.irqWaiting = true) ∧
    (bit s.ump.cfg 11 = false ∨ r.cls < fld s.ump.cfg 12 3 ∨ s.ump.irqWaiting = true →
      t.ports.irqs = s.ports.irqs ∧ t.ump.irqWaiting = s.ump.irqWaiting)) ∧
  (∀ s : State, s.ump.porN = true → Gives (exec .logStatusRead s) fun t => t.ports.hostRead = w64 (logStatus s) ∧ t.ump.irqWaiting = false ∧
    t = { s with ump := { s.ump with irqWaiting := false }, ports := { s.ports with hostRead := w64 (logStatus s) } })

/-- The watchdogs (R382 to R386, R391): a heartbeat of running firmware is noted, and the firmware that has missed its time,
an engine or unit that hangs and a response that is overdue raise their errors; DRIVER_RESET raises a reset. Where the spec
leaves it open or silent it rests on the model's choice, assumption 71. -/
def Obligations.ErrorsAndWatchdogsAct : Prop :=
  (∀ s : State, s.rig.fwRunning = true →
    (Gives (exec .firmwareHeartbeat s) fun t => t = { s with ump := { s.ump with lastBeat := s.now } }) ∧
    (s.ump.rst ≠ .dead → s.ump.lastBeat + wdTime s 16 ≤ s.now →
      exec .firmwareWatchdog s = .next (raise5 { LogRec.zero with code := eFirmwareHang, island := islUmp } s))) ∧
  (∀ (c e : Nat) (s : State), computeUp s = true → engBuilt s c e = true → engineHung s (s.eng c e) = true →
    (s.eng c e).running = none → (s.eng c e).presented = none →
    exec (.engineWatchdog c e) s =
      .next (raise4 { LogRec.zero with code := eEngineHang, island := islRow c, engine := e, cluster := c } s)) ∧
  (∀ (isl : Nat) (s : State), computeUp s = true → unitHung s isl = true →
    exec (.unitWatchdog isl) s = .next (raise4 { LogRec.zero with code := eUnitHang, island := isl } s)) ∧
  (∀ (port c tag : Nat) (q : Awaited) (s : State), awaited s port c tag = some q → s.ump.rst ≠ .dead →
    (q.late = true → q.at_ + 2 * msTu ≤ s.now → exec (.responseWatchdog port c tag) s = .next (raise5
      { LogRec.zero with island := q.isl, ctx := q.ctx, addr := q.addr, info := port, tag := tag, code := eResponseLost } s)) ∧
    (q.late = false → q.at_ + msTu ≤ s.now → inReset s = false → exec (.responseWatchdog port c tag) s = .next (raise4
      { LogRec.zero with island := q.isl, ctx := q.ctx, addr := q.addr, info := port, tag := tag, code := eResponseTimeout }
      (markLate port c tag s)))) ∧
  (∀ s : State, blank s = false → s.ump.rst = .run →
    exec .driverReset s = .next (raise4 { LogRec.zero with code := eDriverReset, island := islUmp } s))

/-- The phases of a compute reset (R394 to R407): QUIESCE ends when the block is quiet and its reports are collected, CAPTURE
when the dump is written, ENG_RESET with the last cluster's answer, CLEAR when the fences are done, one incarnation later, and
RECOVER when everything is recovered; a cluster's answer not asked for is against the handshake, one that is late stops the
chip, and a Rowlock's late report is noted. The host may ask for a dump, and a poisoned shared object's golden copy is fetched
again. Where the spec leaves it open or silent it rests on the model's choices, assumptions 6, 72, 73 and 75. -/
def Obligations.ResetGoesFromPhaseToPhase : Prop :=
  (∀ s s1 : State, s.ump.rst = .quiesce → quiesced s = true →
    s1 = each ((List.range s.build.clusters).flatMap fun c => rowReports (s.row c)) collectOne s → s1.ump.rst = .quiesce →
    exec .quiesceDone s = .next (startDump 4 s1.ump.cause s1.ump.detectedAt false
      (updUmp (fun u => { u with rst := .capture, capturedAt := s.now }) s1))) ∧
  (∀ (c : Nat) (s : State), c < s.build.clusters → s.ump.rst = .capture → s.ump.capturedAt + msTu ≤ s.now →
    c ∉ s.ump.lateRows → Gives (exec (.rowlockReportTimeout c) s) fun t =>
      t = { s with ump := { s.ump with lateRows := s.ump.lateRows ++ [c] } }) ∧
  (∀ s : State, s.ump.rst = .capture → s.ump.dumpBusy = false →
    exec .captureDone s = .next (requestResets (updUmp (fun u => { u with rst := .engReset }) s))) ∧
  (∀ (c : Nat) (image : MemRead) (s s1 : State), c < s.build.clusters → (s.row c).rstReq = true → s.ump.rst = .engReset →
    s1 = updRow c (fun r => { r with rstReq := false, rstDone := true }) s →
    (resetsOwed s1 = true → exec (.clusterResetDone c image) s = .next s1) ∧
    (resetsOwed s1 = false → exec (.clusterResetDone c image) s = .next (engResetDone image s1))) ∧
  (∀ (c : Nat) (image : MemRead) (s : State), c < s.build.clusters → (s.row c).rstReq = false →
    exec (.clusterResetDone c image) s = .fault (.portProtocol "cl_rst_done")) ∧
  (∀ (c : Nat) (s : State), c < s.build.clusters → (s.row c).rstReq = true → (s.row c).rstAt + 20 * msTu ≤ s.now →
    s.ump.rst ≠ .dead → exec (.clusterResetLate c) s =
      .next (raise5 { LogRec.zero with code := eClusterReset, island := islRow c, cluster := c } s)) ∧
  (∀ s s1 : State, s.ump.rst = .clear → fencesDone s = true → s1 = updUmp (fun u => { u with
      rst := .recover, incarn := (u.incarn + 1) % 256, resetUs := (s.now - u.detectedAt) / usTu,
      ends := s.now :: u.ends.take 1, hangFrozen := false }) s → ∃ t : State, exec .clearDone s = .next t ∧
    ∀ s2 s3 s4 : State, s2 = kickPlans (settleWatches (wakeResetEnd (stkResume { s1 with fab := Fabric.reset }))) →
      s3 = each (s2.heat.loops.cells.map Prod.fst) recoverBegin (updBhs (fun b => { b with recovering := [] }) s2) →
      s4 = each (s3.mem.moves.filter fun m => m.kind == .refetch) restartRefetch s3 →
      t = policy (each (busyRings s4) (fun s r => settle r s) (pumpRecovery s4))) ∧
  (∀ s : State, s.ump.rst = .recover → recoveryDone s = true → Gives (exec .recoverDone s) fun t =>
    t = { s with ump := { s.ump with rst := .run, recoverUs := (s.now - s.ump.detectedAt) / usTu } }) ∧
  (∀ s : State, blank s = false → exec .dumpRequest s = .next (startDump 0 0 s.now true s)) ∧
  (∀ (i : Nat) (s s1 : State), s1 = settlePoison s → computeUp s1 = true → (s1.rack.objs.get i).st ≠ .free →
    (s1.rack.objs.get i).poisoned = true → (s1.rack.objs.get i).shared = true → (s1.rack.objs.get i).golden = true →
    loopsBusy s1 i = false → s1.mem.refetchDue.contains i = true → refetching s1 i = false →
    exec (.refetchStart i) s = .next
      (beginRefetch i false (pauseLoops i { s1 with mem := { s1.mem with refetchDue := s1.mem.refetchDue.filter (· != i) } })))

/-- Rigger (R412 to R432): an image is read from the staging base, and LOAD of a good one in BLANK applies it, and STAGE, SWAP
and their cancelling move the staged image as Rigger's states say; in another state, or before the end of self-test, each is
refused with result 10, without an object table with 13, by the lock with 9, and with work under way with 8; a refusal sets
the result and changes nothing else (R424). SWAP ends in two steps once the old image's work has drained. APPLY_QUIESCED takes
a good image in place while nothing runs and the lock is clear. LOCK sets its bits once for all, and SEAT_ENABLE enables seats
only after a passed self-test and a load, and drains the rings of the seats it clears. Where the spec leaves it open or silent
it rests on the model's choices, assumptions 76, 77 and 78. -/
def Obligations.RiggerCommandsFollowItsState : Prop :=
  (∀ (image : MemRead) (s s1 : State), rigUp s = true → s.rig.testDone = true → s.rig.st = .blank → s.rack.objBase ≠ 0 →
    image.err ≠ .target → s1 = readImage (stageBase s) image s →
    (∀ b, checkImage s.build true image = some b → exec (.load image) s = .next (rigBad b s1)) ∧
    (checkImage s.build true image = none → exec (.load image) s = .next (applyImage image.bytes 0
      (updMem (fun m => { m with tabs := Tab.const PageTab.reset })
        (updRack (fun k => { k with objs := Tab.const Obj.reset, courses := Tab.const Course.reset }) s1))))) ∧
  (∀ (image : MemRead) (s : State), rigUp s = true →
    (s.rig.st ≠ .blank → exec (.load image) s = .next (rigRefuse 10 s)) ∧
    (swapLocked s = false → s.rig.st ≠ .applied → exec (.stage image) s = .next (rigRefuse 10 s)) ∧
    (s.rig.st ≠ .staged → exec .swap s = .next (rigRefuse 10 s) ∧ exec .rigCancel s = .next (rigRefuse 10 s)) ∧
    (s.rig.st ≠ .applied → exec (.applyQuiesced image) s = .next (rigRefuse 10 s))) ∧
  (∀ (image : MemRead) (im : Image) (s s1 : State), rigUp s = true → swapLocked s = false → s.rig.st = .applied →
    image.err ≠ .target → s1 = readImage (stageBase s) image s → checkImage s.build true image = none →
    im = imageOf s.build (stageBase s) image.bytes → sameSection s1 image.bytes 1 = true →
    sameSection s1 image.bytes 5 = true → shapeUndefined s1 im = false → Gives (exec (.stage image) s) fun t =>
      t = { s1 with rig := { s1.rig with st := .staged, result := 0, badSection := 0, badOffset := 0, staged := some im } }) ∧
  (∀ (im : Image) (s : State), rigUp s = true → s.rig.st = .staged → s.rig.staged = some im →
    (swapLocked s = false → exec .swap s = .next (endResidencies s.rig.now im (updRig (fun r => { r with
      st := .switched, result := 0, badSection := 0, badOffset := 0, old := some r.now, now := im, staged := none,
      epoch := (r.epoch + 1) % 2 ^ 32, switchedAt := s.now }) s))) ∧
    (swapLocked s = true → exec .swap s = .next (rigRefuse 9 s)) ∧
    (Gives (exec .rigCancel s) fun t =>
      t = { s with rig := { s.rig with st := .applied, result := 0, badSection := 0, badOffset := 0, staged := none } })) ∧
  (∀ s : State, computeUp s = true →
    (s.rig.st = .switched → oldEntries s = false → oldHeats s = false → oldCopies s = false →
      Gives (exec .swapOldDrained s) fun t => t = { s with rig := { s.rig with st := .retiring } }) ∧
    (s.rig.st = .retiring → oldTrees s = false → oldPieces s = false → Gives (exec .swapRetired s) fun t =>
      t = { s with rig := { s.rig with st := .applied, old := none, image := w64 s.rig.now.base } })) ∧
  (∀ (image : MemRead) (s s1 : State), rigUp s = true → s.rig.st = .applied → s.rig.lock = false → blockQuiet s = true →
    image.err ≠ .target → checkImage s.build true image = none → s1 = readImage (stageBase s) image (updMar (fun m => { m with seatEnable := 0 }) s) →
    ∀ s2 : State, s2 = applyImage image.bytes (s.rig.epoch + 1) (endResidencies s.rig.now (imageOf s.build 0 image.bytes) s1) →
      exec (.applyQuiesced image) s = .next (if sameSection s image.bytes 5 then s2 else discardMaps s2)) ∧
  (∀ (d : W64) (s : State), s.ump.porN = true → Gives (exec (.lock d) s) fun t =>
    t.rig.lock = (s.rig.lock || bit d 0) ∧ t.rig.swapOk = (if s.rig.lock then s.rig.swapOk else bit d 1) ∧
    t = { s with rig := { s.rig with lock := t.rig.lock, swapOk := t.rig.swapOk } }) ∧
  (∀ (n : Nat) (s : State), rigRefuse n s = { s with rig := { s.rig with result := n } }) ∧
  (∀ (d v : W64) (s : State), s.ump.porN = true →
    v = (if s.rig.st ≠ .blank ∧ s.rig.testPass = true then d else d &&& s.mar.seatEnable) &&& w64 (2 ^ s.build.seats - 1) →
    exec (.seatEnable d) s = .next (policy (each
      ((List.range s.build.seats).filter fun i => bit s.mar.seatEnable i && !(bit v i))
      (fun s i => match (s.seat i).ring with
        | some r => drainRing r s
        | none => s) (updMar (fun m => { m with seatEnable := v }) s)))) ∧
  (∀ (image : MemRead) (s : State), rigUp s = true →
    (s.rig.testDone = false → exec (.load image) s = .next (rigRefuse 10 s)) ∧
    (s.rig.testDone = true → s.rig.st = .blank → s.rack.objBase = 0 → exec (.load image) s = .next (rigRefuse 13 s)) ∧
    (swapLocked s = true → exec (.stage image) s = .next (rigRefuse 9 s)) ∧
    (s.rig.st = .applied → s.rig.lock = true → exec (.applyQuiesced image) s = .next (rigRefuse 9 s)) ∧
    (s.rig.st = .applied → s.rig.lock = false → blockQuiet s = false →
      exec (.applyQuiesced image) s = .next (rigRefuse 8 s))) ∧
  (∀ (d : W64) (s : State), s.ump.porN = true → (s.rig.st = .blank ∨ s.rig.testPass = false) →
    s.mar.seatEnable = 0 →
    exec (.seatEnable d) s = .next (policy (updMar (fun m => { m with seatEnable := 0 }) s))) ∧
  (∀ (d : W64) (s : State), s.ump.porN = true → s.rig.st ≠ .blank → s.rig.testPass = true → s.mar.seatEnable = 0 →
    exec (.seatEnable d) s = .next (policy (updMar (fun m => { m with seatEnable := d &&& w64 (2 ^ s.build.seats - 1) }) s)))
end

