-- ==== Sys2Proof/Laws/Tab.lean ====
section
/-! SUPPORT. Reading a sparse table after a write. -/
namespace Sys2Proof.Machine

theorem lookupCell_set {α : Type} (d : α) (i j : Nat) (a : α) (l : List (Nat × α)) :
    lookupCell d j (setCell i a l) = if j = i then a else lookupCell d j l := by
  induction l with
  | nil => simp [setCell, lookupCell]
  | cons c l ih =>
    obtain ⟨k, b⟩ := c
    simp only [setCell]
    split
    · simp only [lookupCell]
    · split
      · subst_vars; simp only [lookupCell]; split <;> rfl
      · simp only [lookupCell, ih]; split <;> split <;> simp_all
theorem tab_get_set {α : Type} (t : Tab α) (i j : Nat) (a : α) : (t.set i a).get j = if j = i then a else t.get j :=
  lookupCell_set ..
theorem tab_get_upd {α : Type} (t : Tab α) (i j : Nat) (f : α → α) :
    (t.upd i f).get j = if j = i then f (t.get i) else t.get j := tab_get_set ..

end Sys2Proof.Machine
end

