-- ==== Sys2Proof/Laws/Keeps.lean ====
section
/-! SUPPORT. What no command but POR_N_ASSERT undoes. -/
namespace Sys2Proof.Machine

/-- No two of the 1,024 slots of the context table hold one id (R54); a slot that the table does not list is FREE. -/
def IdsDistinct (t : Tab Slot) : Prop :=
  t.dflt.st = .free ∧
  ∀ i j, i < 1024 → j < 1024 → (t.get i).st ≠ .free → (t.get j).st ≠ .free → (t.get i).ctxId = (t.get j).ctxId → i = j

/-- No two requests that a port holds carry one tag (R19). -/
def TagsDistinct (p : Ports) : Prop :=
  (p.nm.map (·.tag)).Nodup ∧ (p.hm.map (·.tag)).Nodup ∧ (p.at_.map (·.tag)).Nodup ∧ (p.wd.map (·.tag)).Nodup
/-- No hang ring holds more than its last 64 events (R387). -/
def HangBounded (t : Tab (List (W64 × W64))) : Prop := ∀ isl, (t.get isl).length ≤ 64
/-- The last slot of the error log holds no record of class 0 to 4 (R379). -/
def LastSlotFive (t : Tab LogSlot) : Prop := (t.get 15).valid = true → (t.get 15).entry.cls = 5

/-- What `s` keeps of `s0`. -/
structure Keeps (s0 s : State) : Prop where
  build : s.build = s0.build
  pending : s.pending = s0.pending
  lock : s0.rig.lock = true → s.rig.lock = true ∧ s.rig.swapOk = s0.rig.swapOk
  dead : s0.ump.rst = .dead → s.ump.rst = .dead
  time : s0.tkp.now ≤ s.tkp.now
  ids : IdsDistinct s0.mar.slots → IdsDistinct s.mar.slots
  tags : TagsDistinct s0.ports → TagsDistinct s.ports
  hang : HangBounded s0.ump.hang → HangBounded s.ump.hang
  last : LastSlotFive s0.ump.log → LastSlotFive s.ump.log

theorem Keeps.refl (s : State) : Keeps s s := ⟨rfl, rfl, fun h => ⟨h, rfl⟩, id, Nat.le_refl _, id, id, id, id⟩

variable {s0 s : State}

theorem keeps_cox {p} (h : Keeps s0 s) : Keeps s0 { s with cox := p } := ⟨h.1, h.2, h.3, h.4, h.5, h.6, h.7, h.8, h.9⟩
theorem keeps_rack {p} (h : Keeps s0 s) : Keeps s0 { s with rack := p } := ⟨h.1, h.2, h.3, h.4, h.5, h.6, h.7, h.8, h.9⟩
theorem keeps_mem {p} (h : Keeps s0 s) : Keeps s0 { s with mem := p } := ⟨h.1, h.2, h.3, h.4, h.5, h.6, h.7, h.8, h.9⟩
theorem keeps_sld {p} (h : Keeps s0 s) : Keeps s0 { s with sld := p } := ⟨h.1, h.2, h.3, h.4, h.5, h.6, h.7, h.8, h.9⟩
theorem keeps_heat {p} (h : Keeps s0 s) : Keeps s0 { s with heat := p } := ⟨h.1, h.2, h.3, h.4, h.5, h.6, h.7, h.8, h.9⟩
theorem keeps_judge {p} (h : Keeps s0 s) : Keeps s0 { s with judge := p } := ⟨h.1, h.2, h.3, h.4, h.5, h.6, h.7, h.8, h.9⟩
theorem keeps_stk {p} (h : Keeps s0 s) : Keeps s0 { s with stk := p } := ⟨h.1, h.2, h.3, h.4, h.5, h.6, h.7, h.8, h.9⟩
theorem keeps_bhs {p} (h : Keeps s0 s) : Keeps s0 { s with bhs := p } := ⟨h.1, h.2, h.3, h.4, h.5, h.6, h.7, h.8, h.9⟩
theorem keeps_fab {p} (h : Keeps s0 s) : Keeps s0 { s with fab := p } := ⟨h.1, h.2, h.3, h.4, h.5, h.6, h.7, h.8, h.9⟩
theorem keeps_stb {p} (h : Keeps s0 s) : Keeps s0 { s with stb := p } := ⟨h.1, h.2, h.3, h.4, h.5, h.6, h.7, h.8, h.9⟩
theorem keeps_ports {p} (h : Keeps s0 s) (e : TagsDistinct s.ports → TagsDistinct p) : Keeps s0 { s with ports := p } :=
  ⟨h.1, h.2, h.3, h.4, h.5, h.6, fun i => e (h.7 i), h.8, h.9⟩
theorem keeps_wake {p} (h : Keeps s0 s) : Keeps s0 { s with wake := p } := ⟨h.1, h.2, h.3, h.4, h.5, h.6, h.7, h.8, h.9⟩
theorem keeps_erg {p} (h : Keeps s0 s) : Keeps s0 { s with erg := p } := ⟨h.1, h.2, h.3, h.4, h.5, h.6, h.7, h.8, h.9⟩
theorem keeps_fresh {p} (h : Keeps s0 s) : Keeps s0 { s with fresh := p } := ⟨h.1, h.2, h.3, h.4, h.5, h.6, h.7, h.8, h.9⟩
theorem keeps_mar {p : Mar} (h : Keeps s0 s) (e : p.slots = s.mar.slots) : Keeps s0 { s with mar := p } :=
  ⟨h.1, h.2, h.3, h.4, h.5, fun i => e ▸ h.6 i, h.7, h.8, h.9⟩
theorem keeps_ump {p : Ump} (h : Keeps s0 s) (e : s.ump.rst = .dead → p.rst = .dead)
    (e2 : HangBounded s.ump.hang → HangBounded p.hang) (e3 : LastSlotFive s.ump.log → LastSlotFive p.log) :
    Keeps s0 { s with ump := p } :=
  ⟨h.1, h.2, h.3, fun i => e (h.4 i), h.5, h.6, h.7, fun i => e2 (h.8 i), fun i => e3 (h.9 i)⟩
theorem keeps_rig {p : Rig} (h : Keeps s0 s) (e : p.lock = s.rig.lock) (e2 : p.swapOk = s.rig.swapOk) :
    Keeps s0 { s with rig := p } :=
  ⟨h.1, h.2, fun i => ⟨e.trans (h.3 i).1, e2.trans (h.3 i).2⟩, h.4, h.5, h.6, h.7, h.8, h.9⟩
theorem keeps_tkp {p : Tkp} (h : Keeps s0 s) (e : s.tkp.now ≤ p.now) : Keeps s0 { s with tkp := p } :=
  ⟨h.1, h.2, h.3, h.4, Nat.le_trans h.5 e, h.6, h.7, h.8, h.9⟩

theorem updMem_keeps {f} (h : Keeps s0 s) : Keeps s0 (updMem f s) := keeps_mem h
theorem updSld_keeps {f} (h : Keeps s0 s) : Keeps s0 (updSld f s) := keeps_sld h
theorem updStk_keeps {f} (h : Keeps s0 s) : Keeps s0 (updStk f s) := keeps_stk h
theorem updStb_keeps {f} (h : Keeps s0 s) : Keeps s0 (updStb f s) := keeps_stb h
theorem updHeat_keeps {f} (h : Keeps s0 s) : Keeps s0 (updHeat f s) := keeps_heat h
theorem updBhs_keeps {f} (h : Keeps s0 s) : Keeps s0 (updBhs f s) := keeps_bhs h
theorem updJudge_keeps {f} (h : Keeps s0 s) : Keeps s0 (updJudge f s) := keeps_judge h
theorem updErg_keeps {f} (h : Keeps s0 s) : Keeps s0 (updErg f s) := keeps_erg h
theorem updRack_keeps {f} (h : Keeps s0 s) : Keeps s0 (updRack f s) := keeps_rack h
theorem updPorts_keeps {f} (h : Keeps s0 s) (e : TagsDistinct s.ports → TagsDistinct (f s.ports)) : Keeps s0 (updPorts f s) :=
  keeps_ports h e
theorem updRing_keeps {i f} (h : Keeps s0 s) : Keeps s0 (updRing i f s) := keeps_mar h rfl
theorem updSeat_keeps {i f} (h : Keeps s0 s) : Keeps s0 (updSeat i f s) := keeps_mar h rfl
theorem updCore_keeps {i f} (h : Keeps s0 s) : Keeps s0 (updCore i f s) := keeps_cox h
theorem updRow_keeps {i f} (h : Keeps s0 s) : Keeps s0 (updRow i f s) := keeps_fab h
theorem updTree_keeps {i f} (h : Keeps s0 s) : Keeps s0 (updTree i f s) := keeps_fab h
theorem updObj_keeps {i f} (h : Keeps s0 s) : Keeps s0 (updObj i f s) := keeps_rack h
theorem updLoop_keeps {i f} (h : Keeps s0 s) : Keeps s0 (updLoop i f s) := keeps_heat h
theorem updStream_keeps {i f} (h : Keeps s0 s) : Keeps s0 (updStream i f s) := keeps_wake h
theorem updWaiter_keeps {i f} (h : Keeps s0 s) : Keeps s0 (updWaiter i f s) := keeps_stb h
theorem updWatch_keeps {i f} (h : Keeps s0 s) : Keeps s0 (updWatch i f s) := keeps_stb h
theorem updMar_keeps {f} (h : Keeps s0 s) (e : (f s.mar).slots = s.mar.slots) : Keeps s0 (updMar f s) := keeps_mar h e
theorem updUmp_keeps {f} (h : Keeps s0 s) (e : s.ump.rst = .dead → (f s.ump).rst = .dead)
    (e2 : HangBounded s.ump.hang → HangBounded (f s.ump).hang) (e3 : LastSlotFive s.ump.log → LastSlotFive (f s.ump).log) :
    Keeps s0 (updUmp f s) := keeps_ump h e e2 e3
theorem updRig_keeps {f} (h : Keeps s0 s) (e : (f s.rig).lock = s.rig.lock) (e2 : (f s.rig).swapOk = s.rig.swapOk) :
    Keeps s0 (updRig f s) := keeps_rig h e e2
theorem updTkp_keeps {f} (h : Keeps s0 s) (e : s.tkp.now ≤ (f s.tkp).now) : Keeps s0 (updTkp f s) := keeps_tkp h e

theorem updSlot_keeps {i : Nat} {f : Slot → Slot} (h : Keeps s0 s)
    (e : (f (s.slot i)).st ≠ .free → (s.slot i).st ≠ .free ∧ (f (s.slot i)).ctxId = (s.slot i).ctxId) :
    Keeps s0 (updSlot i f s) := by
  refine ⟨h.1, h.2, h.3, h.4, h.5, fun u => ⟨(h.6 u).1, fun a b la lb ha hb hab => ?_⟩, h.7, h.8, h.9⟩
  have d := (h.6 u).2
  simp only [updSlot, tab_get_upd, State.slot] at ha hb hab e
  by_cases ia : a = i <;> by_cases ib : b = i
  · rw [ia, ib]
  · subst ia; simp only [if_true, if_neg ib] at ha hb hab
    exact d _ _ la lb (e ha).1 hb ((e ha).2 ▸ hab)
  · subst ib; simp only [if_true, if_neg ia] at ha hb hab
    exact d _ _ la lb ha (e hb).1 ((e hb).2 ▸ hab)
  · simp only [if_neg ia, if_neg ib] at ha hb hab
    exact d _ _ la lb ha hb hab
theorem lookupCell_mem {α : Type} (d : α) (i : Nat) (l : List (Nat × α)) :
    lookupCell d i l = d ∨ (i, lookupCell d i l) ∈ l := by
  induction l with
  | nil => exact .inl rfl
  | cons c l ih =>
    obtain ⟨k, b⟩ := c
    simp only [lookupCell]
    split
    · subst_vars; exact .inr (List.mem_cons_self ..)
    · exact ih.imp id (List.mem_cons_of_mem _)
theorem lookupCell_map {α : Type} (f : α → α) (j : Nat) (d : α) (l : List (Nat × α)) :
    lookupCell (f d) j (l.map fun p => (p.1, f p.2)) = f (lookupCell d j l) := by
  induction l with
  | nil => rfl
  | cons c l ih =>
    obtain ⟨k, b⟩ := c
    simp only [List.map_cons, lookupCell]
    split
    · rfl
    · exact ih
theorem keelRings_length (i : Nat) (d : List (W64 × W64)) (l : List (Nat × List (W64 × W64))) :
    (lookupCell d i (l.map fun p => if isKeel p.1 then p else (p.1, []))).length ≤ (lookupCell d i l).length := by
  induction l with
  | nil => exact Nat.le_refl _
  | cons c l ih =>
    obtain ⟨k, b⟩ := c
    by_cases hk : isKeel k <;> by_cases hi : i = k <;> simp_all [lookupCell]
theorem settleLog_get (s : State) (i : Nat) : (settleLog s).get i =
    (if pendNow s (s.ump.log.get i).why then s.ump.log.get i else { s.ump.log.get i with why := .nothing }) :=
  lookupCell_map (fun l : LogSlot => if pendNow s l.why then l else { l with why := .nothing }) i _ _
theorem settleLog_get_valid (s : State) (i : Nat) : ((settleLog s).get i).valid = (s.ump.log.get i).valid := by
  rw [settleLog_get]; split <;> rfl
theorem settleLog_get_entry (s : State) (i : Nat) : ((settleLog s).get i).entry = (s.ump.log.get i).entry := by
  rw [settleLog_get]; split <;> rfl
/-- A slot takes an id that no slot holds. -/
theorem updSlot_new {i : Nat} {f : Slot → Slot} (h : Keeps s0 s) (e : slotOf s (f (s.slot i)).ctxId = none) :
    Keeps s0 (updSlot i f s) := by
  refine ⟨h.1, h.2, h.3, h.4, h.5, fun u => ⟨(h.6 u).1, fun a b la lb ha hb hab => ?_⟩, h.7, h.8, h.9⟩
  obtain ⟨df, d⟩ := h.6 u
  have no : ∀ j, j < 1024 → (s.mar.slots.get j).st ≠ .free → (s.mar.slots.get j).ctxId ≠ (f (s.slot i)).ctxId := by
    intro j lj fj ej
    rcases lookupCell_mem s.mar.slots.dflt j s.mar.slots.cells with hd | hm
    · exact fj (by rw [Tab.get, hd, df])
    · simp only [slotOf, Option.map_eq_none_iff, List.find?_eq_none] at e
      have := e _ hm
      simp only [Tab.get] at fj ej
      simp [lj, fj, ej] at this
  simp only [updSlot, tab_get_upd] at ha hb hab
  by_cases ia : a = i <;> by_cases ib : b = i
  · rw [ia, ib]
  · subst ia; simp only [if_true, if_neg ib] at ha hb hab
    exact absurd hab.symm (no b lb hb)
  · subst ib; simp only [if_true, if_neg ia] at ha hb hab
    exact absurd hab (no a la ha)
  · simp only [if_neg ia, if_neg ib] at ha hb hab
    exact d _ _ la lb ha hb hab
theorem updSlot_same {i : Nat} {f : Slot → Slot} (h : Keeps s0 s) (e : (f (s.slot i)).st = (s.slot i).st)
    (e2 : (f (s.slot i)).ctxId = (s.slot i).ctxId) : Keeps s0 (updSlot i f s) :=
  updSlot_keeps h fun x => ⟨e ▸ x, e2⟩
theorem updSlot_freed {i : Nat} {f : Slot → Slot} (h : Keeps s0 s) (e : (f (s.slot i)).st = .free) :
    Keeps s0 (updSlot i f s) :=
  updSlot_keeps h fun x => absurd e x
theorem foldl_keeps {α : Type} {l : List α} {f : State → α → State} (hf : ∀ t a, Keeps s0 t → Keeps s0 (f t a))
    (h : Keeps s0 s) : Keeps s0 (l.foldl f s) := by
  induction l generalizing s with
  | nil => exact h
  | cons a l ih => exact ih (hf _ _ h)
theorem each_keeps {α : Type} {l : List α} {f : State → α → State} (h : Keeps s0 s)
    (hf : ∀ t a, Keeps s0 t → Keeps s0 (f t a)) : Keeps s0 (each l f s) := foldl_keeps hf h
theorem ite_keeps {c : Prop} [Decidable c] {t u : State} (ht : c → Keeps s0 t) (hu : ¬c → Keeps s0 u) :
    Keeps s0 (if c then t else u) := by
  split
  · exact ht ‹_›
  · exact hu ‹_›


/-- The state that an operation answers, where it answers one, keeps what `s0` held. -/
def KeepsO (s0 : State) : Option State → Prop
  | some t => Keeps s0 t
  | none => True
def KeepsOP {α : Type} (s0 : State) : Option (α × State) → Prop
  | some p => Keeps s0 p.2
  | none => True
def KeepsE {ε : Type} (s0 : State) : Except ε State → Prop
  | .ok t => Keeps s0 t
  | .error _ => True
def KeepsEP {ε α : Type} (s0 : State) : Except ε (α × State) → Prop
  | .ok p => Keeps s0 p.2
  | .error _ => True
theorem keepsO_some {t : State} (h : Keeps s0 t) : KeepsO s0 (some t) := h
theorem keepsOP_some {α : Type} {x : α} {t : State} (h : Keeps s0 t) : KeepsOP s0 (some (x, t)) := h
theorem keepsE_ok {ε : Type} {t : State} (h : Keeps s0 t) : KeepsE (ε := ε) s0 (.ok t) := h
theorem keepsEP_ok {ε α : Type} {x : α} {t : State} (h : Keeps s0 t) : KeepsEP (ε := ε) s0 (.ok (x, t)) := h
theorem KeepsO.of {o : Option State} {t : State} (h : KeepsO s0 o) (e : o = some t) : Keeps s0 t := by subst e; exact h
theorem KeepsOP.of {α : Type} {x : α} {o : Option (α × State)} {t : State} (h : KeepsOP s0 o) (e : o = some (x, t)) :
    Keeps s0 t := by subst e; exact h
theorem KeepsE.of {ε : Type} {o : Except ε State} {t : State} (h : KeepsE s0 o) (e : o = .ok t) : Keeps s0 t := by
  subst e; exact h
theorem KeepsEP.of {ε α : Type} {x : α} {o : Except ε (α × State)} {t : State} (h : KeepsEP s0 o) (e : o = .ok (x, t)) :
    Keeps s0 t := by subst e; exact h
theorem pair_keeps {α : Type} {x : α} {p : α × State} {t : State} (h : Keeps s0 p.2) (e : p = (x, t)) : Keeps s0 t := by
  subst e; exact h
theorem pair_keeps' {α : Type} {x : α} {p : State × α} {t : State} (h : Keeps s0 p.1) (e : p = (t, x)) : Keeps s0 t := by
  subst e; exact h

def KeepsP {α : Type} (s0 : State) (p : State × α) : Prop := Keeps s0 p.1
def KeepsQ {α : Type} (s0 : State) (p : α × State) : Prop := Keeps s0 p.2
theorem keepsP_mk {α : Type} {x : α} {t : State} (h : Keeps s0 t) : KeepsP s0 (t, x) := h
theorem keepsQ_mk {α : Type} {x : α} {t : State} (h : Keeps s0 t) : KeepsQ s0 (x, t) := h
theorem KeepsP.fst {α : Type} {p : State × α} (h : KeepsP s0 p) : Keeps s0 p.1 := h
theorem KeepsQ.snd {α : Type} {p : α × State} (h : KeepsQ s0 p) : Keeps s0 p.2 := h
theorem KeepsP.of {α : Type} {x : α} {p : State × α} {t : State} (h : KeepsP s0 p) (e : p = (t, x)) : Keeps s0 t := by
  subst e; exact h
theorem KeepsQ.of {α : Type} {x : α} {p : α × State} {t : State} (h : KeepsQ s0 p) (e : p = (x, t)) : Keeps s0 t := by
  subst e; exact h
theorem keeps_rack_mem {p q} (h : Keeps s0 s) : Keeps s0 { s with rack := p, mem := q } := ⟨h.1, h.2, h.3, h.4, h.5, h.6, h.7, h.8, h.9⟩

def KeepsRb (s0 : State) (r : Rollback) : Prop := Keeps s0 r.st
theorem keepsRb_mk {t : State} {x0 x1 x2 x3 x4} (h : Keeps s0 t) : KeepsRb s0 ⟨t, x0, x1, x2, x3, x4⟩ := h
theorem KeepsRb.st {r : Rollback} (h : KeepsRb s0 r) : Keeps s0 r.st := h
theorem keepsRb_foldl {α : Type} {l : List α} {f : Rollback → α → Rollback} {r : Rollback}
    (hf : ∀ t a, KeepsRb s0 t → KeepsRb s0 (f t a)) (h : KeepsRb s0 r) : KeepsRb s0 (l.foldl f r) := by
  induction l generalizing r with
  | nil => exact h
  | cons a l ih => exact ih (hf _ _ h)

def KeepsCm (s0 : State) (r : Committing) : Prop := Keeps s0 r.st
theorem keepsCm_mk {t : State} {x0 x1 x2 x3 x4 x5 x6} (h : Keeps s0 t) : KeepsCm s0 ⟨t, x0, x1, x2, x3, x4, x5, x6⟩ := h
theorem KeepsCm.st {r : Committing} (h : KeepsCm s0 r) : Keeps s0 r.st := h
theorem keepsCm_foldl {α : Type} {l : List α} {f : Committing → α → Committing} {r : Committing}
    (hf : ∀ t a, KeepsCm s0 t → KeepsCm s0 (f t a)) (h : KeepsCm s0 r) : KeepsCm s0 (l.foldl f r) := by
  induction l generalizing r with
  | nil => exact h
  | cons a l ih => exact ih (hf _ _ h)

def KeepsKv (s0 : State) (r : KvRun) : Prop := Keeps s0 r.st
theorem keepsKv_mk {t : State} {x0 x1 x2 x3} (h : Keeps s0 t) : KeepsKv s0 ⟨t, x0, x1, x2, x3⟩ := h
theorem KeepsKv.st {r : KvRun} (h : KeepsKv s0 r) : Keeps s0 r.st := h
theorem keepsKv_foldl {α : Type} {l : List α} {f : KvRun → α → KvRun} {r : KvRun}
    (hf : ∀ t a, KeepsKv s0 t → KeepsKv s0 (f t a)) (h : KeepsKv s0 r) : KeepsKv s0 (l.foldl f r) := by
  induction l generalizing r with
  | nil => exact h
  | cons a l ih => exact ih (hf _ _ h)

theorem snd_foldl_keeps {α β : Type} {l : List α} {f : β × State → α → β × State} {b : β × State}
    (hf : ∀ t a, KeepsQ s0 t → KeepsQ s0 (f t a)) (h : KeepsQ s0 b) : Keeps s0 (l.foldl f b).2 := by
  suffices KeepsQ s0 (l.foldl f b) from this
  induction l generalizing b with
  | nil => exact h
  | cons a l ih => exact ih (hf _ _ h)

def KeepsOut (s0 : State) : Out → Prop
  | .next t => Keeps s0 t
  | _ => True
theorem keepsOut_next {t : State} (h : Keeps s0 t) : KeepsOut s0 (.next t) := h

/-! ### Tags -/

theorem leastFree_bounds (l : List Nat) (fuel n : Nat) :
    n ≤ leastFree l fuel n ∧ leastFree l fuel n ≤ n + fuel ∧ (∀ m, n ≤ m → m < leastFree l fuel n → m ∈ l) ∧
    (leastFree l fuel n < n + fuel → leastFree l fuel n ∉ l) := by
  induction fuel generalizing n with
  | zero => exact ⟨Nat.le_refl _, Nat.le_refl _, fun m a b => absurd b (by simp only [leastFree]; omega),
      fun h => absurd h (by simp only [leastFree]; omega)⟩
  | succ f ih =>
    simp only [leastFree]
    split
    · next hc =>
      obtain ⟨a, b, c, d⟩ := ih (n + 1)
      refine ⟨by omega, by omega, fun m hm hl => ?_, fun h => d (by omega)⟩
      rcases Nat.eq_or_lt_of_le hm with rfl | hm
      · simpa using hc
      · exact c m hm hl
    · next hc => exact ⟨by omega, by omega, fun m a b => by omega, fun _ => by simpa using hc⟩
/-- A list that holds every number below `n` has at least `n` elements. -/
theorem length_of_range (n : Nat) (l : List Nat) (h : ∀ m, m < n → m ∈ l) : n ≤ l.length := by
  induction n generalizing l with
  | zero => exact Nat.zero_le _
  | succ n ih =>
    have hn := h n (Nat.lt_succ_self n)
    have := ih (l.erase n) fun m hm => (List.mem_erase_of_ne (by omega)).2 (h m (by omega))
    rw [List.length_erase_of_mem hn] at this
    have := List.length_pos_of_mem hn
    omega
/-- The tag a request takes is no tag in use. -/
theorem leastFree_not_mem (l : List Nat) : leastFree l l.length 0 ∉ l := by
  obtain ⟨-, b, c, d⟩ := leastFree_bounds l l.length 0
  rcases Nat.lt_or_ge (leastFree l l.length 0) (0 + l.length) with h | h
  · exact d h
  · intro hm
    have hsub : List.range (l.length + 1) ⊆ l := by
      intro m hm'
      have := List.mem_range.1 hm'
      rcases Nat.lt_or_ge m (leastFree l l.length 0) with hl | hl
      · exact c m (Nat.zero_le _) hl
      · rw [show m = leastFree l l.length 0 by omega]; exact hm
    exact absurd (length_of_range (l.length + 1) l fun m hl => hsub (List.mem_range.2 hl)) (by omega)
theorem nodup_snoc {α : Type} {l : List α} {tagOf : α → Nat} {a : α} (h : (l.map tagOf).Nodup)
    (e : tagOf a = leastFree (l.map tagOf) l.length 0) : ((l ++ [a]).map tagOf).Nodup := by
  have := leastFree_not_mem (l.map tagOf)
  rw [List.length_map, ← e] at this
  simp only [List.map_append, List.map_cons, List.map_nil]
  rw [List.nodup_append]
  exact ⟨h, by simp, by rintro x hx y hy rfl; exact this ((List.mem_singleton.1 hy) ▸ hx)⟩
theorem nodup_map {α : Type} {l : List α} {tagOf : α → Nat} {f : α → α} (h : (l.map tagOf).Nodup)
    (e : ∀ a, tagOf (f a) = tagOf a) : ((l.map f).map tagOf).Nodup := by
  rwa [List.map_map, show tagOf ∘ f = tagOf from funext e]
theorem nodup_filter {α : Type} {l : List α} {tagOf : α → Nat} {p : α → Bool} (h : (l.map tagOf).Nodup) :
    ((l.filter p).map tagOf).Nodup := h.sublist (List.Sublist.map _ (List.filter_sublist ..))
theorem mem_reuseTag {α : Type} {l : List α} {tagOf : α → Nat} {give : α → α} {t x : Nat} (e : ∀ a, tagOf (give a) = t)
    (hx : x ∈ (reuseTag tagOf give l).map tagOf) : x = t ∨ x ∈ l.map tagOf := by
  induction l with
  | nil => exact .inr hx
  | cons a l ih =>
    simp only [reuseTag] at hx
    split at hx
    · simp only [List.map_cons, List.mem_cons, e] at hx ⊢
      exact hx.imp id .inr
    · simp only [List.map_cons, List.mem_cons] at hx ⊢
      rcases hx with h | h
      · exact .inr (.inl h)
      · exact (ih h).imp id .inr
theorem nodup_reuse {α : Type} {l : List α} {tagOf : α → Nat} {give : α → α} {t : Nat} (e : ∀ a, tagOf (give a) = t)
    (h : (l.map tagOf).Nodup) (ht : t ∉ l.map tagOf) : ((reuseTag tagOf give l).map tagOf).Nodup := by
  induction l with
  | nil => exact h
  | cons a l ih =>
    simp only [List.map_cons, List.nodup_cons, List.mem_cons, not_or] at h ht
    simp only [reuseTag]
    split
    · simp only [List.map_cons, e, List.nodup_cons]; exact ⟨ht.2, h.2⟩
    · simp only [List.map_cons, List.nodup_cons]
      refine ⟨fun hm => ?_, ih h.2 ht.2⟩
      rcases mem_reuseTag e hm with hx | hx
      · exact ht.1 hx.symm
      · exact h.1 hx
theorem nodup_drop {α : Type} {l : List α} {tagOf : α → Nat} {give : α → α} {t : Nat} (e : ∀ a, tagOf (give a) = t)
    (h : (l.map tagOf).Nodup) : ((reuseTag tagOf give (l.filter fun q => tagOf q != t)).map tagOf).Nodup := by
  refine nodup_reuse e (nodup_filter h) ?_
  simp

end Sys2Proof.Machine
end

