-- ==== Sys2Proof/Laws/KeepsBase.lean ====
section
/-! SUPPORT. What `Keeps` says, operation by operation: the shared operations: trace, log, ports, pages, rings, launches, errors. -/
namespace Sys2Proof.Machine

theorem State.nextFree_keeps {s0 s : State} (h : Keeps s0 s) : Keeps s0 (State.nextFree s) := by
  unfold State.nextFree
  apply keeps_fresh
  assumption
theorem raiseIrq_keeps {s0 s : State} {a0} (h : Keeps s0 s) : Keeps s0 (raiseIrq a0 s) := by
  unfold raiseIrq
  extract_lets v1
  apply keeps_ports
  · assumption
  · exact fun hd => hd
theorem hangEv_keeps {s0 s : State} {a0 a1 a2} (h : Keeps s0 s) : Keeps s0 (hangEv a0 a1 a2 s) := by
  unfold hangEv
  split
  · exact h
  · refine keeps_ump h id (fun hb isl => ?_) id
    simp only [tab_get_upd]
    split
    · have := hb a0
      simp only [List.length_drop, List.length_append, List.length_cons, List.length_nil]
      omega
    · exact hb isl
theorem stateEv_keeps {s0 s : State} {a0 a1 a2 a3 a4} (h : Keeps s0 s) : Keeps s0 (stateEv a0 a1 a2 a3 a4 s) := by
  unfold stateEv
  split
  · assumption
  · apply hangEv_keeps
    assumption
theorem refuseEv_keeps {s0 s : State} {a0 a1 a2 a3} (h : Keeps s0 s) : Keeps s0 (refuseEv a0 a1 a2 a3 s) := by
  unfold refuseEv
  split
  · assumption
  · apply hangEv_keeps
    assumption
theorem freezeStart_keeps {s0 s : State} (h : Keeps s0 s) : Keeps s0 (freezeStart s) := by
  unfold freezeStart
  extract_lets v1
  split
  · apply keeps_erg
    assumption
  · assumption
theorem ctrTake_keeps {s0 s : State} {a0 a1} (h : Keeps s0 s) : Keeps s0 (ctrTake a0 a1 s) := by
  unfold ctrTake
  extract_lets v1 v2 v3 v4 v5 v6 v7
  have hv5 : Keeps s0 v5 := by
    unfold v5
    apply keeps_erg
    assumption
  clear_value v5
  have hv7 : Keeps s0 v7 := by
    unfold v7
    apply keeps_erg
    assumption
  clear_value v7
  split
  · split
    · apply freezeStart_keeps
      assumption
    · assumption
  · assumption
theorem ergOne_keeps {s0 s : State} {a0 a1 a2 a4} (h : Keeps s0 s) : Keeps s0 (ergOne a0 a1 a2 s a4) := by
  unfold ergOne
  extract_lets v1
  split
  · apply ctrTake_keeps
    assumption
  · assumption
theorem ergCount_keeps {s0 s : State} {a0 a1 a2} (h : Keeps s0 s) : Keeps s0 (ergCount a0 a1 a2 s) := by
  unfold ergCount
  split
  · apply each_keeps
    · assumption
    · intro i1 i2 i3
      apply ergOne_keeps
      assumption
  · assumption
theorem histOne_keeps {s0 s : State} {a0 a1 a2 a4} (h : Keeps s0 s) : Keeps s0 (histOne a0 a1 a2 s a4) := by
  unfold histOne
  extract_lets v1 v2
  split
  · apply keeps_erg
    assumption
  · assumption
theorem ergValue_keeps {s0 s : State} {a0 a1 a2} (h : Keeps s0 s) : Keeps s0 (ergValue a0 a1 a2 s) := by
  unfold ergValue
  split
  · apply ergCount_keeps
    apply each_keeps
    · assumption
    · intro i1 i2 i3
      apply histOne_keeps
      assumption
  · assumption
theorem writeBlock_keeps {s0 s : State} {a0} (h : Keeps s0 s) : Keeps s0 (writeBlock a0 s) := by
  unfold writeBlock
  extract_lets v1 v2 v3 v4 v5
  split
  · assumption
  · split
    extract_lets v6 v7
    split
    · apply keeps_wake
      assumption
    · apply hangEv_keeps
      apply keeps_wake
      assumption
theorem writeFull_keeps {s0 s : State} {a0 a1} (h : Keeps s0 s) : Keeps s0 (writeFull a0 a1 s) := by
  induction a1 generalizing s a0
  · unfold writeFull
    assumption
  · rename_i n ih
    unfold writeFull
    split
    · assumption
    · apply ih
      apply writeBlock_keeps
      assumption
theorem wakeOne_keeps {s0 s : State} {a0 a1 a2 a3 a4 a5 a6 a7 a8 a9 a11} (h : Keeps s0 s) : Keeps s0 (wakeOne a0 a1 a2 a3 a4 a5 a6 a7 a8 a9 s a11) := by
  unfold wakeOne
  extract_lets v1 v2 v3
  split
  · assumption
  · split
    extract_lets v4
    apply writeFull_keeps
    apply keeps_wake
    assumption
theorem wakeRec_keeps {s0 s : State} {a0 a1 a2 a3 a4 a5 a6 a7} (h : Keeps s0 s) : Keeps s0 (wakeRec a0 a1 a2 a3 a4 a5 a6 a7 s) := by
  unfold wakeRec
  split
  · apply each_keeps
    · assumption
    · intro i1 i2 i3
      apply wakeOne_keeps
      assumption
  · assumption
theorem wakeEv_keeps {s0 s : State} {a0 a1 a2 a3 a4} (h : Keeps s0 s) : Keeps s0 (wakeEv a0 a1 a2 a3 a4 s) := by
  unfold wakeEv
  apply wakeRec_keeps
  assumption
theorem logRec_keeps {s0 s : State} {a0 a1} (h : Keeps s0 s) : Keeps s0 (logRec a0 a1 s) := by
  unfold logRec
  extract_lets nested rec_ s1 u s2
  have h1 : Keeps s0 s1 := hangEv_keeps h
  have h2 : Keeps s0 s2 := by
    unfold s2
    split
    · exact keeps_ump h1 id id id
    · next i hi =>
      have h3 : Keeps s0 { s1 with ump := { s1.ump with log := (settleLog s1).set i ⟨rec_, true, a0⟩ } } := by
        refine keeps_ump h1 id id fun hl => ?_
        unfold LastSlotFive
        simp only [tab_get_set]
        split
        · next hi15 =>
          intro _
          unfold logSlotFor at hi
          split at hi
          · next hf =>
            cases hi
            have := List.mem_of_find?_eq_some hf
            simp at this; omega
          · split at hi
            · next hc =>
              have := (Bool.and_eq_true _ _ ▸ hc).1
              exact beq_iff_eq.1 this
            · cases hi
        · rw [settleLog_get_valid, settleLog_get_entry]; exact hl
      extract_lets s3
      split
      · exact raiseIrq_keeps (keeps_ump h3 id id id)
      · exact h3
  clear_value s2
  split
  · exact freezeStart_keeps h2
  · exact h2
theorem moveSeat_keeps {s0 s : State} {a0 a1} (h : Keeps s0 s) : Keeps s0 (moveSeat a0 a1 s) := by
  unfold moveSeat
  extract_lets v1
  have hv1 : Keeps s0 v1 := by
    unfold v1
    apply updSeat_keeps
    assumption
  clear_value v1
  apply stateEv_keeps
  assumption
theorem updEng_keeps {s0 s : State} {a0 a1 a2} (h : Keeps s0 s) : Keeps s0 (updEng a0 a1 a2 s) := by
  unfold updEng
  apply updRow_keeps
  assumption
theorem moveEng_keeps {s0 s : State} {a0 a1 a2} (h : Keeps s0 s) : Keeps s0 (moveEng a0 a1 a2 s) := by
  unfold moveEng
  extract_lets v1 v2
  have hv1 : Keeps s0 v1 := by
    unfold v1
    apply updEng_keeps
    assumption
  clear_value v1
  apply stateEv_keeps
  assumption
theorem updWork_keeps {s0 s : State} {a0 a1} (h : Keeps s0 s) : Keeps s0 (updWork a0 a1 s) := by
  unfold updWork
  apply updMar_keeps
  · assumption
  · rfl
theorem updProg_keeps {s0 s : State} {a0 a1} (h : Keeps s0 s) : Keeps s0 (updProg a0 a1 s) := by
  unfold updProg
  apply updSeat_keeps
  assumption
theorem reqEv_keeps {s0 s : State} {a0 a1 a2 a3} (h : Keeps s0 s) : Keeps s0 (reqEv a0 a1 a2 a3 s) := by
  unfold reqEv
  split
  · assumption
  · apply hangEv_keeps
    assumption
theorem rspEv_keeps {s0 s : State} {a0 a1 a2 a3} (h : Keeps s0 s) : Keeps s0 (rspEv a0 a1 a2 a3 s) := by
  unfold rspEv
  apply hangEv_keeps
  assumption
theorem issueNm_keeps {s0 s : State} {a0 a1 a2 a3 a4 a5 a6 a7} (h : Keeps s0 s) : Keeps s0 (issueNm a0 a1 a2 a3 a4 a5 a6 a7 s) := by
  refine reqEv_keeps (updPorts_keeps h fun ⟨a, b⟩ => ⟨nodup_snoc a ?_, b⟩)
  rfl
theorem issueHm_keeps {s0 s : State} {a0 a1 a2 a3 a4 a5} (h : Keeps s0 s) : Keeps s0 (issueHm a0 a1 a2 a3 a4 a5 s) := by
  refine reqEv_keeps (updPorts_keeps h fun ⟨a, b, c⟩ => ⟨a, nodup_snoc b ?_, c⟩)
  rfl
theorem issueAt_keeps {s0 s : State} {a0 a1 a2 a3 a4 a5 a6} (h : Keeps s0 s) : Keeps s0 (issueAt a0 a1 a2 a3 a4 a5 a6 s) := by
  refine reqEv_keeps (updPorts_keeps h fun ⟨a, b, c, d⟩ => ⟨a, b, nodup_snoc c ?_, d⟩)
  rfl
theorem ownRead_keeps {s0 s : State} {a0 a1 a2 a3} (h : Keeps s0 s) : Keeps s0 (ownRead a0 a1 a2 a3 s) := by
  unfold ownRead
  apply updPorts_keeps
  · assumption
  · exact fun hd => hd
theorem noteSignal_keeps {s0 s : State} {a0 a1 a2 a3 a4} (h : Keeps s0 s) : Keeps s0 (noteSignal a0 a1 a2 a3 a4 s) := by
  unfold noteSignal
  extract_lets v1 v2 v3 v4 v5
  have hv3 : Keeps s0 v3 := by
    unfold v3
    apply updPorts_keeps
    · assumption
    · exact fun hd => hd
  clear_value v3
  have hv4 : Keeps s0 v4 := by
    unfold v4
    apply ergCount_keeps
    assumption
  clear_value v4
  have hv5 : Keeps s0 v5 := by
    unfold v5
    split
    · apply ergCount_keeps
      assumption
    · assumption
  clear_value v5
  apply wakeEv_keeps
  assumption
theorem failFenceStart_keeps {s0 s : State} {a0 a1 a2 a3 a4} (h : Keeps s0 s) : Keeps s0 (failFenceStart a0 a1 a2 a3 a4 s) := by
  unfold failFenceStart
  split
  · apply updPorts_keeps
    · assumption
    · exact fun hd => hd
  · apply issueAt_keeps
    assumption
theorem failFenceTurn_keeps {s0 s : State} {a0 a1 a2 a3 a4 a5 a6} (h : Keeps s0 s) : KeepsP s0 (failFenceTurn a0 a1 a2 a3 a4 a5 a6 s) := by
  unfold failFenceTurn
  extract_lets v1
  split
  · apply keepsP_mk
    assumption
  · split
    · apply keepsP_mk
      apply issueAt_keeps
      assumption
    · apply keepsP_mk
      apply issueAt_keeps
      assumption
theorem failFenceStep_keeps {s0 s : State} {a0 a1 a2 a3 a4 a5} (h : Keeps s0 s) : KeepsP s0 (failFenceStep a0 a1 a2 a3 a4 a5 s) := by
  unfold failFenceStep
  split
  · split
    · apply keepsP_mk
      assumption
    · apply failFenceTurn_keeps
      assumption
  · split
    · apply keepsP_mk
      assumption
    · apply failFenceTurn_keeps
      assumption
  · apply keepsP_mk
    assumption
theorem pagesFreed_keeps {s0 s : State} (h : Keeps s0 s) : Keeps s0 (pagesFreed s) := by
  unfold pagesFreed
  extract_lets v1 v2
  apply keeps_heat
  assumption
theorem reclaim_keeps {s0 s : State} {a0} (h : Keeps s0 s) : Keeps s0 (reclaim a0 s) := by
  unfold reclaim
  extract_lets v1 v2 v3 v4 v5
  have hv2 : Keeps s0 v2 := by
    unfold v2
    apply updObj_keeps
    assumption
  clear_value v2
  have hv3 : Keeps s0 v3 := by
    unfold v3
    split
    · apply pagesFreed_keeps
      assumption
    · assumption
  clear_value v3
  apply keeps_rack_mem
  assumption
theorem setRefs_keeps {s0 s : State} {a0 a1} (h : Keeps s0 s) : Keeps s0 (setRefs a0 a1 s) := by
  unfold setRefs
  extract_lets v1
  have hv1 : Keeps s0 v1 := by
    unfold v1
    apply updObj_keeps
    assumption
  clear_value v1
  split
  · apply reclaim_keeps
    assumption
  · assumption
theorem refAddOp_keeps {s0 s : State} {a0 a1 a2} (h : Keeps s0 s) : KeepsE s0 (refAddOp a0 a1 a2 s) := by
  unfold refAddOp
  extract_lets v1
  split
  · trivial
  · split
    · trivial
    · split
      · trivial
      · split
        · trivial
        · apply keepsE_ok
          apply setRefs_keeps
          assumption
theorem refSubOp_keeps {s0 s : State} {a0 a1 a2} (h : Keeps s0 s) : KeepsE s0 (refSubOp a0 a1 a2 s) := by
  unfold refSubOp
  extract_lets v1
  split
  · trivial
  · split
    · trivial
    · split
      · trivial
      · apply keepsE_ok
        apply setRefs_keeps
        assumption
theorem freeOp_keeps {s0 s : State} {a0 a1} (h : Keeps s0 s) : KeepsE s0 (freeOp a0 a1 s) := by
  unfold freeOp
  extract_lets v1
  split
  · trivial
  · split
    · split
      · trivial
      · split
        · trivial
        · apply keepsE_ok
          apply setRefs_keeps
          apply updObj_keeps
          assumption
    · split
      · trivial
      · split
        · trivial
        · apply keepsE_ok
          apply setRefs_keeps
          apply updObj_keeps
          assumption
theorem forceFreeOp_keeps {s0 s : State} {a0} (h : Keeps s0 s) : KeepsE s0 (forceFreeOp a0 s) := by
  unfold forceFreeOp
  extract_lets v1
  split
  · trivial
  · split
    · trivial
    · apply keepsE_ok
      apply setRefs_keeps
      apply updObj_keeps
      assumption
theorem writeBackObj_keeps {s0 s : State} {a0} (h : Keeps s0 s) : Keeps s0 (writeBackObj a0 s) := by
  unfold writeBackObj
  apply issueNm_keeps
  apply updRack_keeps
  assumption
theorem lazyWriteBack_keeps {s0 s : State} (h : Keeps s0 s) : Keeps s0 (lazyWriteBack s) := by
  unfold lazyWriteBack
  split
  · assumption
  · split
    · apply writeBackObj_keeps
      apply State.nextFree_keeps
      assumption
    · apply State.nextFree_keeps
      assumption
theorem newObject_keeps {s0 s : State} {a0 a1} (h : Keeps s0 s) : Keeps s0 (newObject a0 a1 s) := by
  unfold newObject
  apply updObj_keeps
  assumption
theorem poisonObj_keeps {s0 s : State} {a0} (h : Keeps s0 s) : Keeps s0 (poisonObj a0 s) := by
  unfold poisonObj
  extract_lets v1
  split
  · assumption
  · apply updMem_keeps
    apply updObj_keeps
    assumption
theorem poisonMark_keeps {s0 s : State} {a0} (h : Keeps s0 s) : Keeps s0 (poisonMark a0 s) := by
  unfold poisonMark
  extract_lets v1 v2
  have hv2 : Keeps s0 v2 := by
    unfold v2
    apply each_keeps
    · assumption
    · intro i1 i2 i3
      apply poisonObj_keeps
      assumption
  clear_value v2
  split
  · extract_lets v3
    have hv3 : Keeps s0 v3 := by
      unfold v3
      apply updMem_keeps
      assumption
    clear_value v3
    split
    · apply poisonObj_keeps
      assumption
    · assumption
  · assumption
theorem issueWrite_keeps {s0 s : State} {a0 a1 a2 a3} (h : Keeps s0 s) : Keeps s0 (issueWrite a0 a1 a2 a3 s) := by
  unfold issueWrite
  split
  · apply issueHm_keeps
    assumption
  · apply issueNm_keeps
    assumption
theorem startPlan_keeps {s0 s : State} {a0 a1 a2 a3} (h : Keeps s0 s) : Keeps s0 (startPlan a0 a1 a2 a3 s) := by
  unfold startPlan
  extract_lets v1
  split
  · assumption
  · extract_lets v2
    have hv2 : Keeps s0 v2 := by
      unfold v2
      apply updPorts_keeps
      · assumption
      · exact fun hd => hd
    clear_value v2
    split
    · apply updPorts_keeps
      · assumption
      · exact fun hd => hd
    · apply each_keeps
      · assumption
      · intro i1 i2 i3
        apply issueWrite_keeps
        assumption
theorem kickPlan_keeps {s0 s : State} {a1} (h : Keeps s0 s) : Keeps s0 (kickPlan s a1) := by
  unfold kickPlan
  split
  · assumption
  · extract_lets v1
    have hv1 : Keeps s0 v1 := by
      unfold v1
      apply updPorts_keeps
      · assumption
      · exact fun hd => hd
    clear_value v1
    apply each_keeps
    · assumption
    · intro i1 i2 i3
      apply issueWrite_keeps
      assumption
theorem kickPlans_keeps {s0 s : State} (h : Keeps s0 s) : Keeps s0 (kickPlans s) := by
  unfold kickPlans
  apply each_keeps
  · assumption
  · intro i1 i2 i3
    apply kickPlan_keeps
    assumption
theorem planAnswer_keeps {s0 s : State} {a0 a1 a2} (h : Keeps s0 s) : KeepsP s0 (planAnswer a0 a1 a2 s) := by
  unfold planAnswer
  split
  · apply keepsP_mk
    assumption
  · extract_lets v1
    split
    · apply keepsP_mk
      apply updPorts_keeps
      · assumption
      · exact fun hd => hd
    · split
      · apply keepsP_mk
        apply updPorts_keeps
        · assumption
        · exact fun hd => hd
      · extract_lets v2
        have hv2 : Keeps s0 v2 := by
          unfold v2
          apply updPorts_keeps
          · assumption
          · exact fun hd => hd
        clear_value v2
        apply keepsP_mk
        apply each_keeps
        · assumption
        · intro i1 i2 i3
          apply issueWrite_keeps
          assumption
theorem startFetch_keeps {s0 s : State} {a0 a1 a2 a3 a4 a5} (h : Keeps s0 s) : Keeps s0 (startFetch a0 a1 a2 a3 a4 a5 s) := by
  unfold startFetch
  extract_lets v1 v2
  have hv2 : Keeps s0 v2 := by
    unfold v2
    apply updPorts_keeps
    · assumption
    · exact fun hd => hd
  clear_value v2
  split
  · assumption
  · apply each_keeps
    · assumption
    · intro i1 i2 i3
      split
      · apply issueHm_keeps
        assumption
      · apply issueNm_keeps
        assumption
theorem fetchAnswer_keeps {s0 s : State} {a0 a1 a2 a3} (h : Keeps s0 s) : KeepsP s0 (fetchAnswer a0 a1 a2 a3 s) := by
  unfold fetchAnswer
  split
  · apply keepsP_mk
    assumption
  · extract_lets v1
    split
    · apply keepsP_mk
      apply updPorts_keeps
      · assumption
      · exact fun hd => hd
    · apply keepsP_mk
      apply updPorts_keeps
      · assumption
      · exact fun hd => hd
theorem allocBlock_keeps {s0 s : State} {a0 a1} (h : Keeps s0 s) : KeepsOP s0 (allocBlock a0 a1 s) := by
  unfold allocBlock
  extract_lets v1 v2 v3 v4
  split
  · trivial
  · split
    · trivial
    · split
      · trivial
      · apply keepsO_some
        apply keepsP_mk
        · assumption
        · apply updMem_keeps
          apply State.nextFree_keeps
          assumption
theorem allocObject_keeps {s0 s : State} {a0 a1 a2 a3} (h : Keeps s0 s) : KeepsEP s0 (allocObject a0 a1 a2 a3 s) := by
  unfold allocObject
  extract_lets v1
  split
  · trivial
  · split
    · trivial
    · apply keepsEP_ok
      apply newObject_keeps
      refine KeepsOP.of (allocBlock_keeps ?_) (by assumption)
      apply State.nextFree_keeps
      assumption
theorem updTab_keeps {s0 s : State} {a0 a1} (h : Keeps s0 s) : Keeps s0 (updTab a0 a1 s) := by
  unfold updTab
  apply updMem_keeps
  assumption
theorem takePages_keeps {s0 s : State} {a0 a1 a2} (h : Keeps s0 s) : KeepsO s0 (takePages a0 a1 a2 s) := by
  induction a2 generalizing s a0 a1
  · unfold takePages
    apply keepsO_some
    assumption
  · rename_i n ih
    unfold takePages
    extract_lets v1
    split
    · trivial
    · apply ih
      apply updTab_keeps
      apply State.nextFree_keeps
      assumption
theorem takeLeaves_keeps {s0 s : State} {a0 a1} (h : Keeps s0 s) : KeepsO s0 (takeLeaves a0 a1 s) := by
  induction a1 generalizing s a0
  · unfold takeLeaves
    apply keepsO_some
    assumption
  · rename_i n ih
    unfold takeLeaves
    extract_lets v1
    split
    · apply keepsO_some
      assumption
    · split
      · trivial
      · apply ih
        apply updTab_keeps
        refine KeepsOP.of (allocBlock_keeps ?_) (by assumption)
        assumption
theorem growTab_keeps {s0 s : State} {a0 a1 a2} (h : Keeps s0 s) : KeepsE s0 (growTab a0 a1 a2 s) := by
  unfold growTab
  extract_lets v1 v2 v3
  split
  · trivial
  · split
    · trivial
    · split
      · apply keepsE_ok
        assumption
      · split
        · trivial
        · split
          · trivial
          · apply keepsE_ok
            apply ergCount_keeps
            refine KeepsO.of (takeLeaves_keeps ?_) (by assumption)
            refine KeepsO.of (takePages_keeps ?_) (by assumption)
            assumption
theorem newTab_keeps {s0 s : State} {a0 a1} (h : Keeps s0 s) : KeepsOP s0 (newTab a0 a1 s) := by
  unfold newTab
  extract_lets v1
  split
  · apply keepsO_some
    apply keepsP_mk
    · assumption
    · apply updTab_keeps
      refine KeepsEP.of (allocObject_keeps ?_) (by assumption)
      assumption
  · trivial
theorem trimTab_keeps {s0 s : State} {a0 a1} (h : Keeps s0 s) : Keeps s0 (trimTab a0 a1 s) := by
  unfold trimTab
  extract_lets v1 v2
  have hv2 : Keeps s0 v2 := by
    unfold v2
    split
    · assumption
    · apply pagesFreed_keeps
      assumption
  clear_value v2
  apply updTab_keeps
  assumption
theorem dropTab_keeps {s0 s : State} {a0} (h : Keeps s0 s) : Keeps s0 (dropTab a0 s) := by
  unfold dropTab
  extract_lets v1
  split
  · apply setRefs_keeps
    apply updObj_keeps
    assumption
  · assumption
theorem refillPart_keeps {s0 s : State} {a0} (h : Keeps s0 s) : Keeps s0 (refillPart a0 s) := by
  unfold refillPart
  apply updMem_keeps
  assumption
theorem readEntry_keeps {s0 s : State} {a0 a1 a2} (h : Keeps s0 s) : Keeps s0 (readEntry a0 a1 a2 s) := by
  unfold readEntry
  extract_lets v1 v2
  have hv2 : Keeps s0 v2 := by
    unfold v2
    apply updRing_keeps
    assumption
  clear_value v2
  split
  · apply issueNm_keeps
    assumption
  · apply issueHm_keeps
    assumption
theorem pullEntries_keeps {s0 s : State} {a0 a1} (h : Keeps s0 s) : Keeps s0 (pullEntries a0 a1 s) := by
  induction a1 generalizing s a0
  · unfold pullEntries
    assumption
  · rename_i n ih
    unfold pullEntries
    extract_lets v1
    split
    · apply ih
      apply updRing_keeps
      assumption
    · split
      · apply ih
        apply updRing_keeps
        apply readEntry_keeps
        assumption
      · assumption
theorem lookRing_keeps {s0 s : State} {a0} (h : Keeps s0 s) : Keeps s0 (lookRing a0 s) := by
  unfold lookRing
  extract_lets v1 v2 v3
  have hv2 : Keeps s0 v2 := by
    unfold v2
    apply updRing_keeps
    assumption
  clear_value v2
  split
  · apply pullEntries_keeps
    assumption
  · split
    · apply pullEntries_keeps
      assumption
    · split
      · apply updRing_keeps
        assumption
      · assumption
  · assumption
theorem ringIrq_keeps {s0 s : State} {a0} (h : Keeps s0 s) : Keeps s0 (ringIrq a0 s) := by
  unfold ringIrq
  extract_lets v1 v2
  split
  · apply updRing_keeps
    assumption
  · apply raiseIrq_keeps
    apply updRing_keeps
    assumption
theorem pubWrite_keeps {s0 s : State} {a0 a1 a2 a3 a4} (h : Keeps s0 s) : Keeps s0 (pubWrite a0 a1 a2 a3 a4 s) := by
  unfold pubWrite
  split
  · apply issueNm_keeps
    assumption
  · apply issueHm_keeps
    assumption
theorem pubOne_keeps {s0 s : State} {a0 a1} (h : Keeps s0 s) : Keeps s0 (pubOne a0 a1 s) := by
  unfold pubOne
  extract_lets v1
  split
  · apply pubWrite_keeps
    assumption
  · apply pubWrite_keeps
    apply updRing_keeps
    assumption
  · apply ringIrq_keeps
    assumption
theorem pumpPub_keeps {s0 s : State} {a0 a1} (h : Keeps s0 s) : Keeps s0 (pumpPub a0 a1 s) := by
  induction a1 generalizing s a0
  · unfold pumpPub
    apply updRing_keeps
    assumption
  · rename_i n ih
    unfold pumpPub
    extract_lets v1 v2 v3
    have hv3 : Keeps s0 v3 := by
      unfold v3
      apply pubOne_keeps
      assumption
    clear_value v3
    split
    · apply updRing_keeps
      assumption
    · apply ih
      assumption
theorem queuePub_keeps {s0 s : State} {a0 a1} (h : Keeps s0 s) : Keeps s0 (queuePub a0 a1 s) := by
  unfold queuePub
  extract_lets v1
  split
  · apply updRing_keeps
    assumption
  · apply pumpPub_keeps
    assumption
theorem dropped_keeps {s0 s : State} {a0 a1 a2} (h : Keeps s0 s) (hf : KeepsE s0 a2) : Keeps s0 (dropped a0 a1 a2 s) := by
  unfold dropped
  split
  · apply hf
  · apply logRec_keeps
    assumption
theorem applyDrop_keeps {s0 s : State} {a0 a2} (h : Keeps s0 s) : Keeps s0 (applyDrop a0 s a2) := by
  unfold applyDrop
  apply dropped_keeps
  · assumption
  · split
    · apply freeOp_keeps
      assumption
    · apply refSubOp_keeps
      assumption
theorem dropPin_keeps {s0 s : State} {a0 a2} (h : Keeps s0 s) : Keeps s0 (dropPin a0 s a2) := by
  unfold dropPin
  apply dropped_keeps
  · assumption
  · apply refSubOp_keeps
    assumption
theorem afterFence_keeps {s0 s : State} {a0} (h : Keeps s0 s) : Keeps s0 (afterFence a0 s) := by
  unfold afterFence
  extract_lets v1
  have hv1 : Keeps s0 v1 := by
    unfold v1
    apply each_keeps
    · assumption
    · intro i1 i2 i3
      apply applyDrop_keeps
      assumption
  clear_value v1
  apply updWork_keeps
  apply each_keeps
  · assumption
  · intro i1 i2 i3
    apply dropPin_keeps
    assumption
theorem startFence_keeps {s0 s : State} {a0} (h : Keeps s0 s) : Keeps s0 (startFence a0 s) := by
  unfold startFence
  split
  · apply updWork_keeps
    assumption
  · split
    · apply failFenceStart_keeps
      apply updWork_keeps
      assumption
    · apply issueAt_keeps
      apply updWork_keeps
      assumption
theorem publish_keeps {s0 s : State} {a0 a1} (h : Keeps s0 s) : Keeps s0 (publish a0 a1 s) := by
  unfold publish
  extract_lets v1 v2 v3 v4 v5
  have hv3 : Keeps s0 v3 := by
    unfold v3
    apply updRing_keeps
    assumption
  clear_value v3
  have hv4 : Keeps s0 v4 := by
    unfold v4
    apply updMar_keeps
    · assumption
    · rfl
  clear_value v4
  apply queuePub_keeps
  apply each_keeps
  · assumption
  · intro i1 i2 i3
    apply ergCount_keeps
    assumption
theorem stopRing_keeps {s0 s : State} {a0 a1 a2 a3 a4} (h : Keeps s0 s) : Keeps s0 (stopRing a0 a1 a2 a3 a4 s) := by
  unfold stopRing
  extract_lets v1 v2
  have hv1 : Keeps s0 v1 := by
    unfold v1
    apply updRing_keeps
    assumption
  clear_value v1
  have hv2 : Keeps s0 v2 := by
    unfold v2
    split
    · apply moveSeat_keeps
      assumption
    · assumption
  clear_value v2
  split
  · assumption
  · split
    · assumption
    · apply queuePub_keeps
      assumption
theorem enterWindow_keeps {s0 s : State} {a0 a1} (h : Keeps s0 s) : Keeps s0 (enterWindow a0 a1 s) := by
  unfold enterWindow
  extract_lets v1
  have hv1 : Keeps s0 v1 := by
    unfold v1
    apply updRing_keeps
    assumption
  clear_value v1
  apply updMar_keeps
  · assumption
  · rfl
theorem drainEntry_keeps {s0 s : State} {a0 a1 a2} (h : Keeps s0 s) : Keeps s0 (drainEntry a0 a1 a2 s) := by
  unfold drainEntry
  extract_lets v1 v2 v3
  split
  extract_lets v4
  apply enterWindow_keeps
  assumption
theorem releaseSeat_keeps {s0 s : State} {a0 a1} (h : Keeps s0 s) : Keeps s0 (releaseSeat a0 a1 s) := by
  unfold releaseSeat
  extract_lets v1 v2
  apply updRing_keeps
  apply moveSeat_keeps
  assumption
theorem seatMove_keeps {s0 s : State} {a0 a1} (h : Keeps s0 s) : KeepsO s0 (seatMove a0 a1 s) := by
  unfold seatMove
  extract_lets v1 v2 v3 v4 v5
  have hv5 : Keeps s0 v5 := by
    unfold v5
    apply updRing_keeps
    apply moveSeat_keeps
    assumption
  clear_value v5
  split
  · split
    · apply keepsO_some
      apply moveSeat_keeps
      assumption
    · split
      · apply keepsO_some
        apply moveSeat_keeps
        assumption
      · split
        · apply keepsO_some
          split
          · assumption
          · apply queuePub_keeps
            assumption
        · split
          · apply keepsO_some
            apply moveSeat_keeps
            assumption
          · split
            · apply keepsO_some
              apply updRing_keeps
              apply moveSeat_keeps
              assumption
            · split
              · apply keepsO_some
                apply updRing_keeps
                apply moveSeat_keeps
                assumption
              · split
                · split
                  · apply keepsO_some
                    apply moveSeat_keeps
                    assumption
                  · trivial
                · trivial
  · split
    · apply keepsO_some
      apply updRing_keeps
      apply moveSeat_keeps
      assumption
    · trivial
  · split
    · apply keepsO_some
      apply moveSeat_keeps
      assumption
    · split
      · apply keepsO_some
        apply releaseSeat_keeps
        assumption
      · trivial
  · split
    · apply keepsO_some
      apply moveSeat_keeps
      assumption
    · split
      · apply keepsO_some
        apply releaseSeat_keeps
        assumption
      · trivial
  · trivial
theorem beginQuiet_keeps {s0 s : State} {a0} (h : Keeps s0 s) : KeepsO s0 (beginQuiet a0 s) := by
  unfold beginQuiet
  extract_lets v1 v2
  split
  · trivial
  · split
    · split
      · apply keepsO_some
        apply enterWindow_keeps
        assumption
      · trivial
    · trivial
    · split
      · apply keepsO_some
        apply drainEntry_keeps
        assumption
      · trivial
theorem abandonEnd_keeps {s0 s : State} {a0} (h : Keeps s0 s) : KeepsO s0 (abandonEnd a0 s) := by
  unfold abandonEnd
  extract_lets v1 v2 v3
  have hv2 : Keeps s0 v2 := by
    unfold v2
    apply updRing_keeps
    assumption
  clear_value v2
  have hv3 : Keeps s0 v3 := by
    unfold v3
    split
    · apply moveSeat_keeps
      assumption
    · assumption
  clear_value v3
  split
  · split
    · apply keepsO_some
      apply lookRing_keeps
      assumption
    · trivial
  · trivial
theorem ringStep_keeps {s0 s : State} {a0} (h : Keeps s0 s) : KeepsO s0 (ringStep a0 s) := by
  unfold ringStep
  extract_lets v1 v2
  split
  · apply keepsO_some
    apply startFence_keeps
    assumption
  · split
    · extract_lets v3
      have hv3 : Keeps s0 v3 := by
        unfold v3
        apply ergValue_keeps
        apply afterFence_keeps
        assumption
      clear_value v3
      apply keepsO_some
      apply updWork_keeps
      assumption
    · split
      · apply keepsO_some
        apply publish_keeps
        assumption
      · split
        · apply keepsO_some
          refine KeepsO.of (beginQuiet_keeps ?_) (by assumption)
          assumption
        · split
          · apply keepsO_some
            refine KeepsO.of (abandonEnd_keeps ?_) (by assumption)
            assumption
          · split
            · apply seatMove_keeps
              assumption
            · trivial
theorem settleRing_keeps {s0 s : State} {a0 a1} (h : Keeps s0 s) : Keeps s0 (settleRing a0 a1 s) := by
  induction a1 generalizing s a0
  · unfold settleRing
    assumption
  · rename_i n ih
    unfold settleRing
    split
    · apply ih
      refine KeepsO.of (ringStep_keeps ?_) (by assumption)
      assumption
    · apply pullEntries_keeps
      assumption
theorem seatRing_keeps {s0 s : State} {a0 a1} (h : Keeps s0 s) : Keeps s0 (seatRing a0 a1 s) := by
  unfold seatRing
  extract_lets v1 v2 v3
  have hv2 : Keeps s0 v2 := by
    unfold v2
    apply moveSeat_keeps
    assumption
  clear_value v2
  have hv3 : Keeps s0 v3 := by
    unfold v3
    apply updRing_keeps
    assumption
  clear_value v3
  apply settleRing_keeps
  apply lookRing_keeps
  assumption
theorem fillSeat_keeps {s0 s : State} {a1} (h : Keeps s0 s) : Keeps s0 (fillSeat s a1) := by
  unfold fillSeat
  split
  · assumption
  · split
    · split
      · apply seatRing_keeps
        assumption
      · assumption
    · split
      · apply seatRing_keeps
        assumption
      · assumption
theorem drainRing_keeps {s0 s : State} {a0} (h : Keeps s0 s) : Keeps s0 (drainRing a0 s) := by
  unfold drainRing
  apply settleRing_keeps
  apply updRing_keeps
  assumption
theorem quantumDrain_keeps {s0 : State} {r a1} (h : KeepsQ s0 r) : KeepsQ s0 (quantumDrain r a1) := by
  obtain ⟨n, s⟩ := r
  unfold quantumDrain
  dsimp only
  split
  · exact drainRing_keeps h
  · exact h
theorem idleDrain_keeps {s0 s : State} {a1} (h : Keeps s0 s) : Keeps s0 (idleDrain s a1) := by
  unfold idleDrain
  extract_lets v1 v2
  split
  · apply drainRing_keeps
    assumption
  · assumption
theorem policy_keeps {s0 s : State} (h : Keeps s0 s) : Keeps s0 (policy s) := by
  unfold policy
  extract_lets v1 v2 v3
  have hv1 : Keeps s0 v1 := by
    unfold v1
    apply each_keeps
    · assumption
    · intro i1 i2 i3
      apply fillSeat_keeps
      assumption
  clear_value v1
  have hv3 : Keeps s0 v3 := by
    unfold v3
    apply snd_foldl_keeps
    · intro i1 i2 i3
      apply quantumDrain_keeps
      assumption
    · apply keepsP_mk
      · assumption
      · assumption
  clear_value v3
  apply each_keeps
  · apply each_keeps
    · assumption
    · intro i1 i2 i3
      apply idleDrain_keeps
      assumption
  · intro i4 i5 i6
    apply fillSeat_keeps
    assumption
theorem settle_keeps {s0 s : State} {a0} (h : Keeps s0 s) : Keeps s0 (settle a0 s) := by
  unfold settle
  extract_lets v1
  have hv1 : Keeps s0 v1 := by
    unfold v1
    apply settleRing_keeps
    assumption
  clear_value v1
  apply each_keeps
  · assumption
  · intro i1 i2 i3
    apply fillSeat_keeps
    assumption
theorem enterTree_keeps {s0 s : State} {a0 a1} (h : Keeps s0 s) : Keeps s0 (enterTree a0 a1 s) := by
  unfold enterTree
  extract_lets v1 v2 v3 v4
  have hv2 : Keeps s0 v2 := by
    unfold v2
    apply updTree_keeps
    assumption
  clear_value v2
  have hv3 : Keeps s0 v3 := by
    unfold v3
    apply ergCount_keeps
    assumption
  clear_value v3
  have hv4 : Keeps s0 v4 := by
    unfold v4
    apply wakeRec_keeps
    assumption
  clear_value v4
  apply hangEv_keeps
  assumption
theorem sendTree_keeps {s0 s : State} {a0 a1} (h : Keeps s0 s) : Keeps s0 (sendTree a0 a1 s) := by
  unfold sendTree
  split
  · apply updTree_keeps
    assumption
  · apply enterTree_keeps
    assumption
theorem pumpTree_keeps {s0 s : State} {a0 a1} (h : Keeps s0 s) : Keeps s0 (pumpTree a0 a1 s) := by
  induction a1 generalizing s a0
  · unfold pumpTree
    assumption
  · rename_i n ih
    unfold pumpTree
    split
    · assumption
    · split
      · assumption
      · apply ih
        apply enterTree_keeps
        apply updTree_keeps
        assumption
theorem pumpTrees_keeps {s0 s : State} (h : Keeps s0 s) : Keeps s0 (pumpTrees s) := by
  unfold pumpTrees
  apply each_keeps
  · assumption
  · intro i1 i2 i3
    apply pumpTree_keeps
    assumption
theorem addGroup_keeps {s0 s : State} {a0 a1 a2} (h : Keeps s0 s) : Keeps s0 (addGroup a0 a1 a2 s) := by
  unfold addGroup
  apply updWork_keeps
  assumption
theorem subGroup_keeps {s0 s : State} {a0 a1 a2} (h : Keeps s0 s) : Keeps s0 (subGroup a0 a1 a2 s) := by
  unfold subGroup
  apply updWork_keeps
  assumption
theorem updMap_keeps {s0 s : State} {a0 a1} (h : Keeps s0 s) : Keeps s0 (updMap a0 a1 s) := by
  unfold updMap
  apply updSld_keeps
  assumption
theorem startHandles_keeps {s0 s : State} {a0 a1} (h : Keeps s0 s) : Keeps s0 (startHandles a0 a1 s) := by
  unfold startHandles
  extract_lets v1 v2
  have hv2 : Keeps s0 v2 := by
    unfold v2
    apply updMap_keeps
    assumption
  clear_value v2
  split
  · apply updPorts_keeps
    · assumption
    · exact fun hd => hd
  · split
    · apply updMap_keeps
      assumption
    · apply startPlan_keeps
      assumption
theorem handlesDone_keeps {s0 s : State} {a0 a1} (h : Keeps s0 s) : Keeps s0 (handlesDone a0 a1 s) := by
  unfold handlesDone
  apply updMap_keeps
  assumption
theorem unregisterMap_keeps {s0 s : State} {a0} (h : Keeps s0 s) : Keeps s0 (unregisterMap a0 s) := by
  unfold unregisterMap
  extract_lets v1 v2
  have hv2 : Keeps s0 v2 := by
    unfold v2
    apply updSld_keeps
    assumption
  clear_value v2
  apply startHandles_keeps
  apply updMap_keeps
  assumption
theorem endModel_keeps {s0 s : State} {a0} (h : Keeps s0 s) : Keeps s0 (endModel a0 s) := by
  unfold endModel
  extract_lets v1
  apply keeps_heat
  assumption
theorem residentEnds_keeps {s0 s : State} {a0 a1} (h : Keeps s0 s) : Keeps s0 (residentEnds a0 a1 s) := by
  unfold residentEnds
  apply each_keeps
  · assumption
  · intro i1 i2 i3
    split
    · assumption
    · extract_lets v1
      split
      · apply endModel_keeps
        assumption
      · assumption
theorem updJob_keeps {s0 s : State} {a0 a1} (h : Keeps s0 s) : Keeps s0 (updJob a0 a1 s) := by
  unfold updJob
  apply updSld_keeps
  assumption
theorem updCl_keeps {s0 s : State} {a0 a1 a2} (h : Keeps s0 s) : Keeps s0 (updCl a0 a1 a2 s) := by
  unfold updCl
  apply updJob_keeps
  assumption
theorem startSave_keeps {s0 s : State} {a0 a1 a2 a3 a4 a5 a6 a7} (h : Keeps s0 s) : Keeps s0 (startSave a0 a1 a2 a3 a4 a5 a6 a7 s) := by
  unfold startSave
  extract_lets v1 v2 v3 v4
  have hv3 : Keeps s0 v3 := by
    unfold v3
    apply updSld_keeps
    assumption
  clear_value v3
  have hv4 : Keeps s0 v4 := by
    unfold v4
    split
    · apply startPlan_keeps
      assumption
    · assumption
  clear_value v4
  apply sendTree_keeps
  assumption
theorem moveWaiter_keeps {s0 s : State} {a0 a1} (h : Keeps s0 s) : Keeps s0 (moveWaiter a0 a1 s) := by
  unfold moveWaiter
  extract_lets v1
  have hv1 : Keeps s0 v1 := by
    unfold v1
    apply updWaiter_keeps
    assumption
  clear_value v1
  apply stateEv_keeps
  assumption
theorem leaveWatch_keeps {s0 s : State} {a0} (h : Keeps s0 s) : Keeps s0 (leaveWatch a0 s) := by
  unfold leaveWatch
  split
  · apply updWatch_keeps
    assumption
  · assumption
theorem dropWaiter_keeps {s0 s : State} {a0} (h : Keeps s0 s) : Keeps s0 (dropWaiter a0 s) := by
  unfold dropWaiter
  extract_lets v1 v2 v3
  have hv3 : Keeps s0 v3 := by
    unfold v3
    apply moveWaiter_keeps
    assumption
  clear_value v3
  split
  · assumption
  · split
    · apply leaveWatch_keeps
      assumption
    · assumption
theorem beginDump_keeps {s0 s : State} {a0 a1 a2 a3} (h : Keeps s0 s) : Keeps s0 (beginDump a0 a1 a2 a3 s) := by
  unfold beginDump
  extract_lets v1
  apply startPlan_keeps
  apply updUmp_keeps
  · assumption
  · exact fun hd => hd
  · exact fun hd => hd
  · exact fun hd => hd
theorem startDump_keeps {s0 s : State} {a0 a1 a2 a3} (h : Keeps s0 s) : Keeps s0 (startDump a0 a1 a2 a3 s) := by
  unfold startDump
  split
  · assumption
  · split
    · apply updUmp_keeps
      · assumption
      · exact fun hd => hd
      · exact fun hd => hd
      · exact fun hd => hd
    · apply beginDump_keeps
      apply updUmp_keeps
      · assumption
      · exact fun hd => hd
      · exact fun hd => hd
      · exact fun hd => hd
theorem nextDump_keeps {s0 s : State} (h : Keeps s0 s) : Keeps s0 (nextDump s) := by
  unfold nextDump
  split
  · apply updUmp_keeps
    · assumption
    · exact fun hd => hd
    · exact fun hd => hd
    · exact fun hd => hd
  · apply beginDump_keeps
    apply updUmp_keeps
    · assumption
    · exact fun hd => hd
    · exact fun hd => hd
    · exact fun hd => hd
theorem updHSlot_keeps {s0 s : State} {a0 a1 a2} (h : Keeps s0 s) : Keeps s0 (updHSlot a0 a1 a2 s) := by
  unfold updHSlot
  apply updLoop_keeps
  assumption
theorem moveHSlot_keeps {s0 s : State} {a0 a1 a2} (h : Keeps s0 s) : Keeps s0 (moveHSlot a0 a1 a2 s) := by
  unfold moveHSlot
  extract_lets v1 v2
  have hv1 : Keeps s0 v1 := by
    unfold v1
    apply updHSlot_keeps
    assumption
  clear_value v1
  apply stateEv_keeps
  assumption
theorem charge_keeps {s0 s : State} {a0 a1} (h : Keeps s0 s) : Keeps s0 (charge a0 a1 s) := by
  unfold charge
  split
  · assumption
  · apply updHeat_keeps
    assumption
theorem raiseVtime_keeps {s0 s : State} {a0} (h : Keeps s0 s) : Keeps s0 (raiseVtime a0 s) := by
  unfold raiseVtime
  split
  · assumption
  · apply updHeat_keeps
    assumption
theorem updSeq_keeps {s0 s : State} {a0 a1 a2} (h : Keeps s0 s) : Keeps s0 (updSeq a0 a1 a2 s) := by
  unfold updSeq
  extract_lets v1 v2 v3
  have hv3 : Keeps s0 v3 := by
    unfold v3
    apply updLoop_keeps
    assumption
  clear_value v3
  split
  · apply raiseVtime_keeps
    assumption
  · assumption
theorem addResult_keeps {s0 s : State} {a0 a1 a2} (h : Keeps s0 s) : KeepsQ s0 (addResult a0 a1 a2 s) := by
  unfold addResult
  extract_lets v1 v2
  split
  · apply keepsP_mk
    · assumption
    · assumption
  · apply keepsP_mk
    · assumption
    · apply updLoop_keeps
      assumption
theorem startIntent_keeps {s0 s : State} {a0} (h : Keeps s0 s) : Keeps s0 (startIntent a0 s) := by
  unfold startIntent
  extract_lets v1
  split
  · assumption
  · split
    · assumption
    · apply startPlan_keeps
      apply updLoop_keeps
      assumption
theorem addIntent_keeps {s0 s : State} {a0 a1} (h : Keeps s0 s) : Keeps s0 (addIntent a0 a1 s) := by
  unfold addIntent
  split
  · assumption
  · apply startIntent_keeps
    apply updLoop_keeps
    assumption
theorem intentDone_keeps {s0 s : State} {a0} (h : Keeps s0 s) : Keeps s0 (intentDone a0 s) := by
  unfold intentDone
  split
  · assumption
  · apply startIntent_keeps
    apply each_keeps
    · apply updLoop_keeps
      assumption
    · intro i1 i2 i3
      apply updSeq_keeps
      assumption
theorem writeEntry_keeps {s0 s : State} {a0 a1} (h : Keeps s0 s) : Keeps s0 (writeEntry a0 a1 s) := by
  unfold writeEntry
  apply addIntent_keeps
  assumption
theorem resultIrq_keeps {s0 s : State} {a0 a2} (h : Keeps s0 s) : Keeps s0 (resultIrq a0 s a2) := by
  unfold resultIrq
  extract_lets v1 v2
  split
  · assumption
  · split
    · apply updLoop_keeps
      assumption
    · apply raiseIrq_keeps
      apply updLoop_keeps
      assumption
theorem ringIrqs_keeps {s0 s : State} {a0 a1} (h : Keeps s0 s) : Keeps s0 (ringIrqs a0 a1 s) := by
  unfold ringIrqs
  apply each_keeps
  · assumption
  · intro i1 i2 i3
    apply resultIrq_keeps
    assumption
theorem dueIrqs_keeps {s0 s : State} {a0} (h : Keeps s0 s) : Keeps s0 (dueIrqs a0 s) := by
  unfold dueIrqs
  apply each_keeps
  · assumption
  · intro i1 i2 i3
    apply resultIrq_keeps
    assumption
theorem dropWeights_keeps {s0 s : State} {a0} (h : Keeps s0 s) : Keeps s0 (dropWeights a0 s) := by
  unfold dropWeights
  apply each_keeps
  · assumption
  · intro i1 i2 i3
    extract_lets v1
    split
    · split
      · refine KeepsE.of (refSubOp_keeps ?_) (by assumption)
        assumption
      · assumption
    · assumption
theorem endLoop_keeps {s0 s : State} {a0 a1 a2} (h : Keeps s0 s) : Keeps s0 (endLoop a0 a1 a2 s) := by
  unfold endLoop
  extract_lets v1 v2
  have hv2 : Keeps s0 v2 := by
    unfold v2
    split
    · apply dropWeights_keeps
      assumption
    · assumption
  clear_value v2
  apply updLoop_keeps
  assumption
theorem closeLoop_keeps {s0 s : State} {a0 a1 a2} (h : Keeps s0 s) : Keeps s0 (closeLoop a0 a1 a2 s) := by
  unfold closeLoop
  extract_lets v1
  split
  · apply endLoop_keeps
    assumption
  · apply updLoop_keeps
    assumption
theorem checkLoop_keeps {s0 s : State} {a0} (h : Keeps s0 s) : Keeps s0 (checkLoop a0 s) := by
  unfold checkLoop
  extract_lets v1
  split
  · assumption
  · split
    · apply endLoop_keeps
      assumption
    · split
      · apply endLoop_keeps
        assumption
      · assumption
theorem freeTable_keeps {s0 s : State} {a0} (h : Keeps s0 s) : KeepsQ s0 (freeTable a0 s) := by
  unfold freeTable
  extract_lets v1 v2 v3
  have hv2 : Keeps s0 v2 := by
    unfold v2
    apply trimTab_keeps
    assumption
  clear_value v2
  split
  · apply keepsP_mk
    · assumption
    · assumption
  · apply keepsP_mk
    · assumption
    · apply dropTab_keeps
      assumption
theorem dropGate_keeps {s0 s : State} {a0 a1 a2} (h : Keeps s0 s) : Keeps s0 (dropGate a0 a1 a2 s) := by
  unfold dropGate
  extract_lets v1
  have hv1 : Keeps s0 v1 := by
    unfold v1
    apply updStb_keeps
    assumption
  clear_value v1
  split
  · split
    · apply dropWaiter_keeps
      assumption
    · assumption
  · assumption
theorem retireAs_keeps {s0 s : State} {a0 a1 a2 a3 a4 a5} (h : Keeps s0 s) : Keeps s0 (retireAs a0 a1 a2 a3 a4 a5 s) := by
  unfold retireAs
  extract_lets v1 v2
  split
  · assumption
  · split
    · apply updSeq_keeps
      assumption
    · split
      split
      extract_lets v3
      have hv3 : Keeps s0 v3 := by
        unfold v3
        apply updSeq_keeps
        apply dropGate_keeps
        refine KeepsQ.of (addResult_keeps ?_) (by assumption)
        refine KeepsQ.of (freeTable_keeps ?_) (by assumption)
        assumption
      clear_value v3
      apply addIntent_keeps
      assumption
theorem retireSeq_keeps {s0 s : State} {a0 a1 a2 a3 a4} (h : Keeps s0 s) : Keeps s0 (retireSeq a0 a1 a2 a3 a4 s) := by
  unfold retireSeq
  apply retireAs_keeps
  assumption
theorem retireDue_keeps {s0 s : State} {a0 a1} (h : Keeps s0 s) : Keeps s0 (retireDue a0 a1 s) := by
  unfold retireDue
  extract_lets v1
  split
  · apply retireSeq_keeps
    assumption
  · split
    · apply retireSeq_keeps
      assumption
    · assumption
theorem failCtxSeqs_keeps {s0 s : State} {a0 a1} (h : Keeps s0 s) : Keeps s0 (failCtxSeqs a0 a1 s) := by
  unfold failCtxSeqs
  apply each_keeps
  · assumption
  · intro i1 i2 i3
    extract_lets v1 v2
    have hv2 : Keeps s0 v2 := by
      unfold v2
      split
      · apply closeLoop_keeps
        assumption
      · assumption
    clear_value v2
    apply each_keeps
    · assumption
    · intro i4 i5 i6
      split
      · assumption
      · split
        · apply updSeq_keeps
          assumption
        · apply retireSeq_keeps
          assumption
theorem chargeHeat_keeps {s0 s : State} {a0 a1} (h : Keeps s0 s) : Keeps s0 (chargeHeat a0 a1 s) := by
  unfold chargeHeat
  extract_lets v1 v2 v3 v4 v5 v6 v7 v8
  have hv8 : Keeps s0 v8 := by
    unfold v8
    apply updLoop_keeps
    assumption
  clear_value v8
  apply each_keeps
  · assumption
  · intro i1 i2 i3
    apply charge_keeps
    assumption
theorem letGoSlot_keeps {s0 s : State} {a0 a1} (h : Keeps s0 s) : Keeps s0 (letGoSlot a0 a1 s) := by
  unfold letGoSlot
  extract_lets v1
  have hv1 : Keeps s0 v1 := by
    unfold v1
    apply updMar_keeps
    · assumption
    · rfl
  clear_value v1
  apply checkLoop_keeps
  apply moveHSlot_keeps
  apply moveSeat_keeps
  assumption
theorem freeHeatSlot_keeps {s0 s : State} {a0 a1} (h : Keeps s0 s) : Keeps s0 (freeHeatSlot a0 a1 s) := by
  unfold freeHeatSlot
  apply letGoSlot_keeps
  apply each_keeps
  · assumption
  · intro i1 i2 i3
    apply dropPin_keeps
    assumption
theorem heatFinished_keeps {s0 s : State} {a0 a1} (h : Keeps s0 s) : Keeps s0 (heatFinished a0 a1 s) := by
  unfold heatFinished
  apply freeHeatSlot_keeps
  apply chargeHeat_keeps
  assumption
theorem putRecord_keeps {s0 s : State} {a0 a1 a2 a3 a4} (h : Keeps s0 s) : Keeps s0 (putRecord a0 a1 a2 a3 a4 s) := by
  unfold putRecord
  extract_lets v1 v2 v3 v4
  apply startPlan_keeps
  apply updBhs_keeps
  assumption
theorem putWaiting_keeps {s0 s : State} {a0} (h : Keeps s0 s) : Keeps s0 (putWaiting a0 s) := by
  induction a0 generalizing s 
  · unfold putWaiting
    assumption
  · rename_i n ih
    unfold putWaiting
    split
    · apply ih
      apply putRecord_keeps
      apply updBhs_keeps
      assumption
    · assumption
theorem journalAck_keeps {s0 s : State} {a0 a1 a2} (h : Keeps s0 s) : Keeps s0 (journalAck a0 a1 a2 s) := by
  unfold journalAck
  extract_lets v1 v2 v3
  have hv1 : Keeps s0 v1 := by
    unfold v1
    apply updBhs_keeps
    assumption
  clear_value v1
  have hv2 : Keeps s0 v2 := by
    unfold v2
    apply updBhs_keeps
    assumption
  clear_value v2
  have hv3 : Keeps s0 v3 := by
    unfold v3
    apply putWaiting_keeps
    assumption
  clear_value v3
  split
  · apply updHSlot_keeps
    assumption
  · apply updHSlot_keeps
    assumption
  · apply heatFinished_keeps
    assumption
  · assumption
theorem journalAppend_keeps {s0 s : State} {a0 a1 a2 a3 a4} (h : Keeps s0 s) : Keeps s0 (journalAppend a0 a1 a2 a3 a4 s) := by
  unfold journalAppend
  split
  · apply journalAck_keeps
    assumption
  · split
    · apply putRecord_keeps
      assumption
    · apply updBhs_keeps
      assumption
theorem journalDone_keeps {s0 s : State} {a0 a1 a2 a3 a4} (h : Keeps s0 s) : Keeps s0 (journalDone a0 a1 a2 a3 a4 s) := by
  unfold journalDone
  extract_lets v1 v2
  have hv2 : Keeps s0 v2 := by
    unfold v2
    apply logRec_keeps
    apply updBhs_keeps
    assumption
  clear_value v2
  split
  · apply journalAck_keeps
    assumption
  · apply each_keeps
    · apply journalAck_keeps
      assumption
    · intro i1 i2 i3
      apply journalAck_keeps
      assumption
theorem vacateCrew_keeps {s0 s : State} {a0 a1 a2 a3} (h : Keeps s0 s) : Keeps s0 (vacateCrew a0 a1 a2 a3 s) := by
  unfold vacateCrew
  extract_lets v1 v2
  split
  · apply startSave_keeps
    assumption
  · apply updHeat_keeps
    assumption
theorem settleOwed_keeps {s0 s : State} (h : Keeps s0 s) : Keeps s0 (settleOwed s) := by
  unfold settleOwed
  apply each_keeps
  · apply updHeat_keeps
    assumption
  · intro i1 i2 i3
    apply vacateCrew_keeps
    assumption
theorem unreserve_keeps {s0 s : State} {a0 a1} (h : Keeps s0 s) : Keeps s0 (unreserve a0 a1 s) := by
  unfold unreserve
  apply updLoop_keeps
  assumption
theorem rollMember_keeps {s0 : State} {r} {a0 a1 a2 a4} (h : KeepsRb s0 r) : KeepsRb s0 (rollMember a0 a1 a2 r a4) := by
  unfold rollMember
  extract_lets v1 v2 v3 v4 v5
  have hv1 : Keeps s0 v1 := by
    unfold v1
    apply unreserve_keeps
    refine KeepsRb.st ?_
    assumption
  clear_value v1
  have hv5 : Keeps s0 v5 := by
    unfold v5
    apply trimTab_keeps
    assumption
  clear_value v5
  split
  · apply keepsRb_mk
    assumption
  · split
    · unfold v3
      split
      split
      apply keepsRb_mk
      apply updSeq_keeps
      refine KeepsQ.of (addResult_keeps ?_) (by assumption)
      refine KeepsQ.of (freeTable_keeps ?_) (by assumption)
      assumption
    · split
      · unfold v3
        split
        split
        apply keepsRb_mk
        apply updSeq_keeps
        refine KeepsQ.of (addResult_keeps ?_) (by assumption)
        refine KeepsQ.of (freeTable_keeps ?_) (by assumption)
        assumption
      · split
        · unfold v3
          split
          split
          apply keepsRb_mk
          apply updSeq_keeps
          refine KeepsQ.of (addResult_keeps ?_) (by assumption)
          refine KeepsQ.of (freeTable_keeps ?_) (by assumption)
          assumption
        · apply keepsRb_mk
          apply updSeq_keeps
          assumption
theorem rollback_keeps {s0 s : State} {a0 a1 a2} (h : Keeps s0 s) : Keeps s0 (rollback a0 a1 a2 s) := by
  unfold rollback
  extract_lets v1 v2 v3 v4 v5 v6
  have hv4 : Keeps s0 v4 := by
    unfold v4
    apply updLoop_keeps
    refine KeepsRb.st ?_
    unfold v3
    apply keepsRb_foldl
    · intro i1 i2 i3
      apply rollMember_keeps
      assumption
    · apply keepsRb_mk
      assumption
  clear_value v4
  have hv5 : Keeps s0 v5 := by
    unfold v5
    apply addIntent_keeps
    assumption
  clear_value v5
  split
  · apply letGoSlot_keeps
    unfold v6
    split
    · apply vacateCrew_keeps
      apply updBhs_keeps
      assumption
    · apply updBhs_keeps
      assumption
  · apply freeHeatSlot_keeps
    unfold v6
    split
    · apply vacateCrew_keeps
      split
      · assumption
      · apply journalAppend_keeps
        assumption
    · split
      · assumption
      · apply journalAppend_keeps
        assumption
theorem settleHeat_keeps {s0 s : State} {a0 a1} (h : Keeps s0 s) : Keeps s0 (settleHeat a0 a1 s) := by
  unfold settleHeat
  split
  · assumption
  · split
    · assumption
    · split
      · assumption
      · apply rollback_keeps
        assumption
theorem leaveCore_keeps {s0 s : State} {a0 a1} (h : Keeps s0 s) : Keeps s0 (leaveCore a0 a1 s) := by
  unfold leaveCore
  extract_lets v1 v2
  have hv2 : Keeps s0 v2 := by
    unfold v2
    apply updCore_keeps
    assumption
  clear_value v2
  split
  · (clear_value v1; split)
    · apply updProg_keeps
      assumption
    · assumption
  · apply updCore_keeps
    assumption
theorem clearProg_keeps {s0 s : State} {a0} (h : Keeps s0 s) : Keeps s0 (clearProg a0 s) := by
  unfold clearProg
  extract_lets v1 v2
  have hv1 : Keeps s0 v1 := by
    unfold v1
    apply dropWaiter_keeps
    assumption
  clear_value v1
  have hv2 : Keeps s0 v2 := by
    unfold v2
    split
    · apply leaveCore_keeps
      assumption
    · assumption
  clear_value v2
  apply moveSeat_keeps
  assumption
theorem settleOwner_keeps {s0 s : State} {a0} (h : Keeps s0 s) : Keeps s0 (settleOwner a0 s) := by
  unfold settleOwner
  split
  · apply settle_keeps
    assumption
  · apply settleHeat_keeps
    assumption
theorem endProgram_keeps {s0 s : State} {a0} (h : Keeps s0 s) : Keeps s0 (endProgram a0 s) := by
  unfold endProgram
  split
  · assumption
  · apply settleOwner_keeps
    apply updWork_keeps
    apply clearProg_keeps
    assumption
theorem wakeOrder_keeps {s0 s : State} (h : Keeps s0 s) : Keeps s0 (wakeOrder s) := by
  unfold wakeOrder
  apply each_keeps
  · assumption
  · intro i1 i2 i3
    split
    · apply updCore_keeps
      assumption
    · assumption
theorem leaveOuts_keeps {s0 s : State} {a0} (h : Keeps s0 s) : Keeps s0 (leaveOuts a0 s) := by
  unfold leaveOuts
  extract_lets v1
  have hv1 : Keeps s0 v1 := by
    unfold v1
    apply updStb_keeps
    assumption
  clear_value v1
  split
  · apply wakeOrder_keeps
    assumption
  · assumption
theorem dropOuts_keeps {s0 s : State} {a0} (h : Keeps s0 s) : Keeps s0 (dropOuts a0 s) := by
  unfold dropOuts
  extract_lets v1
  apply updWork_keeps
  apply leaveOuts_keeps
  assumption
theorem markFailed_keeps {s0 s : State} {a0 a1 a2 a3} (h : Keeps s0 s) : Keeps s0 (markFailed a0 a1 a2 a3 s) := by
  unfold markFailed
  extract_lets v1
  have hv1 : Keeps s0 v1 := by
    unfold v1
    apply updWork_keeps
    apply updBhs_keeps
    assumption
  clear_value v1
  split
  · assumption
  · extract_lets v2 v3
    have hv2 : Keeps s0 v2 := by
      unfold v2
      split
      · split
        · apply clearProg_keeps
          assumption
        · assumption
      · assumption
    clear_value v2
    have hv3 : Keeps s0 v3 := by
      unfold v3
      apply dropOuts_keeps
      assumption
    clear_value v3
    split
    · assumption
    · split
      · apply updMar_keeps
        · assumption
        · rfl
      · assumption
theorem failWork_keeps {s0 s : State} {a0 a1 a2} (h : Keeps s0 s) : Keeps s0 (failWork a0 a1 a2 s) := by
  unfold failWork
  apply settleOwner_keeps
  apply markFailed_keeps
  assumption
theorem failLoop_keeps {s0 s : State} {a0 a1} (h : Keeps s0 s) : Keeps s0 (failLoop a0 a1 s) := by
  unfold failLoop
  extract_lets v1
  apply each_keeps
  · apply closeLoop_keeps
    assumption
  · intro i1 i2 i3
    apply failWork_keeps
    assumption
theorem failSeat_keeps {s0 s : State} {a0 a1 a2} (h : Keeps s0 s) : Keeps s0 (failSeat a0 a1 a2 s) := by
  unfold failSeat
  extract_lets v1
  have hv1 : Keeps s0 v1 := by
    unfold v1
    apply markFailed_keeps
    assumption
  clear_value v1
  split
  · apply settle_keeps
    split
    · apply stopRing_keeps
      assumption
    · assumption
  · apply failLoop_keeps
    assumption
theorem mapRows_keeps {s0 s : State} {a0} (h : Keeps s0 s) : Keeps s0 (mapRows a0 s) := by
  unfold mapRows
  extract_lets v1 v2
  apply keeps_fab
  assumption
theorem forgetCtx_keeps {s0 s : State} {a0} (h : Keeps s0 s) : Keeps s0 (forgetCtx a0 s) := by
  unfold forgetCtx
  extract_lets v1 v2
  apply mapRows_keeps
  apply keeps_fab
  assumption
theorem failRing_keeps {s0 s : State} {a1} (h : Keeps s0 s) : Keeps s0 (failRing s a1) := by
  unfold failRing
  extract_lets v1 v2
  have hv1 : Keeps s0 v1 := by
    unfold v1
    apply updRing_keeps
    assumption
  clear_value v1
  have hv2 : Keeps s0 v2 := by
    unfold v2
    split
    · apply moveSeat_keeps
      assumption
    · assumption
  clear_value v2
  apply settle_keeps
  assumption
theorem failContext_keeps {s0 s : State} {a0 a1 a2} (h : Keeps s0 s) : Keeps s0 (failContext a0 a1 a2 s) := by
  unfold failContext
  split
  · exact h
  · next i _ =>
    dsimp only
    split
    · next hl =>
      have h1 : Keeps s0 (updSlot i (fun x => { x with st := .failed, errClass := BitVec.ofNat 7 a1, errCode := a2 }) s) :=
        updSlot_keeps h fun _ => ⟨fun hf => by simp [hf] at hl, rfl⟩
      refine each_keeps (forgetCtx_keeps (each_keeps (failCtxSeqs_keeps (updMar_keeps (each_keeps h1 ?_) rfl)) ?_)) ?_
      · exact fun t o ht => markFailed_keeps ht
      · exact fun t o ht => settleOwner_keeps ht
      · exact fun t o ht => failRing_keeps ht
    · exact h
theorem staleAll_keeps {s0 s : State} (h : Keeps s0 s) : Keeps s0 (staleAll s) := by
  refine updPorts_keeps h fun ⟨a, b, c, d⟩ => ⟨?_, ?_, ?_, ?_⟩
  · exact nodup_map (nodup_filter a) fun q => by split <;> rfl
  · exact nodup_map (nodup_filter b) fun q => by split <;> rfl
  · exact nodup_map (nodup_filter c) fun q => by split <;> rfl
  · exact nodup_map d fun q => rfl
theorem chipStop_keeps {s0 s : State} {a0 a1} (h : Keeps s0 s) : Keeps s0 (chipStop a0 a1 s) := by
  unfold chipStop
  extract_lets v1 v2
  have hv1 : Keeps s0 v1 := by
    unfold v1
    apply updUmp_keeps
    · assumption
    · intro i1
      rfl
    · exact fun hd => hd
    · exact fun hd => hd
  clear_value v1
  have hv2 : Keeps s0 v2 := by
    unfold v2
    apply each_keeps
    · assumption
    · intro i1 i2 i3
      split
      · assumption
      · apply failFenceStart_keeps
        assumption
  clear_value v2
  split
  · assumption
  · apply startDump_keeps
    apply each_keeps
    · assumption
    · intro i4 i5 i6
      apply failFenceStart_keeps
      assumption
theorem raise5_keeps {s0 s : State} {a0} (h : Keeps s0 s) : Keeps s0 (raise5 a0 s) := by
  unfold raise5
  apply chipStop_keeps
  apply logRec_keeps
  assumption
theorem raise4_keeps {s0 s : State} {a0} (h : Keeps s0 s) : Keeps s0 (raise4 a0 s) := by
  have h1 : Keeps s0 (logRec .reset { a0 with cls := 4 } s) := logRec_keeps h
  unfold raise4
  extract_lets s1
  split
  · exact h1
  · split
    · exact raise5_keeps h1
    · next hr _ =>
      refine staleAll_keeps ⟨h1.1, h1.2, h1.3, fun hd => ?_, h1.5, h1.6, h1.7, h1.8, h1.9⟩
      have hd := h1.4 hd
      rw [show s1 = logRec .reset { a0 with cls := 4 } s from rfl, hd] at hr
      exact absurd rfl hr
theorem targetLost_keeps {s0 s : State} {a0 a1 a2 a3} (h : Keeps s0 s) : Keeps s0 (targetLost a0 a1 a2 a3 s) := by
  unfold targetLost
  extract_lets v1
  apply raise5_keeps
  assumption
theorem ownerError_keeps {s0 s : State} {a0 a1 a2} (h : Keeps s0 s) : Keeps s0 (ownerError a0 a1 a2 s) := by
  unfold ownerError
  extract_lets v1
  split
  · apply logRec_keeps
    assumption
  · apply failWork_keeps
    apply logRec_keeps
    assumption
  · apply failSeat_keeps
    apply logRec_keeps
    assumption
  · apply failContext_keeps
    apply logRec_keeps
    assumption
  · apply raise4_keeps
    assumption
  · apply raise5_keeps
    assumption
theorem syncOverflow_keeps {s0 s : State} {a0 a1 a2} (h : Keeps s0 s) : Keeps s0 (syncOverflow a0 a1 a2 s) := by
  unfold syncOverflow
  extract_lets v1
  apply failContext_keeps
  apply logRec_keeps
  assumption
theorem addSync_keeps {s0 s : State} {a0 a1 a2 a3 a4} (h : Keeps s0 s) : Keeps s0 (addSync a0 a1 a2 a3 a4 s) := by
  unfold addSync
  extract_lets v1 v2
  have hv2 : Keeps s0 v2 := by
    unfold v2
    apply updRow_keeps
    assumption
  clear_value v2
  split
  · apply syncOverflow_keeps
    assumption
  · assumption
theorem takeArrival_keeps {s0 s : State} {a0 a1 a2 a3} (h : Keeps s0 s) : KeepsO s0 (takeArrival a0 a1 a2 a3 s) := by
  unfold takeArrival
  extract_lets v1
  split
  · apply keepsO_some
    apply addSync_keeps
    assumption
  · split
    · extract_lets v2
      have hv2 : Keeps s0 v2 := by
        unfold v2
        apply updRow_keeps
        assumption
      clear_value v2
      apply keepsO_some
      split
      · apply syncOverflow_keeps
        assumption
      · assumption
    · trivial
theorem drainArrivals_keeps {s0 s : State} {a0 a1} (h : Keeps s0 s) : Keeps s0 (drainArrivals a0 a1 s) := by
  induction a1 generalizing s a0
  · unfold drainArrivals
    assumption
  · rename_i n ih
    unfold drainArrivals
    split
    · apply refuseEv_keeps
      apply updRow_keeps
      assumption
    · split
      · apply ih
        apply updRow_keeps
        refine KeepsO.of (takeArrival_keeps ?_) (by assumption)
        apply updRow_keeps
        assumption
      · assumption
theorem becomeResident_keeps {s0 s : State} {a0 a1} (h : Keeps s0 s) : Keeps s0 (becomeResident a0 a1 s) := by
  unfold becomeResident
  extract_lets v1 v2
  have hv2 : Keeps s0 v2 := by
    unfold v2
    apply residentEnds_keeps
    apply updRow_keeps
    assumption
  clear_value v2
  apply drainArrivals_keeps
  apply each_keeps
  · assumption
  · intro i1 i2 i3
    split
    · apply addSync_keeps
      assumption
    · assumption
theorem arrivalOp_keeps {s0 s : State} {a0 a1 a2 a3} (h : Keeps s0 s) : Keeps s0 (arrivalOp a0 a1 a2 a3 s) := by
  unfold arrivalOp
  extract_lets v1
  split
  · assumption
  · split
    · apply logRec_keeps
      assumption
    · split
      · apply drainArrivals_keeps
        apply updRow_keeps
        assumption
      · split
        · refine KeepsO.of (takeArrival_keeps ?_) (by assumption)
          assumption
        · apply refuseEv_keeps
          apply updRow_keeps
          assumption
theorem arrivalStallOp_keeps {s0 s : State} {a0} (h : Keeps s0 s) : Keeps s0 (arrivalStallOp a0 s) := by
  unfold arrivalStallOp
  extract_lets v1 v2
  have hv1 : Keeps s0 v1 := by
    unfold v1
    apply drainArrivals_keeps
    assumption
  clear_value v1
  split
  · split
    · apply raise4_keeps
      assumption
    · assumption
  · assumption
theorem settleBuckets_keeps {s0 s : State} (h : Keeps s0 s) : Keeps s0 (settleBuckets s) := by
  unfold settleBuckets
  extract_lets v1
  apply updStk_keeps
  assumption
theorem paceTake_keeps {s0 s : State} {a0 a1} (h : Keeps s0 s) : Keeps s0 (paceTake a0 a1 s) := by
  unfold paceTake
  extract_lets v1
  split
  · assumption
  · apply updStk_keeps
    assumption
theorem paceCounted_keeps {s0 s : State} {a0} (h : Keeps s0 s) : Keeps s0 (paceCounted a0 s) := by
  unfold paceCounted
  split
  · assumption
  · apply updStk_keeps
    assumption

end Sys2Proof.Machine
end

