-- ==== Sys2Proof/Laws/KeepsRings.lean ====
section
/-! SUPPORT. What `Keeps` says, operation by operation: contexts, rings and cores. -/
namespace Sys2Proof.Machine

theorem powered_keeps {s0 s t : State} (h : Keeps s0 s) (ht : Keeps s0 t) : KeepsOut s0 (powered s t) := by
  unfold powered
  refine keepsOut_next ?_
  split
  · exact ht
  · exact h
theorem ctxRefuse_keeps {s0 s : State} (h : Keeps s0 s) : Keeps s0 (ctxRefuse s) := by
  unfold ctxRefuse
  refine updSlot_same ?_ rfl rfl
  assumption
theorem ctxApply_keeps {s0 s : State} {a0} (h : Keeps s0 s) (e : (a0 (s.slot (ctxSlot s))).st ≠ .free → (s.slot (ctxSlot s)).st ≠ .free ∧ (a0 (s.slot (ctxSlot s))).ctxId = (s.slot (ctxSlot s)).ctxId) : Keeps s0 (ctxApply a0 s) := by
  exact updSlot_keeps h e
theorem newShare_keeps {s0 s : State} (h : Keeps s0 s) : Keeps s0 (newShare s) := by
  unfold newShare
  extract_lets v1 v2
  apply keeps_heat
  assumption
theorem createOp_keeps {s0 s : State} (h : Keeps s0 s) : Keeps s0 (createOp s) := by
  unfold createOp
  split
  · next hc =>
    refine newShare_keeps (updSlot_new h ?_)
    simp only [createOk, Bool.and_eq_true, Option.isNone_iff_eq_none] at hc
    exact hc.1.2
  · exact ctxRefuse_keeps h
theorem execCreate_keeps {s0 s : State} (h : Keeps s0 s) : KeepsOut s0 (execCreate s) := by
  unfold execCreate
  apply powered_keeps
  · assumption
  · apply createOp_keeps
    assumption
theorem stopOp_keeps {s0 s : State} (h : Keeps s0 s) : Keeps s0 (stopOp s) := by
  unfold stopOp
  dsimp only
  split
  · next hc =>
    exact policy_keeps (each_keeps (ctxApply_keeps h fun _ => ⟨fun hf => by simp [hf] at hc, rfl⟩)
      fun t r ht => settle_keeps ht)
  · exact ctxRefuse_keeps h
theorem execStop_keeps {s0 s : State} (h : Keeps s0 s) : KeepsOut s0 (execStop s) := by
  unfold execStop
  apply powered_keeps
  · assumption
  · apply stopOp_keeps
    assumption
theorem resumeRing_keeps {s0 s : State} {a1} (h : Keeps s0 s) : Keeps s0 (resumeRing s a1) := by
  unfold resumeRing
  extract_lets v1 v2
  have hv1 : Keeps s0 v1 := by
    unfold v1
    apply updRing_keeps
    assumption
  clear_value v1
  have hv2 : Keeps s0 v2 := by
    unfold v2
    split
    · apply moveSeat_keeps
      assumption
    · assumption
  clear_value v2
  apply settle_keeps
  apply lookRing_keeps
  assumption
theorem resumeOp_keeps {s0 s : State} (h : Keeps s0 s) : Keeps s0 (resumeOp s) := by
  unfold resumeOp
  dsimp only
  split
  · next hc =>
    exact policy_keeps (each_keeps (ctxApply_keeps h fun _ => ⟨fun hf => by simp [hf] at hc, rfl⟩)
      fun t r ht => resumeRing_keeps ht)
  · exact ctxRefuse_keeps h
theorem execResume_keeps {s0 s : State} (h : Keeps s0 s) : KeepsOut s0 (execResume s) := by
  unfold execResume
  apply powered_keeps
  · assumption
  · apply resumeOp_keeps
    assumption
theorem killOp_keeps {s0 s : State} (h : Keeps s0 s) : Keeps s0 (killOp s) := by
  unfold killOp
  dsimp only
  split
  · exact policy_keeps (failContext_keeps (logRec_keeps (ctxApply_keeps h fun hf => ⟨hf, rfl⟩)))
  · exact ctxRefuse_keeps h
theorem execKill_keeps {s0 s : State} (h : Keeps s0 s) : KeepsOut s0 (execKill s) := by
  unfold execKill
  apply powered_keeps
  · assumption
  · apply killOp_keeps
    assumption
theorem teardownOp_keeps {s0 s : State} (h : Keeps s0 s) : Keeps s0 (teardownOp s) := by
  unfold teardownOp
  dsimp only
  split
  · next hc =>
    have h1 := forgetCtx_keeps (a0 := (s.slot (ctxSlot s)).ctxId) (ctxApply_keeps
      (a0 := fun x => { x with st := .draining, errClass := 0, errCode := 0 }) h
      fun _ => ⟨fun hf => by simp [hf] at hc, rfl⟩)
    split
    · exact unregisterMap_keeps h1
    · exact h1
  · exact ctxRefuse_keeps h
theorem execTeardown_keeps {s0 s : State} (h : Keeps s0 s) : KeepsOut s0 (execTeardown s) := by
  unfold execTeardown
  apply powered_keeps
  · assumption
  · apply teardownOp_keeps
    assumption
theorem setWeightOp_keeps {s0 s : State} (h : Keeps s0 s) : Keeps s0 (setWeightOp s) := by
  unfold setWeightOp
  dsimp only
  split
  · exact ctxApply_keeps h fun hf => ⟨hf, rfl⟩
  · exact ctxRefuse_keeps h
theorem execSetWeight_keeps {s0 s : State} (h : Keeps s0 s) : KeepsOut s0 (execSetWeight s) := by
  unfold execSetWeight
  apply powered_keeps
  · assumption
  · apply setWeightOp_keeps
    assumption
theorem discardSaves_keeps {s0 s : State} {a0} (h : Keeps s0 s) : Keeps s0 (discardSaves a0 s) := by
  unfold discardSaves
  apply updHeat_keeps
  apply updSld_keeps
  apply mapRows_keeps
  assumption
theorem dropOwned_keeps {s0 s : State} {a0 a2} (h : Keeps s0 s) : Keeps s0 (dropOwned a0 s a2) := by
  unfold dropOwned
  extract_lets v1
  split
  · apply setRefs_keeps
    apply updObj_keeps
    assumption
  · assumption
theorem contextFreedOp_keeps {s0 s : State} {a0} (h : Keeps s0 s) : Keeps s0 (contextFreedOp a0 s) := by
  unfold contextFreedOp
  extract_lets v1 v2 v3
  have hv2 : Keeps s0 v2 := by
    unfold v2
    apply each_keeps
    · assumption
    · intro i1 i2 i3
      apply dropOwned_keeps
      assumption
  clear_value v2
  split
  · refine updSlot_freed ?_ rfl
    apply discardSaves_keeps
    assumption
  · assumption
theorem execContextFreed_keeps {s0 s : State} {a0} (h : Keeps s0 s) : KeepsOut s0 (execContextFreed a0 s) := by
  unfold execContextFreed
  apply keepsOut_next
  apply contextFreedOp_keeps
  assumption
theorem objStatus_keeps {s0 s : State} {a0 a1} (h : Keeps s0 s) : Keeps s0 (objStatus a0 a1 s) := by
  unfold objStatus
  extract_lets v1 v2
  apply updRack_keeps
  assumption
theorem objCommand_keeps {s0 s : State} {a0 a1} (h : Keeps s0 s) (hf : KeepsE s0 a1) : Keeps s0 (objCommand a0 a1 s) := by
  unfold objCommand
  split
  · apply objStatus_keeps
    assumption
  · split
    · apply objStatus_keeps
      apply hf
    · apply objStatus_keeps
      assumption
theorem objectRegisterOp_keeps {s0 s : State} {a0 a1} (h : Keeps s0 s) : Keeps s0 (objectRegisterOp a0 a1 s) := by
  unfold objectRegisterOp
  extract_lets v1 v2
  split
  · apply objStatus_keeps
    assumption
  · split
    · apply objStatus_keeps
      assumption
    · extract_lets v3
      have hv3 : Keeps s0 v3 := by
        unfold v3
        apply newObject_keeps
        apply State.nextFree_keeps
        assumption
      clear_value v3
      apply objStatus_keeps
      assumption
theorem execObjectRegister_keeps {s0 s : State} {a0 a1} (h : Keeps s0 s) : KeepsOut s0 (execObjectRegister a0 a1 s) := by
  unfold execObjectRegister
  apply powered_keeps
  · assumption
  · apply objectRegisterOp_keeps
    assumption
theorem execRefAdd_keeps {s0 s : State} {a0} (h : Keeps s0 s) : KeepsOut s0 (execRefAdd a0 s) := by
  unfold execRefAdd
  apply powered_keeps
  · assumption
  · apply objCommand_keeps
    · assumption
    · apply refAddOp_keeps
      assumption
theorem execRefSub_keeps {s0 s : State} {a0} (h : Keeps s0 s) : KeepsOut s0 (execRefSub a0 s) := by
  unfold execRefSub
  apply powered_keeps
  · assumption
  · apply objCommand_keeps
    · assumption
    · apply refSubOp_keeps
      assumption
theorem execObjectFree_keeps {s0 s : State} {a0} (h : Keeps s0 s) : KeepsOut s0 (execObjectFree a0 s) := by
  unfold execObjectFree
  apply powered_keeps
  · assumption
  · apply objCommand_keeps
    · assumption
    · apply freeOp_keeps
      assumption
theorem execForceFree_keeps {s0 s : State} {a0} (h : Keeps s0 s) : KeepsOut s0 (execForceFree a0 s) := by
  unfold execForceFree
  apply powered_keeps
  · assumption
  · apply objCommand_keeps
    · assumption
    · apply forceFreeOp_keeps
      assumption
theorem execObjectQuery_keeps {s0 s : State} {a0} (h : Keeps s0 s) : KeepsOut s0 (execObjectQuery a0 s) := by
  unfold execObjectQuery
  apply powered_keeps
  · assumption
  · apply objCommand_keeps
    · assumption
    · split
      · trivial
      · apply keepsE_ok
        assumption
theorem hsigBad_keeps {s0 s : State} (h : Keeps s0 s) : Keeps s0 (hsigBad s) := by
  exact updPorts_keeps h id
theorem hsigBegin_keeps {s0 s : State} (h : Keeps s0 s) : Keeps s0 (hsigBegin s) := by
  unfold hsigBegin
  apply updPorts_keeps
  · assumption
  · exact fun hd => hd
theorem hsigCmd_keeps {s0 s : State} {a0} (h : Keeps s0 s) (hf : ∀ t, Keeps s0 t → Keeps s0 (a0 t)) : KeepsOut s0 (hsigCmd a0 s) := by
  unfold hsigCmd
  split
  · trivial
  · apply keepsOut_next
    apply hf
    assumption
theorem hostSignalOp_keeps {s0 s : State} {a0} (h : Keeps s0 s) : Keeps s0 (hostSignalOp a0 s) := by
  unfold hostSignalOp
  split
  · assumption
  · split
    · apply hsigBad_keeps
      assumption
    · apply issueAt_keeps
      apply hsigBegin_keeps
      assumption
theorem execHostSignal_keeps {s0 s : State} {a0} (h : Keeps s0 s) : KeepsOut s0 (execHostSignal a0 s) := by
  unfold execHostSignal
  apply hsigCmd_keeps
  · assumption
  · intro i1 i2
    apply hostSignalOp_keeps
    assumption
theorem hostFailOp_keeps {s0 s : State} {a0 a1} (h : Keeps s0 s) : Keeps s0 (hostFailOp a0 a1 s) := by
  unfold hostFailOp
  split
  · assumption
  · split
    · apply hsigBad_keeps
      assumption
    · apply failFenceStart_keeps
      apply hsigBegin_keeps
      assumption
theorem execHostFail_keeps {s0 s : State} {a0 a1} (h : Keeps s0 s) : KeepsOut s0 (execHostFail a0 a1 s) := by
  unfold execHostFail
  apply hsigCmd_keeps
  · assumption
  · intro i1 i2
    apply hostFailOp_keeps
    assumption
theorem noteKnock_keeps {s0 s : State} {a0} (h : Keeps s0 s) : Keeps s0 (noteKnock a0 s) := by
  unfold noteKnock
  apply updRing_keeps
  assumption
theorem lookNow_keeps {s0 s : State} {a0} (h : Keeps s0 s) : Keeps s0 (lookNow a0 s) := by
  unfold lookNow
  apply policy_keeps
  apply settle_keeps
  apply lookRing_keeps
  assumption
theorem knock_keeps {s0 s : State} {a0} (h : Keeps s0 s) : Keeps s0 (knock a0 s) := by
  unfold knock
  extract_lets v1 v2
  have hv1 : Keeps s0 v1 := by
    unfold v1
    apply noteKnock_keeps
    apply ergCount_keeps
    assumption
  clear_value v1
  split
  · apply updMar_keeps
    · assumption
    · rfl
  · split
    · assumption
    · apply lookNow_keeps
      assumption
theorem doorbellOp_keeps {s0 s : State} {a0} (h : Keeps s0 s) : Keeps s0 (doorbellOp a0 s) := by
  unfold doorbellOp
  split
  · apply knock_keeps
    assumption
  · assumption
theorem execDoorbell_keeps {s0 s : State} {a0} (h : Keeps s0 s) : KeepsOut s0 (execDoorbell a0 s) := by
  unfold execDoorbell
  apply powered_keeps
  · assumption
  · apply doorbellOp_keeps
    assumption
theorem stormBeginOp_keeps {s0 s : State} {a0} (h : Keeps s0 s) : Keeps s0 (stormBeginOp a0 s) := by
  unfold stormBeginOp
  extract_lets v1 v2
  split
  · split
    · apply logRec_keeps
      apply updRing_keeps
      assumption
    · assumption
  · assumption
theorem execDoorbellStorm_keeps {s0 s : State} {a0} (h : Keeps s0 s) : KeepsOut s0 (execDoorbellStorm a0 s) := by
  unfold execDoorbellStorm
  apply keepsOut_next
  apply stormBeginOp_keeps
  assumption
theorem stormLookOp_keeps {s0 s : State} {a0} (h : Keeps s0 s) : Keeps s0 (stormLookOp a0 s) := by
  unfold stormLookOp
  extract_lets v1
  split
  · apply lookNow_keeps
    assumption
  · assumption
theorem execStormLook_keeps {s0 s : State} {a0} (h : Keeps s0 s) : KeepsOut s0 (execStormLook a0 s) := by
  unfold execStormLook
  apply keepsOut_next
  apply stormLookOp_keeps
  assumption
theorem stormEndOp_keeps {s0 s : State} {a0} (h : Keeps s0 s) : Keeps s0 (stormEndOp a0 s) := by
  unfold stormEndOp
  extract_lets v1
  split
  · apply updRing_keeps
    assumption
  · assumption
theorem execStormEnd_keeps {s0 s : State} {a0} (h : Keeps s0 s) : KeepsOut s0 (execStormEnd a0 s) := by
  unfold execStormEnd
  apply keepsOut_next
  apply stormEndOp_keeps
  assumption
theorem forgetReads_keeps {s0 s : State} {a0 a1} (h : Keeps s0 s) : Keeps s0 (forgetReads a0 a1 s) := by
  unfold forgetReads
  refine updPorts_keeps h ?_
  rintro ⟨a, b, c⟩
  refine ⟨nodup_map a fun q => ?_, nodup_map b fun q => ?_, c⟩
  all_goals
    split
    · split <;> rfl
    · rfl
theorem unoffer_keeps {s0 s : State} {a0} (h : Keeps s0 s) : Keeps s0 (unoffer a0 s) := by
  unfold unoffer
  extract_lets v1 v2
  split
  · split
    · apply moveSeat_keeps
      assumption
    · assumption
  · assumption
theorem invalidateOp_keeps {s0 s : State} {a0 a1} (h : Keeps s0 s) : Keeps s0 (invalidateOp a0 a1 s) := by
  unfold invalidateOp
  extract_lets v1
  split
  · assumption
  · split
    · apply updRing_keeps
      assumption
    · apply settle_keeps
      apply unoffer_keeps
      apply forgetReads_keeps
      apply updRing_keeps
      assumption
theorem execInvalidate_keeps {s0 s : State} {a0 a1} (h : Keeps s0 s) : KeepsOut s0 (execInvalidate a0 a1 s) := by
  unfold execInvalidate
  apply keepsOut_next
  apply invalidateOp_keeps
  assumption
theorem dbReleaseOp_keeps {s0 s : State} {a0} (h : Keeps s0 s) : Keeps s0 (dbReleaseOp a0 s) := by
  unfold dbReleaseOp
  split
  · assumption
  · apply knock_keeps
    apply updRing_keeps
    assumption
theorem execDbRelease_keeps {s0 s : State} {a0} (h : Keeps s0 s) : KeepsOut s0 (execDbRelease a0 s) := by
  unfold execDbRelease
  apply keepsOut_next
  apply dbReleaseOp_keeps
  assumption
theorem dropRaw_keeps {s0 s : State} {a0 a1} (h : Keeps s0 s) : Keeps s0 (dropRaw a0 a1 s) := by
  unfold dropRaw
  apply updRing_keeps
  assumption
theorem stopFetchAt_keeps {s0 s : State} {a0 a1 a2} (h : Keeps s0 s) : Keeps s0 (stopFetchAt a0 a1 a2 s) := by
  unfold stopFetchAt
  apply forgetReads_keeps
  apply updRing_keeps
  assumption
theorem cacheEntry_keeps {s0 s : State} {a0 a1} (h : Keeps s0 s) : Keeps s0 (cacheEntry a0 a1 s) := by
  unfold cacheEntry
  extract_lets v1 v2
  have hv2 : Keeps s0 v2 := by
    unfold v2
    apply updRing_keeps
    apply dropRaw_keeps
    assumption
  clear_value v2
  split
  · apply issueNm_keeps
    assumption
  · assumption
theorem malformed_keeps {s0 s : State} {a0 a1 a2} (h : Keeps s0 s) : Keeps s0 (malformed a0 a1 a2 s) := by
  unfold malformed
  extract_lets v1 v2 v3 v4 v5 v6 v7
  have hv4 : Keeps s0 v4 := by
    unfold v4
    apply logRec_keeps
    assumption
  clear_value v4
  have hv6 : Keeps s0 v6 := by
    unfold v6
    apply stopFetchAt_keeps
    split
    · apply State.nextFree_keeps
      assumption
    · assumption
  clear_value v6
  have hv7 : Keeps s0 v7 := by
    unfold v7
    apply stopRing_keeps
    assumption
  clear_value v7
  split
  · apply failFenceStart_keeps
    assumption
  · assumption
theorem takeRaw_keeps {s0 s : State} {a0 a1} (h : Keeps s0 s) : Keeps s0 (takeRaw a0 a1 s) := by
  unfold takeRaw
  extract_lets v1 v2 v3
  split
  · apply stopFetchAt_keeps
    assumption
  · split
    · assumption
    · split
      · split
        · apply cacheEntry_keeps
          assumption
        · split
          · apply stopFetchAt_keeps
            assumption
          · apply malformed_keeps
            assumption
      · split
        · apply updRing_keeps
          apply stopFetchAt_keeps
          apply logRec_keeps
          assumption
        · apply cacheEntry_keeps
          assumption
      · split
        · apply updRing_keeps
          apply malformed_keeps
          apply updRing_keeps
          assumption
        · apply cacheEntry_keeps
          assumption
      · apply dropRaw_keeps
        assumption
theorem entryFetchedOp_keeps {s0 s : State} {a0} (h : Keeps s0 s) : Keeps s0 (entryFetchedOp a0 s) := by
  unfold entryFetchedOp
  split
  · apply policy_keeps
    apply settle_keeps
    apply takeRaw_keeps
    assumption
  · assumption
theorem execEntryFetched_keeps {s0 s : State} {a0} (h : Keeps s0 s) : KeepsOut s0 (execEntryFetched a0 s) := by
  unfold execEntryFetched
  apply keepsOut_next
  apply entryFetchedOp_keeps
  assumption
theorem entryRereadOp_keeps {s0 s : State} {a0} (h : Keeps s0 s) : Keeps s0 (entryRereadOp a0 s) := by
  unfold entryRereadOp
  extract_lets v1
  split
  · apply readEntry_keeps
    apply dropRaw_keeps
    assumption
  · assumption
theorem execEntryReread_keeps {s0 s : State} {a0} (h : Keeps s0 s) : KeepsOut s0 (execEntryReread a0 s) := by
  unfold execEntryReread
  apply keepsOut_next
  apply entryRereadOp_keeps
  assumption
theorem ringRefuse_keeps {s0 s : State} (h : Keeps s0 s) : Keeps s0 (ringRefuse s) := by
  unfold ringRefuse
  apply updRing_keeps
  assumption
theorem ringClear_keeps {s0 s : State} (h : Keeps s0 s) : Keeps s0 (ringClear s) := by
  unfold ringClear
  apply updRing_keeps
  assumption
theorem ringCmd_keeps {s0 s : State} {a0} (h : Keeps s0 s) (hf : ∀ t, Keeps s0 t → Keeps s0 (a0 t)) : KeepsOut s0 (ringCmd a0 s) := by
  unfold ringCmd
  split
  · trivial
  · apply powered_keeps
    · assumption
    · apply hf
      assumption
theorem countRing_keeps {s0 s : State} {a0 a1} (h : Keeps s0 s) : Keeps s0 (countRing a0 a1 s) := by
  unfold countRing
  split
  · refine updSlot_same ?_ rfl rfl
    assumption
  · assumption
theorem bindOp_keeps {s0 s : State} (h : Keeps s0 s) : Keeps s0 (bindOp s) := by
  unfold bindOp
  extract_lets v1 v2 v3
  have hv2 : Keeps s0 v2 := by
    unfold v2
    apply updRing_keeps
    assumption
  clear_value v2
  have hv3 : Keeps s0 v3 := by
    unfold v3
    apply countRing_keeps
    assumption
  clear_value v3
  split
  · apply lookNow_keeps
    apply queuePub_keeps
    assumption
  · apply ringRefuse_keeps
    assumption
theorem execBind_keeps {s0 s : State} (h : Keeps s0 s) : KeepsOut s0 (execBind s) := by
  unfold execBind
  apply ringCmd_keeps
  · assumption
  · intro i1 i2
    apply bindOp_keeps
    assumption
theorem unbindOp_keeps {s0 s : State} (h : Keeps s0 s) : Keeps s0 (unbindOp s) := by
  unfold unbindOp
  extract_lets v1 v2 v3 v4
  have hv3 : Keeps s0 v3 := by
    unfold v3
    split
    · apply moveSeat_keeps
      assumption
    · assumption
  clear_value v3
  split
  · apply policy_keeps
    apply countRing_keeps
    apply forgetReads_keeps
    apply updRing_keeps
    assumption
  · apply ringRefuse_keeps
    assumption
theorem execUnbind_keeps {s0 s : State} (h : Keeps s0 s) : KeepsOut s0 (execUnbind s) := by
  unfold execUnbind
  apply ringCmd_keeps
  · assumption
  · intro i1 i2
    apply unbindOp_keeps
    assumption
theorem ringGoesOn_keeps {s0 s : State} {a0} (h : Keeps s0 s) : Keeps s0 (ringGoesOn a0 s) := by
  unfold ringGoesOn
  extract_lets v1 v2 v3
  have hv2 : Keeps s0 v2 := by
    unfold v2
    apply updRing_keeps
    assumption
  clear_value v2
  have hv3 : Keeps s0 v3 := by
    unfold v3
    split
    · apply moveSeat_keeps
      assumption
    · assumption
  clear_value v3
  apply lookNow_keeps
  assumption
theorem skipLatched_keeps {s0 s : State} {a0} (h : Keeps s0 s) : Keeps s0 (skipLatched a0 s) := by
  unfold skipLatched
  extract_lets v1 v2 v3
  have hv3 : Keeps s0 v3 := by
    unfold v3
    apply updRing_keeps
    assumption
  clear_value v3
  apply enterWindow_keeps
  assumption
theorem restartOp_keeps {s0 s : State} {a0} (h : Keeps s0 s) : Keeps s0 (restartOp a0 s) := by
  unfold restartOp
  extract_lets v1 v2 v3 v4
  have hv3 : Keeps s0 v3 := by
    unfold v3
    apply ringClear_keeps
    assumption
  clear_value v3
  have hv4 : Keeps s0 v4 := by
    unfold v4
    split
    · split
      · apply skipLatched_keeps
        assumption
      · apply updRing_keeps
        assumption
    · split
      · apply queuePub_keeps
        apply updRing_keeps
        assumption
      · assumption
  clear_value v4
  split
  · apply ringGoesOn_keeps
    assumption
  · apply ringRefuse_keeps
    assumption
theorem execRestart_keeps {s0 s : State} {a0} (h : Keeps s0 s) : KeepsOut s0 (execRestart a0 s) := by
  unfold execRestart
  apply ringCmd_keeps
  · assumption
  · intro i1 i2
    apply restartOp_keeps
    assumption
theorem abandonOp_keeps {s0 s : State} (h : Keeps s0 s) : Keeps s0 (abandonOp s) := by
  unfold abandonOp
  extract_lets v1 v2 v3 v4 v5
  have hv4 : Keeps s0 v4 := by
    unfold v4
    apply logRec_keeps
    apply ringClear_keeps
    assumption
  clear_value v4
  have hv5 : Keeps s0 v5 := by
    unfold v5
    apply updRing_keeps
    assumption
  clear_value v5
  split
  · apply policy_keeps
    apply settle_keeps
    apply forgetReads_keeps
    assumption
  · apply ringRefuse_keeps
    assumption
theorem execAbandon_keeps {s0 s : State} (h : Keeps s0 s) : KeepsOut s0 (execAbandon s) := by
  unfold execAbandon
  apply ringCmd_keeps
  · assumption
  · intro i1 i2
    apply abandonOp_keeps
    assumption
theorem pinOp_keeps {s0 s : State} {a0} (h : Keeps s0 s) : Keeps s0 (pinOp a0 s) := by
  unfold pinOp
  extract_lets v1 v2 v3 v4
  have hv2 : Keeps s0 v2 := by
    unfold v2
    apply updRing_keeps
    apply ringClear_keeps
    assumption
  clear_value v2
  have hv3 : Keeps s0 v3 := by
    unfold v3
    split
    · split
      · apply drainRing_keeps
        assumption
      · assumption
    · assumption
  clear_value v3
  have hv4 : Keeps s0 v4 := by
    unfold v4
    split
    · split
      · apply drainRing_keeps
        assumption
      · assumption
    · assumption
  clear_value v4
  split
  · apply policy_keeps
    assumption
  · apply ringRefuse_keeps
    assumption
theorem execPin_keeps {s0 s : State} {a0} (h : Keeps s0 s) : KeepsOut s0 (execPin a0 s) := by
  unfold execPin
  apply ringCmd_keeps
  · assumption
  · intro i1 i2
    apply pinOp_keeps
    assumption
theorem unpinOp_keeps {s0 s : State} (h : Keeps s0 s) : Keeps s0 (unpinOp s) := by
  unfold unpinOp
  extract_lets v1
  split
  · apply policy_keeps
    apply settle_keeps
    apply updRing_keeps
    apply ringClear_keeps
    assumption
  · apply ringRefuse_keeps
    assumption
theorem execUnpin_keeps {s0 s : State} (h : Keeps s0 s) : KeepsOut s0 (execUnpin s) := by
  unfold execUnpin
  apply ringCmd_keeps
  · assumption
  · intro i1 i2
    apply unpinOp_keeps
    assumption
theorem updateOp_keeps {s0 s : State} (h : Keeps s0 s) : Keeps s0 (updateOp s) := by
  unfold updateOp
  extract_lets v1
  split
  · apply policy_keeps
    apply settle_keeps
    apply updRing_keeps
    apply ringClear_keeps
    assumption
  · apply ringRefuse_keeps
    assumption
theorem execUpdate_keeps {s0 s : State} (h : Keeps s0 s) : KeepsOut s0 (execUpdate s) := by
  unfold execUpdate
  apply ringCmd_keeps
  · assumption
  · intro i1 i2
    apply updateOp_keeps
    assumption
theorem execSeatPolicy_keeps {s0 s : State} (h : Keeps s0 s) : KeepsOut s0 (execSeatPolicy s) := by
  unfold execSeatPolicy
  apply keepsOut_next
  apply policy_keeps
  assumption
theorem irqHoldoffEndOp_keeps {s0 s : State} {a0} (h : Keeps s0 s) : Keeps s0 (irqHoldoffEndOp a0 s) := by
  unfold irqHoldoffEndOp
  extract_lets v1
  split
  · apply ringIrq_keeps
    assumption
  · assumption
theorem execIrqHoldoffEnd_keeps {s0 s : State} {a0} (h : Keeps s0 s) : KeepsOut s0 (execIrqHoldoffEnd a0 s) := by
  unfold execIrqHoldoffEnd
  apply keepsOut_next
  apply irqHoldoffEndOp_keeps
  assumption
theorem pushLine_keeps {s0 s : State} {a0 a1} (h : Keeps s0 s) : Keeps s0 (pushLine a0 a1 s) := by
  unfold pushLine
  apply updCore_keeps
  assumption
theorem askLine_keeps {s0 s : State} {a0 a1 a2 a4} (h : Keeps s0 s) : Keeps s0 (askLine a0 a1 a2 s a4) := by
  unfold askLine
  split
  · assumption
  · apply issueNm_keeps
    assumption
theorem prefetch_keeps {s0 s : State} {a0 a1 a2} (h : Keeps s0 s) : Keeps s0 (prefetch a0 a1 a2 s) := by
  unfold prefetch
  extract_lets v1 v2
  apply each_keeps
  · assumption
  · intro i1 i2 i3
    apply askLine_keeps
    assumption
theorem wordFail_keeps {s0 s : State} {a0 a1 a2 a3 a4} (h : Keeps s0 s) : Keeps s0 (wordFail a0 a1 a2 a3 a4 s) := by
  unfold wordFail
  apply ownerError_keeps
  assumption
theorem wordFailAt_keeps {s0 s : State} {a0 a1 a2 a3 a4 a5} (h : Keeps s0 s) : Keeps s0 (wordFailAt a0 a1 a2 a3 a4 a5 s) := by
  unfold wordFailAt
  extract_lets v1
  apply ownerError_keeps
  assumption
theorem stallCore_keeps {s0 s : State} {a0 a1} (h : Keeps s0 s) : Keeps s0 (stallCore a0 a1 s) := by
  unfold stallCore
  apply updCore_keeps
  assumption
theorem runCore_keeps {s0 s : State} {a0} (h : Keeps s0 s) : Keeps s0 (runCore a0 s) := by
  unfold runCore
  apply updCore_keeps
  assumption
theorem dropLines_keeps {s0 s : State} {a0 a1 a2} (h : Keeps s0 s) : Keeps s0 (dropLines a0 a1 a2 s) := by
  unfold dropLines
  refine updPorts_keeps (each_keeps h fun t k ht => updCore_keeps ht) ?_
  rintro ⟨a, b⟩
  refine ⟨nodup_map a fun q => ?_, b⟩
  dsimp only
  split
  · split <;> rfl
  · rfl
theorem countWord_keeps {s0 s : State} {a0 a1 a2} (h : Keeps s0 s) : Keeps s0 (countWord a0 a1 a2 s) := by
  unfold countWord
  apply ergCount_keeps
  apply updCore_keeps
  apply updProg_keeps
  apply prefetch_keeps
  assumption
theorem advance_keeps {s0 s : State} {a0} (h : Keeps s0 s) : Keeps s0 (advance a0 s) := by
  unfold advance
  apply updProg_keeps
  assumption
theorem setReg_keeps {s0 s : State} {a0 a1 a2} (h : Keeps s0 s) : Keeps s0 (setReg a0 a1 a2 s) := by
  unfold setReg
  apply updProg_keeps
  assumption
theorem recheckSeat_keeps {s0 s : State} {a0} (h : Keeps s0 s) : Keeps s0 (recheckSeat a0 s) := by
  unfold recheckSeat
  split
  · assumption
  · extract_lets v1
    split
    · split
      · assumption
      · split
        · split
          · assumption
          · apply runCore_keeps
            assumption
        · apply runCore_keeps
          assumption
    · assumption
theorem recheckCores_keeps {s0 s : State} (h : Keeps s0 s) : Keeps s0 (recheckCores s) := by
  unfold recheckCores
  apply each_keeps
  · assumption
  · intro i1 i2 i3
    split
    · apply recheckSeat_keeps
      assumption
    · assumption
theorem parkSeat_keeps {s0 s : State} {a0 a1 a2} (h : Keeps s0 s) : Keeps s0 (parkSeat a0 a1 a2 s) := by
  unfold parkSeat
  extract_lets v1 v2
  have hv1 : Keeps s0 v1 := by
    unfold v1
    apply updProg_keeps
    assumption
  clear_value v1
  have hv2 : Keeps s0 v2 := by
    unfold v2
    apply moveSeat_keeps
    assumption
  clear_value v2
  split
  apply leaveCore_keeps
  apply hangEv_keeps
  assumption
theorem noteRelease_keeps {s0 s : State} {a0 a1 a2 a3 a4 a5 a6} (h : Keeps s0 s) : Keeps s0 (noteRelease a0 a1 a2 a3 a4 a5 a6 s) := by
  unfold noteRelease
  extract_lets v1 v2 v3
  have hv2 : Keeps s0 v2 := by
    unfold v2
    apply wakeEv_keeps
    assumption
  clear_value v2
  have hv3 : Keeps s0 v3 := by
    unfold v3
    apply hangEv_keeps
    assumption
  clear_value v3
  split
  · apply ergValue_keeps
    assumption
  · assumption
theorem releaseProg_keeps {s0 s : State} {a0} (h : Keeps s0 s) : Keeps s0 (releaseProg a0 s) := by
  unfold releaseProg
  apply updProg_keeps
  assumption
theorem checkBarrier_keeps {s0 s : State} {a0} (h : Keeps s0 s) : Keeps s0 (checkBarrier a0 s) := by
  unfold checkBarrier
  split
  · split
    · split
      · apply releaseProg_keeps
        apply noteRelease_keeps
        assumption
      · assumption
    · assumption
  · assumption
theorem seatEvent_keeps {s0 s : State} {a0 a1} (h : Keeps s0 s) : Keeps s0 (seatEvent a0 a1 s) := by
  unfold seatEvent
  apply settleOwner_keeps
  apply checkBarrier_keeps
  apply recheckSeat_keeps
  assumption
theorem seatResumeOp_keeps {s0 s : State} {a0} (h : Keeps s0 s) : Keeps s0 (seatResumeOp a0 s) := by
  unfold seatResumeOp
  extract_lets v1 v2
  have hv1 : Keeps s0 v1 := by
    unfold v1
    apply updProg_keeps
    assumption
  clear_value v1
  have hv2 : Keeps s0 v2 := by
    unfold v2
    apply moveSeat_keeps
    assumption
  clear_value v2
  split
  · assumption
  · split
    · assumption
    · split
      · assumption
      · apply updCore_keeps
        assumption
theorem execSeatResume_keeps {s0 s : State} {a0} (h : Keeps s0 s) : KeepsOut s0 (execSeatResume a0 s) := by
  unfold execSeatResume
  apply keepsOut_next
  apply seatResumeOp_keeps
  assumption
theorem beginReplay_keeps {s0 s : State} {a0 a1 a2} (h : Keeps s0 s) : Keeps s0 (beginReplay a0 a1 a2 s) := by
  unfold beginReplay
  extract_lets v1 v2
  have hv1 : Keeps s0 v1 := by
    unfold v1
    apply updBhs_keeps
    assumption
  clear_value v1
  have hv2 : Keeps s0 v2 := by
    unfold v2
    apply updWork_keeps
    assumption
  clear_value v2
  split
  · assumption
  · extract_lets v3 v4
    have hv4 : Keeps s0 v4 := by
      unfold v4
      apply moveSeat_keeps
      apply updBhs_keeps
      assumption
    clear_value v4
    split
    · apply pushLine_keeps
      assumption
    · assumption
theorem beginEntry_keeps {s0 s : State} {a0 a1 a2} (h : Keeps s0 s) : Keeps s0 (beginEntry a0 a1 a2 s) := by
  unfold beginEntry
  extract_lets v1
  split
  · apply beginReplay_keeps
    assumption
  · split
    · assumption
    · extract_lets v2 v3 v4 v5
      have hv4 : Keeps s0 v4 := by
        unfold v4
        apply enterWindow_keeps
        assumption
      clear_value v4
      have hv5 : Keeps s0 v5 := by
        unfold v5
        apply dropLines_keeps
        apply moveSeat_keeps
        assumption
      clear_value v5
      split
      · apply pushLine_keeps
        assumption
      · assumption
theorem beginHeatProg_keeps {s0 s : State} {a0 a1} (h : Keeps s0 s) : Keeps s0 (beginHeatProg a0 a1 s) := by
  unfold beginHeatProg
  apply moveSeat_keeps
  assumption
theorem heatHeader_keeps {s0 s : State} {a0 a1 a2 a3} (h : Keeps s0 s) : Keeps s0 (heatHeader a0 a1 a2 a3 s) := by
  unfold heatHeader
  extract_lets v1
  split
  · apply wordFail_keeps
    assumption
  · split
    · apply wordFailAt_keeps
      assumption
    · apply stallCore_keeps
      apply issueNm_keeps
      apply updWork_keeps
      assumption
theorem takeSeat_keeps {s0 s : State} {a0 a1} (h : Keeps s0 s) : Keeps s0 (takeSeat a0 a1 s) := by
  unfold takeSeat
  extract_lets v1
  have hv1 : Keeps s0 v1 := by
    unfold v1
    split
    · apply beginEntry_keeps
      assumption
    · apply beginHeatProg_keeps
      assumption
  clear_value v1
  split
  · assumption
  · split
    · apply heatHeader_keeps
      assumption
    · split
      · split
        · apply prefetch_keeps
          assumption
        · apply wordFailAt_keeps
          assumption
      · apply prefetch_keeps
        assumption
theorem takeSeatAndSettle_keeps {s0 s : State} {a0 a1} (h : Keeps s0 s) : Keeps s0 (takeSeatAndSettle a0 a1 s) := by
  unfold takeSeatAndSettle
  extract_lets v1
  have hv1 : Keeps s0 v1 := by
    unfold v1
    apply takeSeat_keeps
    assumption
  clear_value v1
  split
  · apply settle_keeps
    assumption
  · assumption
theorem coreTakeSeatOp_keeps {s0 s : State} {a0} (h : Keeps s0 s) : Keeps s0 (coreTakeSeatOp a0 s) := by
  unfold coreTakeSeatOp
  split
  · assumption
  · split
    · assumption
    · apply takeSeatAndSettle_keeps
      apply updCore_keeps
      assumption
theorem execCoreTakeSeat_keeps {s0 s : State} {a0} (h : Keeps s0 s) : KeepsOut s0 (execCoreTakeSeat a0 s) := by
  unfold execCoreTakeSeat
  apply keepsOut_next
  apply coreTakeSeatOp_keeps
  assumption
theorem yieldCore_keeps {s0 s : State} {a0} (h : Keeps s0 s) : Keeps s0 (yieldCore a0 s) := by
  unfold yieldCore
  split
  · assumption
  · extract_lets v1
    have hv1 : Keeps s0 v1 := by
      unfold v1
      apply updProg_keeps
      assumption
    clear_value v1
    split
    · apply updProg_keeps
      apply updCore_keeps
      assumption
    · split
      · apply takeSeatAndSettle_keeps
        apply updCore_keeps
        assumption
      · assumption
theorem sliceYieldOp_keeps {s0 s : State} {a0} (h : Keeps s0 s) : Keeps s0 (sliceYieldOp a0 s) := by
  unfold sliceYieldOp
  split
  · assumption
  · split
    · split
      · apply yieldCore_keeps
        assumption
      · assumption
    · assumption
theorem execSliceYield_keeps {s0 s : State} {a0} (h : Keeps s0 s) : KeepsOut s0 (execSliceYield a0 s) := by
  unfold execSliceYield
  apply keepsOut_next
  apply sliceYieldOp_keeps
  assumption
theorem runWord_keeps {s0 s : State} {a0 a1} {a2 : WordMeaning} {a3} (h : Keeps s0 s) (hf : ∀ k seat p w t, Keeps s0 t → Keeps s0 (a2 k seat p w t)) : Keeps s0 (runWord a0 a1 a2 a3 s) := by
  unfold runWord
  split
  · assumption
  · split
    · assumption
    · split
      · apply yieldCore_keeps
        assumption
      · split
        · apply wordFail_keeps
          assumption
        · split
          · apply stallCore_keeps
            apply prefetch_keeps
            assumption
          · extract_lets v1
            have hv1 : Keeps s0 v1 := by
              unfold v1
              apply hf
              apply countWord_keeps
              assumption
            clear_value v1
            split
            · apply wordFailAt_keeps
              assumption
            · split
              · split
                · apply wordFail_keeps
                  assumption
                · assumption
              · split
                · apply wordFail_keeps
                  assumption
                · split
                  · apply stallCore_keeps
                    assumption
                  · split
                    · apply stallCore_keeps
                      assumption
                    · assumption
theorem registerWait_keeps {s0 s : State} {a0 a1 a2 a3 a4} (h : Keeps s0 s) : Keeps s0 (registerWait a0 a1 a2 a3 a4 s) := by
  unfold registerWait
  extract_lets v1 v2
  have hv2 : Keeps s0 v2 := by
    unfold v2
    apply moveWaiter_keeps
    assumption
  clear_value v2
  apply ergCount_keeps
  apply issueAt_keeps
  assumption

end Sys2Proof.Machine
end

