-- ==== Sys2Proof/Laws/KeepsWork.lean ====
section
/-! SUPPORT. What `Keeps` says, operation by operation: Rowlocks, control words, copies, moves, saves and waits. -/
namespace Sys2Proof.Machine

theorem updPiece_keeps {s0 s : State} {a0 a1 a2 a3} (h : Keeps s0 s) : Keeps s0 (updPiece a0 a1 a2 a3 s) := by
  unfold updPiece
  apply updEng_keeps
  assumption
theorem cutPiece_keeps {s0 s : State} {a0 a1 a2 a3} (h : Keeps s0 s) : Keeps s0 (cutPiece a0 a1 a2 a3 s) := by
  unfold cutPiece
  split
  · assumption
  · split
    · assumption
    · apply updRow_keeps
      apply updPiece_keeps
      assumption
theorem checkFront_keeps {s0 s : State} {a0 a1 a3} (h : Keeps s0 s) : Keeps s0 (checkFront a0 a1 s a3) := by
  unfold checkFront
  extract_lets v1
  split
  · assumption
  · (clear_value v1; split)
    · assumption
    · extract_lets v2
      apply cutPiece_keeps
      apply logRec_keeps
      assumption
theorem reportPiece_keeps {s0 s : State} {a0 a1 a2} (h : Keeps s0 s) : Keeps s0 (reportPiece a0 a1 a2 s) := by
  unfold reportPiece
  extract_lets v1
  have hv1 : Keeps s0 v1 := by
    unfold v1
    apply updEng_keeps
    assumption
  clear_value v1
  apply updRow_keeps
  assumption
theorem makeDue_keeps {s0 s : State} {a0 a1 a2} (h : Keeps s0 s) : Keeps s0 (makeDue a0 a1 a2 s) := by
  unfold makeDue
  extract_lets v1
  apply updRow_keeps
  apply updPiece_keeps
  assumption
theorem activatePiece_keeps {s0 s : State} {a0 a1 a2} (h : Keeps s0 s) : Keeps s0 (activatePiece a0 a1 a2 s) := by
  unfold activatePiece
  extract_lets v1
  have hv1 : Keeps s0 v1 := by
    unfold v1
    apply updPiece_keeps
    assumption
  clear_value v1
  split
  · apply makeDue_keeps
    assumption
  · assumption
theorem activateAll_keeps {s0 s : State} {a0 a1 a2} (h : Keeps s0 s) : Keeps s0 (activateAll a0 a1 a2 s) := by
  induction a2 generalizing s a0 a1
  · unfold activateAll
    assumption
  · rename_i n ih
    unfold activateAll
    extract_lets v1
    split
    · assumption
    · split
      · apply ih
        apply activatePiece_keeps
        assumption
      · assumption
theorem noteWaits_keeps {s0 s : State} {a0 a1} (h : Keeps s0 s) : Keeps s0 (noteWaits a0 a1 s) := by
  unfold noteWaits
  extract_lets v1 v2
  apply updEng_keeps
  assumption
theorem noteReady_keeps {s0 s : State} {a0 a1} (h : Keeps s0 s) : Keeps s0 (noteReady a0 a1 s) := by
  unfold noteReady
  extract_lets v1
  apply updEng_keeps
  assumption
theorem notePace_keeps {s0 s : State} {a0 a2} (h : Keeps s0 s) : Keeps s0 (notePace a0 s a2) := by
  unfold notePace
  extract_lets v1
  split
  · assumption
  · split
    · assumption
    · split
      · assumption
      · apply updPiece_keeps
        assumption
theorem reportDone_keeps {s0 s : State} {a0 a1 a2} (h : Keeps s0 s) : Keeps s0 (reportDone a0 a1 a2 s) := by
  induction a2 generalizing s a0 a1
  · unfold reportDone
    assumption
  · rename_i n ih
    unfold reportDone
    extract_lets v1
    split
    · apply ih
      apply reportPiece_keeps
      assumption
    · assumption
theorem settleEngine_keeps {s0 s : State} {a0 a2} (h : Keeps s0 s) : Keeps s0 (settleEngine a0 s a2) := by
  unfold settleEngine
  extract_lets v1 v2
  have hv1 : Keeps s0 v1 := by
    unfold v1
    apply activateAll_keeps
    assumption
  clear_value v1
  have hv2 : Keeps s0 v2 := by
    unfold v2
    apply each_keeps
    · assumption
    · intro i1 i2 i3
      apply checkFront_keeps
      assumption
  clear_value v2
  apply notePace_keeps
  apply noteReady_keeps
  apply noteWaits_keeps
  apply activateAll_keeps
  apply reportDone_keeps
  assumption
theorem holdEngine_keeps {s0 s : State} {a0 a2} (h : Keeps s0 s) : Keeps s0 (holdEngine a0 s a2) := by
  unfold holdEngine
  extract_lets v1
  split
  · split
    · apply moveEng_keeps
      assumption
    · assumption
  · assumption
theorem settleCluster_keeps {s0 s : State} {a0} (h : Keeps s0 s) : Keeps s0 (settleCluster a0 s) := by
  unfold settleCluster
  extract_lets v1 v2 v3 v4
  have hv2 : Keeps s0 v2 := by
    unfold v2
    apply each_keeps
    · apply drainArrivals_keeps
      assumption
    · intro i1 i2 i3
      apply settleEngine_keeps
      assumption
  clear_value v2
  have hv3 : Keeps s0 v3 := by
    unfold v3
    split
    · split
      · apply each_keeps
        · apply becomeResident_keeps
          assumption
        · intro i4 i5 i6
          apply settleEngine_keeps
          assumption
      · assumption
    · assumption
  clear_value v3
  have hv4 : Keeps s0 v4 := by
    unfold v4
    apply each_keeps
    · assumption
    · intro i1 i2 i3
      apply holdEngine_keeps
      assumption
  clear_value v4
  apply updRow_keeps
  assumption
theorem settleRow_keeps {s0 s : State} {a0} (h : Keeps s0 s) : Keeps s0 (settleRow a0 s) := by
  unfold settleRow
  extract_lets v1
  apply pumpTrees_keeps
  apply settleCluster_keeps
  apply keeps_fab
  assumption
theorem settleVacated_keeps {s0 s : State} (h : Keeps s0 s) : Keeps s0 (settleVacated s) := by
  unfold settleVacated
  apply each_keeps
  · assumption
  · intro i1 i2 i3
    apply settleRow_keeps
    assumption
theorem deliver_keeps {s0 s : State} {a0 a1 a2} (h : Keeps s0 s) : Keeps s0 (deliver a0 a1 a2 s) := by
  unfold deliver
  extract_lets v1
  have hv1 : Keeps s0 v1 := by
    unfold v1
    apply updTree_keeps
    assumption
  clear_value v1
  apply hangEv_keeps
  assumption
theorem takeSlot_keeps {s0 s : State} {a0 a1 a2 a3} (h : Keeps s0 s) : Keeps s0 (takeSlot a0 a1 a2 a3 s) := by
  unfold takeSlot
  extract_lets v1
  apply updRow_keeps
  apply updEng_keeps
  assumption
theorem pieceOp_keeps {s0 s : State} {a0 a1} (h : Keeps s0 s) : Keeps s0 (pieceOp a0 a1 s) := by
  unfold pieceOp
  split
  · split
    · assumption
    · apply settleRow_keeps
      apply takeSlot_keeps
      apply deliver_keeps
      assumption
  · assumption
theorem execPiece_keeps {s0 s : State} {a0 a1} (h : Keeps s0 s) : KeepsOut s0 (execPiece a0 a1 s) := by
  unfold execPiece
  apply keepsOut_next
  apply pieceOp_keeps
  assumption
theorem crewPieceOp_keeps {s0 s : State} {a0 a1} (h : Keeps s0 s) : Keeps s0 (crewPieceOp a0 a1 s) := by
  unfold crewPieceOp
  split
  · extract_lets v1 v2
    split
    · assumption
    · apply settleRow_keeps
      apply takeSlot_keeps
      apply deliver_keeps
      assumption
  · assumption
theorem execCrewPiece_keeps {s0 s : State} {a0 a1} (h : Keeps s0 s) : KeepsOut s0 (execCrewPiece a0 a1 s) := by
  unfold execCrewPiece
  apply keepsOut_next
  apply crewPieceOp_keeps
  assumption
theorem cancelOp_keeps {s0 s : State} {a0 a1} (h : Keeps s0 s) : Keeps s0 (cancelOp a0 a1 s) := by
  unfold cancelOp
  split
  · extract_lets v1 v2
    have hv1 : Keeps s0 v1 := by
      unfold v1
      apply deliver_keeps
      assumption
    clear_value v1
    have hv2 : Keeps s0 v2 := by
      unfold v2
      apply each_keeps
      · assumption
      · intro i1 i2 i3
        apply each_keeps
        · assumption
        · intro i4 i5 i6
          apply cutPiece_keeps
          assumption
    clear_value v2
    apply settleRow_keeps
    assumption
  · assumption
theorem execCancel_keeps {s0 s : State} {a0 a1} (h : Keeps s0 s) : KeepsOut s0 (execCancel a0 a1 s) := by
  unfold execCancel
  apply keepsOut_next
  apply cancelOp_keeps
  assumption
theorem holdOp_keeps {s0 s : State} {a0 a1} (h : Keeps s0 s) : Keeps s0 (holdOp a0 a1 s) := by
  unfold holdOp
  split
  · apply settleRow_keeps
    apply updRow_keeps
    apply deliver_keeps
    assumption
  · assumption
theorem execHold_keeps {s0 s : State} {a0 a1} (h : Keeps s0 s) : KeepsOut s0 (execHold a0 a1 s) := by
  unfold execHold
  apply keepsOut_next
  apply holdOp_keeps
  assumption
theorem releaseOp_keeps {s0 s : State} {a0 a1} (h : Keeps s0 s) : Keeps s0 (releaseOp a0 a1 s) := by
  unfold releaseOp
  split
  · apply settleRow_keeps
    apply updRow_keeps
    apply deliver_keeps
    assumption
  · assumption
theorem execRelease_keeps {s0 s : State} {a0 a1} (h : Keeps s0 s) : KeepsOut s0 (execRelease a0 a1 s) := by
  unfold execRelease
  apply keepsOut_next
  apply releaseOp_keeps
  assumption
theorem prefetchNext_keeps {s0 s : State} {a0 a1 a2} (h : Keeps s0 s) : Keeps s0 (prefetchNext a0 a1 a2 s) := by
  unfold prefetchNext
  extract_lets v1
  split
  · split
    · apply makeDue_keeps
      assumption
    · assumption
  · assumption
theorem chunkRequestOp_keeps {s0 s : State} {a0 a1} (h : Keeps s0 s) : Keeps s0 (chunkRequestOp a0 a1 s) := by
  unfold chunkRequestOp
  extract_lets v1 v2
  split
  · assumption
  · extract_lets v3 v4 v5 v6 v7
    have hv5 : Keeps s0 v5 := by
      unfold v5
      apply updRow_keeps
      assumption
    clear_value v5
    have hv6 : Keeps s0 v6 := by
      unfold v6
      apply updPiece_keeps
      assumption
    clear_value v6
    have hv7 : Keeps s0 v7 := by
      unfold v7
      apply hangEv_keeps
      assumption
    clear_value v7
    split
    · assumption
    · split
      · split
        · apply makeDue_keeps
          assumption
        · assumption
      · split
        · apply prefetchNext_keeps
          assumption
        · assumption
theorem execChunkRequest_keeps {s0 s : State} {a0 a1} (h : Keeps s0 s) : KeepsOut s0 (execChunkRequest a0 a1 s) := by
  unfold execChunkRequest
  apply keepsOut_next
  apply chunkRequestOp_keeps
  assumption
theorem takeBeat_keeps {s0 s : State} {a0 a1 a2 a3} (h : Keeps s0 s) : Keeps s0 (takeBeat a0 a1 a2 a3 s) := by
  unfold takeBeat
  split
  · apply updPiece_keeps
    assumption
  · apply targetLost_keeps
    assumption
  · extract_lets v1 v2
    have hv2 : Keeps s0 v2 := by
      unfold v2
      split
      · apply poisonMark_keeps
        assumption
      · assumption
    clear_value v2
    apply updPiece_keeps
    assumption
theorem execRpResponse_keeps {s0 s : State} {a0 a1 a2 a3 a4} (h : Keeps s0 s) : KeepsOut s0 (execRpResponse a0 a1 a2 a3 a4 s) := by
  unfold execRpResponse
  extract_lets v1 v2
  have hv1 : Keeps s0 v1 := by
    unfold v1
    apply updRow_keeps
    assumption
  clear_value v1
  have hv2 : Keeps s0 v2 := by
    unfold v2
    apply rspEv_keeps
    assumption
  clear_value v2
  split
  · trivial
  · split
    · trivial
    · split
      · apply keepsOut_next
        split
        · apply targetLost_keeps
          assumption
        · assumption
      · split
        · apply keepsOut_next
          assumption
        · apply keepsOut_next
          apply settleRow_keeps
          apply takeBeat_keeps
          assumption
theorem presentCmd_keeps {s0 s : State} {a0 a1 a2 a3} (h : Keeps s0 s) : Keeps s0 (presentCmd a0 a1 a2 a3 s) := by
  unfold presentCmd
  extract_lets v1 v2 v3 v4 v5
  have hv2 : Keeps s0 v2 := by
    unfold v2
    split
    · apply updRow_keeps
      assumption
    · assumption
  clear_value v2
  have hv3 : Keeps s0 v3 := by
    unfold v3
    split
    · apply updRow_keeps
      assumption
    · assumption
  clear_value v3
  have hv4 : Keeps s0 v4 := by
    unfold v4
    apply updPiece_keeps
    assumption
  clear_value v4
  apply settleRow_keeps
  apply moveEng_keeps
  apply paceTake_keeps
  apply paceCounted_keeps
  assumption
theorem presentOne_keeps {s0 s : State} {a0 a1} (h : Keeps s0 s) : Keeps s0 (presentOne a0 a1 s) := by
  unfold presentOne
  split
  · assumption
  · split
    · assumption
    · split
      · apply presentCmd_keeps
        assumption
      · apply notePace_keeps
        assumption
theorem presentOp_keeps {s0 s : State} {a0 a1} (h : Keeps s0 s) : Keeps s0 (presentOp a0 a1 s) := by
  unfold presentOp
  extract_lets v1
  have hv1 : Keeps s0 v1 := by
    unfold v1
    apply settleVacated_keeps
    assumption
  clear_value v1
  split
  · assumption
  · apply presentOne_keeps
    apply each_keeps
    · assumption
    · intro i1 i2 i3
      apply presentOne_keeps
      assumption
theorem execPresent_keeps {s0 s : State} {a0 a1} (h : Keeps s0 s) : KeepsOut s0 (execPresent a0 a1 s) := by
  unfold execPresent
  apply keepsOut_next
  apply presentOp_keeps
  assumption
theorem noteCatch_keeps {s0 s : State} {a0 a1 a2} (h : Keeps s0 s) : Keeps s0 (noteCatch a0 a1 a2 s) := by
  unfold noteCatch
  extract_lets v1 v2 v3 v4 v5 v6
  have hv4 : Keeps s0 v4 := by
    unfold v4
    apply wakeRec_keeps
    assumption
  clear_value v4
  have hv5 : Keeps s0 v5 := by
    unfold v5
    apply ergCount_keeps
    apply ergCount_keeps
    assumption
  clear_value v5
  have hv6 : Keeps s0 v6 := by
    unfold v6
    apply ergValue_keeps
    assumption
  clear_value v6
  apply hangEv_keeps
  assumption
theorem fillEv_keeps {s0 s : State} {a0 a1 a2} (h : Keeps s0 s) : Keeps s0 (fillEv a0 a1 a2 s) := by
  unfold fillEv
  apply hangEv_keeps
  assumption
theorem execCatchCmd_keeps {s0 s : State} {a0 a1} (h : Keeps s0 s) : KeepsOut s0 (execCatchCmd a0 a1 s) := by
  unfold execCatchCmd
  extract_lets v1
  split
  · trivial
  · split
    · apply keepsOut_next
      assumption
    · split
      · extract_lets v2 v3 v4
        have hv2 : Keeps s0 v2 := by
          unfold v2
          split
          · assumption
          · apply updPiece_keeps
            assumption
        clear_value v2
        have hv3 : Keeps s0 v3 := by
          unfold v3
          split
          · assumption
          · apply noteCatch_keeps
            assumption
        clear_value v3
        have hv4 : Keeps s0 v4 := by
          unfold v4
          apply moveEng_keeps
          split
          · apply fillEv_keeps
            assumption
          · assumption
        clear_value v4
        apply keepsOut_next
        apply settleRow_keeps
        assumption
      · trivial
theorem noteFinish_keeps {s0 s : State} {a0 a1 a2 a3} (h : Keeps s0 s) : Keeps s0 (noteFinish a0 a1 a2 a3 s) := by
  unfold noteFinish
  extract_lets v1 v2 v3 v4 v5 v6 v7 v8 v9
  have hv5 : Keeps s0 v5 := by
    unfold v5
    apply wakeRec_keeps
    assumption
  clear_value v5
  have hv6 : Keeps s0 v6 := by
    unfold v6
    apply ergValue_keeps
    apply ergCount_keeps
    assumption
  clear_value v6
  have hv7 : Keeps s0 v7 := by
    unfold v7
    split
    · apply ergCount_keeps
      assumption
    · assumption
  clear_value v7
  have hv9 : Keeps s0 v9 := by
    unfold v9
    apply keeps_fab
    assumption
  clear_value v9
  apply hangEv_keeps
  assumption
theorem finishPost_keeps {s0 s : State} {a0 a1} (h : Keeps s0 s) : Keeps s0 (finishPost a0 a1 s) := by
  unfold finishPost
  split
  · apply addSync_keeps
    assumption
  · assumption
theorem rampDown_keeps {s0 s : State} {a0 a1} (h : Keeps s0 s) : Keeps s0 (rampDown a0 a1 s) := by
  unfold rampDown
  extract_lets v1 v2 v3
  split
  · assumption
  · split
    · apply updStk_keeps
      assumption
    · split
      · apply updStk_keeps
        apply moveEng_keeps
        assumption
      · apply updStk_keeps
        assumption
theorem presentFirst_keeps {s0 s : State} {a0 a1} (h : Keeps s0 s) : Keeps s0 (presentFirst a0 a1 s) := by
  unfold presentFirst
  split
  · apply presentOp_keeps
    assumption
  · assumption
theorem execFinish_keeps {s0 s : State} {a0 a1 a2} (h : Keeps s0 s) : KeepsOut s0 (execFinish a0 a1 a2 s) := by
  unfold execFinish
  extract_lets v1 v2 v3 v4
  have hv1 : Keeps s0 v1 := by
    unfold v1
    apply presentFirst_keeps
    assumption
  clear_value v1
  split
  · trivial
  · split
    · apply keepsOut_next
      assumption
    · split
      · trivial
      · extract_lets v5 v6 v7 v8 v9 v10
        have hv6 : Keeps s0 v6 := by
          unfold v6
          split
          · apply logRec_keeps
            assumption
          · assumption
        clear_value v6
        have hv7 : Keeps s0 v7 := by
          unfold v7
          apply noteFinish_keeps
          assumption
        clear_value v7
        have hv8 : Keeps s0 v8 := by
          unfold v8
          split
          · assumption
          · apply finishPost_keeps
            assumption
        clear_value v8
        have hv9 : Keeps s0 v9 := by
          unfold v9
          apply moveEng_keeps
          apply updPiece_keeps
          assumption
        clear_value v9
        have hv10 : Keeps s0 v10 := by
          unfold v10
          (clear_value v4; split)
          · apply updPiece_keeps
            apply cutPiece_keeps
            assumption
          · assumption
        clear_value v10
        split
        · apply keepsOut_next
          apply settleRow_keeps
          apply rampDown_keeps
          apply moveEng_keeps
          apply fillEv_keeps
          assumption
        · apply keepsOut_next
          apply settleRow_keeps
          apply rampDown_keeps
          assumption
theorem noteReport_keeps {s0 s : State} {a0 a1 a2 a3} (h : Keeps s0 s) : Keeps s0 (noteReport a0 a1 a2 a3 s) := by
  unfold noteReport
  extract_lets v1
  have hv1 : Keeps s0 v1 := by
    unfold v1
    apply updEng_keeps
    assumption
  clear_value v1
  split
  · apply poisonMark_keeps
    apply State.nextFree_keeps
    assumption
  · assumption
theorem execEngineErrorReport_keeps {s0 s : State} {a0 a1 a2 a3 a4} (h : Keeps s0 s) : KeepsOut s0 (execEngineErrorReport a0 a1 a2 a3 a4 s) := by
  unfold execEngineErrorReport
  extract_lets v1 v2 v3
  have hv3 : Keeps s0 v3 := by
    unfold v3
    apply noteReport_keeps
    assumption
  clear_value v3
  split
  · trivial
  · split
    · apply keepsOut_next
      assumption
    · split
      · trivial
      · split
        · apply keepsOut_next
          apply raise4_keeps
          assumption
        · split
          · apply keepsOut_next
            apply raise5_keeps
            assumption
          · apply keepsOut_next
            apply logRec_keeps
            assumption
theorem reportError_keeps {s0 s : State} {a0 a1} (h : Keeps s0 s) : Keeps s0 (reportError a0 a1 s) := by
  unfold reportError
  split
  · assumption
  · apply failWork_keeps
    assumption
  · apply failSeat_keeps
    assumption
  · split
    · apply failContext_keeps
      assumption
    · assumption
  · assumption
theorem programReport_keeps {s0 s : State} {a0} (h : Keeps s0 s) : Keeps s0 (programReport a0 s) := by
  unfold programReport
  split
  · assumption
  · extract_lets v1
    have hv1 : Keeps s0 v1 := by
      unfold v1
      apply updWork_keeps
      apply subGroup_keeps
      assumption
    clear_value v1
    apply seatEvent_keeps
    apply reportError_keeps
    assumption
theorem activeYieldOp_keeps {s0 s : State} {a0 a1} (h : Keeps s0 s) : Keeps s0 (activeYieldOp a0 a1 s) := by
  unfold activeYieldOp
  extract_lets v1 v2
  split
  · assumption
  · (clear_value v2; split)
    · assumption
    · extract_lets v3
      have hv3 : Keeps s0 v3 := by
        unfold v3
        apply updPiece_keeps
        assumption
      clear_value v3
      split
      · assumption
      · apply settleRow_keeps
        apply activatePiece_keeps
        assumption
theorem execActiveYield_keeps {s0 s : State} {a0 a1} (h : Keeps s0 s) : KeepsOut s0 (execActiveYield a0 a1 s) := by
  unfold execActiveYield
  apply keepsOut_next
  apply activeYieldOp_keeps
  assumption
theorem execPreAckRise_keeps {s0 s : State} {a0 a1} (h : Keeps s0 s) : KeepsOut s0 (execPreAckRise a0 a1 s) := by
  unfold execPreAckRise
  extract_lets v1
  split
  · trivial
  · split
    · apply keepsOut_next
      assumption
    · split
      · apply keepsOut_next
        apply moveEng_keeps
        assumption
      · trivial
theorem execPreAckFall_keeps {s0 s : State} {a0 a1} (h : Keeps s0 s) : KeepsOut s0 (execPreAckFall a0 a1 s) := by
  unfold execPreAckFall
  extract_lets v1
  split
  · trivial
  · split
    · apply keepsOut_next
      assumption
    · split
      · apply keepsOut_next
        apply settleRow_keeps
        apply moveEng_keeps
        assumption
      · trivial
theorem alignedStartOp_keeps {s0 s : State} {a0 a1} (h : Keeps s0 s) : Keeps s0 (alignedStartOp a0 a1 s) := by
  unfold alignedStartOp
  split
  · apply presentOp_keeps
    assumption
  · assumption
theorem execAlignedStart_keeps {s0 s : State} {a0 a1} (h : Keeps s0 s) : KeepsOut s0 (execAlignedStart a0 a1 s) := by
  unfold execAlignedStart
  apply keepsOut_next
  apply alignedStartOp_keeps
  assumption
theorem staggerStartOp_keeps {s0 s : State} {a0 a1} (h : Keeps s0 s) : Keeps s0 (staggerStartOp a0 a1 s) := by
  unfold staggerStartOp
  split
  · apply presentOp_keeps
    assumption
  · assumption
theorem execStaggerStart_keeps {s0 s : State} {a0 a1} (h : Keeps s0 s) : KeepsOut s0 (execStaggerStart a0 a1 s) := by
  unfold execStaggerStart
  apply keepsOut_next
  apply staggerStartOp_keeps
  assumption
theorem execArrival_keeps {s0 s : State} {a0 a1 a2 a3} (h : Keeps s0 s) : KeepsOut s0 (execArrival a0 a1 a2 a3 s) := by
  unfold execArrival
  split
  · trivial
  · apply powered_keeps
    · assumption
    · apply settleRow_keeps
      apply arrivalOp_keeps
      assumption
theorem execArrivalStall_keeps {s0 s : State} {a0} (h : Keeps s0 s) : KeepsOut s0 (execArrivalStall a0 s) := by
  unfold execArrivalStall
  apply powered_keeps
  · assumption
  · apply arrivalStallOp_keeps
    assumption
theorem sendCancel_keeps {s0 s : State} {a0 a1 a2 a3} (h : Keeps s0 s) : Keeps s0 (sendCancel a0 a1 a2 a3 s) := by
  unfold sendCancel
  extract_lets v1 v2
  split
  · apply sendTree_keeps
    assumption
  · apply each_keeps
    · assumption
    · intro i1 i2 i3
      apply sendTree_keeps
      assumption
theorem nopWord_keeps {s0 s : State} {a0 a1 a2 a3} (h : Keeps s0 s) : Keeps s0 (nopWord a0 a1 a2 a3 s) := by
  unfold nopWord
  apply advance_keeps
  assumption
theorem heatEnd_keeps {s0 s : State} {a0 a1 a2} (h : Keeps s0 s) : Keeps s0 (heatEnd a0 a1 a2 s) := by
  unfold heatEnd
  extract_lets v1 v2
  split
  · apply endProgram_keeps
    assumption
  · apply ownerError_keeps
    assumption
theorem endOf_keeps {s0 s : State} {a0 a1 a2} (h : Keeps s0 s) : Keeps s0 (endOf a0 a1 a2 s) := by
  unfold endOf
  split
  · apply endProgram_keeps
    assumption
  · apply heatEnd_keeps
    assumption
theorem endWord_keeps {s0 s : State} {a0 a1 a2 a3} (h : Keeps s0 s) : Keeps s0 (endWord a0 a1 a2 a3 s) := by
  unfold endWord
  apply endOf_keeps
  assumption
theorem heatendWord_keeps {s0 s : State} {a0 a1 a2 a3} (h : Keeps s0 s) : Keeps s0 (heatendWord a0 a1 a2 a3 s) := by
  unfold heatendWord
  split
  · apply wordFail_keeps
    assumption
  · apply heatEnd_keeps
    assumption
theorem jumpWord_keeps {s0 s : State} {a0 a1 a2 a3} (h : Keeps s0 s) : Keeps s0 (jumpWord a0 a1 a2 a3 s) := by
  unfold jumpWord
  extract_lets v1
  split
  · apply wordFail_keeps
    assumption
  · apply updProg_keeps
    assumption
theorem branchWord_keeps {s0 s : State} {a0 a1 a2 a3} (h : Keeps s0 s) : Keeps s0 (branchWord a0 a1 a2 a3 s) := by
  unfold branchWord
  extract_lets v1
  split
  · apply wordFail_keeps
    assumption
  · split
    · apply updProg_keeps
      assumption
    · apply advance_keeps
      assumption
theorem loopWord_keeps {s0 s : State} {a0 a1 a2 a3} (h : Keeps s0 s) : Keeps s0 (loopWord a0 a1 a2 a3 s) := by
  unfold loopWord
  extract_lets v1 v2 v3
  have hv3 : Keeps s0 v3 := by
    unfold v3
    apply updProg_keeps
    assumption
  clear_value v3
  split
  · apply wordFail_keeps
    assumption
  · split
    · apply advance_keeps
      assumption
    · apply updProg_keeps
      assumption
theorem retcWord_keeps {s0 s : State} {a0 a1 a2 a3} (h : Keeps s0 s) : Keeps s0 (retcWord a0 a1 a2 a3 s) := by
  unfold retcWord
  split
  · apply endOf_keeps
    assumption
  · apply updProg_keeps
    assumption
theorem resolveCourse_keeps {s0 s : State} {a0 a1 a2 a3} (h : Keeps s0 s) : KeepsEP s0 (resolveCourse a0 a1 a2 a3 s) := by
  unfold resolveCourse
  extract_lets v1 v2 v3 v4
  split
  · apply keepsEP_ok
    assumption
  · split
    · trivial
    · split
      · trivial
      · split
        · trivial
        · split
          · trivial
          · split
            · trivial
            · split
              · apply keepsEP_ok
                assumption
              · split
                · trivial
                · split
                  · trivial
                  · apply keepsEP_ok
                    apply updWork_keeps
                    refine KeepsE.of (refAddOp_keeps ?_) (by assumption)
                    assumption
theorem enterCourse_keeps {s0 s : State} {a0 a1 a2} (h : Keeps s0 s) : Keeps s0 (enterCourse a0 a1 a2 s) := by
  unfold enterCourse
  apply updProg_keeps
  assumption
theorem callcWord_keeps {s0 s : State} {a0 a1 a2 a3} (h : Keeps s0 s) : Keeps s0 (callcWord a0 a1 a2 a3 s) := by
  unfold callcWord
  extract_lets v1
  split
  · apply wordFail_keeps
    assumption
  · split
    · apply wordFail_keeps
      assumption
    · split
      · apply enterCourse_keeps
        refine KeepsEP.of (resolveCourse_keeps ?_) (by assumption)
        assumption
      · split
        · apply wordFail_keeps
          refine KeepsEP.of (resolveCourse_keeps ?_) (by assumption)
          assumption
        · split
          · apply wordFailAt_keeps
            refine KeepsEP.of (resolveCourse_keeps ?_) (by assumption)
            assumption
          · apply stallCore_keeps
            apply issueNm_keeps
            apply updWork_keeps
            refine KeepsEP.of (resolveCourse_keeps ?_) (by assumption)
            assumption
theorem setcWord_keeps {s0 s : State} {a0 a1 a2 a3} (h : Keeps s0 s) : Keeps s0 (setcWord a0 a1 a2 a3 s) := by
  unfold setcWord
  extract_lets v1
  apply advance_keeps
  apply setReg_keeps
  assumption
theorem addcWord_keeps {s0 s : State} {a0 a1 a2 a3} (h : Keeps s0 s) : Keeps s0 (addcWord a0 a1 a2 a3 s) := by
  unfold addcWord
  extract_lets v1
  apply advance_keeps
  apply updProg_keeps
  assumption
theorem moreReqs_keeps {s0 s : State} {a0} (h : Keeps s0 s) : Keeps s0 (moreReqs a0 s) := by
  unfold moreReqs
  apply updWork_keeps
  assumption
theorem lessReqs_keeps {s0 s : State} {a0} (h : Keeps s0 s) : Keeps s0 (lessReqs a0 s) := by
  unfold lessReqs
  apply updWork_keeps
  assumption
theorem unreplayable_keeps {s0 s : State} {a0} (h : Keeps s0 s) : Keeps s0 (unreplayable a0 s) := by
  unfold unreplayable
  apply updWork_keeps
  assumption
theorem loadcWord_keeps {s0 s : State} {a0 a1 a2 a3} (h : Keeps s0 s) : Keeps s0 (loadcWord a0 a1 a2 a3 s) := by
  unfold loadcWord
  extract_lets v1 v2
  split
  · apply wordFailAt_keeps
    assumption
  · split
    · apply wordFailAt_keeps
      assumption
    · split
      · apply wordFailAt_keeps
        assumption
      · split
        · apply stallCore_keeps
          assumption
        · apply advance_keeps
          apply updProg_keeps
          apply issueNm_keeps
          apply moreReqs_keeps
          assumption
theorem storecWord_keeps {s0 s : State} {a0 a1 a2 a3} (h : Keeps s0 s) : Keeps s0 (storecWord a0 a1 a2 a3 s) := by
  unfold storecWord
  extract_lets v1 v2
  split
  · apply wordFailAt_keeps
    assumption
  · split
    · apply wordFailAt_keeps
      assumption
    · split
      · apply stallCore_keeps
        assumption
      · apply advance_keeps
        apply issueNm_keeps
        apply moreReqs_keeps
        assumption
theorem atomcWord_keeps {s0 s : State} {a0 a1 a2 a3} (h : Keeps s0 s) : Keeps s0 (atomcWord a0 a1 a2 a3 s) := by
  unfold atomcWord
  extract_lets v1 v2 v3 v4
  have hv4 : Keeps s0 v4 := by
    unfold v4
    split
    · apply unreplayable_keeps
      assumption
    · assumption
  clear_value v4
  split
  · apply wordFailAt_keeps
    assumption
  · split
    · apply wordFailAt_keeps
      assumption
    · split
      · apply wordFailAt_keeps
        assumption
      · split
        · apply stallCore_keeps
          assumption
        · apply advance_keeps
          apply updProg_keeps
          apply issueAt_keeps
          apply moreReqs_keeps
          assumption
theorem waitfWord_keeps {s0 s : State} {a0 a1 a2 a3} (h : Keeps s0 s) : Keeps s0 (waitfWord a0 a1 a2 a3 s) := by
  unfold waitfWord
  extract_lets v1 v2 v3
  have hv3 : Keeps s0 v3 := by
    unfold v3
    apply updProg_keeps
    assumption
  clear_value v3
  split
  · apply wordFailAt_keeps
    assumption
  · split
    · apply wordFailAt_keeps
      assumption
    · split
      · apply wordFailAt_keeps
        assumption
      · apply stallCore_keeps
        apply registerWait_keeps
        assumption
theorem waittWord_keeps {s0 s : State} {a0 a1 a2 a3} (h : Keeps s0 s) : Keeps s0 (waittWord a0 a1 a2 a3 s) := by
  unfold waittWord
  extract_lets v1 v2
  split
  · apply advance_keeps
    apply noteRelease_keeps
    assumption
  · apply parkSeat_keeps
    assumption
theorem barrierWord_keeps {s0 s : State} {a0 a1 a2 a3} (h : Keeps s0 s) : Keeps s0 (barrierWord a0 a1 a2 a3 s) := by
  unfold barrierWord
  extract_lets v1 v2 v3
  split
  · apply wordFail_keeps
    assumption
  · split
    · apply advance_keeps
      assumption
    · apply parkSeat_keeps
      apply updProg_keeps
      assumption
theorem sendSignal_keeps {s0 s : State} {a0 a1} (h : Keeps s0 s) : Keeps s0 (sendSignal a0 a1 s) := by
  unfold sendSignal
  extract_lets v1
  have hv1 : Keeps s0 v1 := by
    unfold v1
    apply updStb_keeps
    assumption
  clear_value v1
  split
  · assumption
  · apply hangEv_keeps
    apply wakeEv_keeps
    assumption
theorem localSignal_keeps {s0 s : State} {a0 a1 a2 a3 a4} (h : Keeps s0 s) : Keeps s0 (localSignal a0 a1 a2 a3 a4 s) := by
  unfold localSignal
  apply advance_keeps
  apply issueAt_keeps
  apply moreReqs_keeps
  assumption
theorem signalfWord_keeps {s0 s : State} {a0 a1 a2 a3} (h : Keeps s0 s) : Keeps s0 (signalfWord a0 a1 a2 a3 s) := by
  unfold signalfWord
  extract_lets v1 v2
  split
  · apply wordFailAt_keeps
    assumption
  · split
    · apply wordFailAt_keeps
      assumption
    · apply localSignal_keeps
      assumption
theorem signalxWord_keeps {s0 s : State} {a0 a1 a2 a3} (h : Keeps s0 s) : Keeps s0 (signalxWord a0 a1 a2 a3 s) := by
  unfold signalxWord
  extract_lets v1 v2 v3 v4
  split
  · apply wordFailAt_keeps
    assumption
  · split
    · apply wordFailAt_keeps
      assumption
    · extract_lets v5 v6
      have hv6 : Keeps s0 v6 := by
        unfold v6
        apply updStb_keeps
        assumption
      clear_value v6
      split
      · apply localSignal_keeps
        assumption
      · split
        · apply stallCore_keeps
          assumption
        · apply advance_keeps
          apply sendSignal_keeps
          apply moreReqs_keeps
          assumption
theorem launchOrHold_keeps {s0 s : State} {a0 a1 a2 a3 a4} (h : Keeps s0 s) : Keeps s0 (launchOrHold a0 a1 a2 a3 a4 s) := by
  unfold launchOrHold
  extract_lets v1
  split
  · apply stallCore_keeps
    assumption
  · apply advance_keeps
    apply enterTree_keeps
    apply addGroup_keeps
    assumption
theorem launchWord_keeps {s0 s : State} {a0 a1 a2 a3} (h : Keeps s0 s) : Keeps s0 (launchWord a0 a1 a2 a3 s) := by
  unfold launchWord
  extract_lets v1 v2 v3 v4 v5
  split
  · apply wordFailAt_keeps
    assumption
  · extract_lets v6
    split
    · apply wordFailAt_keeps
      assumption
    · apply launchOrHold_keeps
      assumption
theorem crewlaunchWord_keeps {s0 s : State} {a0 a1 a2 a3} (h : Keeps s0 s) : Keeps s0 (crewlaunchWord a0 a1 a2 a3 s) := by
  unfold crewlaunchWord
  extract_lets v1 v2 v3 v4 v5 v6
  split
  · apply wordFailAt_keeps
    assumption
  · extract_lets v7 v8
    split
    · apply wordFailAt_keeps
      assumption
    · apply launchOrHold_keeps
      assumption
theorem treeAcceptOp_keeps {s0 s : State} {a0} (h : Keeps s0 s) : Keeps s0 (treeAcceptOp a0 s) := by
  unfold treeAcceptOp
  extract_lets v1 v2
  have hv2 : Keeps s0 v2 := by
    unfold v2
    apply runCore_keeps
    assumption
  clear_value v2
  split
  · assumption
  · split
    · assumption
    · split
      · assumption
      · split
        · apply launchWord_keeps
          assumption
        · split
          · apply crewlaunchWord_keeps
            assumption
          · assumption
theorem execTreeAccept_keeps {s0 s : State} {a0} (h : Keeps s0 s) : KeepsOut s0 (execTreeAccept a0 s) := by
  unfold execTreeAccept
  apply keepsOut_next
  apply treeAcceptOp_keeps
  assumption
theorem rackWord_keeps {s0 s : State} {a0 a1 a2 a3 a4} (h : Keeps s0 s) (hf : KeepsE s0 a3) : Keeps s0 (rackWord a0 a1 a2 a3 a4 s) := by
  unfold rackWord
  split
  · apply advance_keeps
    apply hf
  · extract_lets v1
    apply ownerError_keeps
    assumption
theorem refaddWord_keeps {s0 s : State} {a0 a1 a2 a3} (h : Keeps s0 s) : Keeps s0 (refaddWord a0 a1 a2 a3 s) := by
  unfold refaddWord
  extract_lets v1 v2
  have hv2 : Keeps s0 v2 := by
    unfold v2
    apply unreplayable_keeps
    assumption
  clear_value v2
  apply rackWord_keeps
  · assumption
  · apply refAddOp_keeps
    assumption
theorem deferDrop_keeps {s0 s : State} {a0 a1 a2 a3} (h : Keeps s0 s) : Keeps s0 (deferDrop a0 a1 a2 a3 s) := by
  unfold deferDrop
  extract_lets v1
  split
  · apply wordFail_keeps
    assumption
  · apply advance_keeps
    apply updWork_keeps
    assumption
theorem refsubWord_keeps {s0 s : State} {a0 a1 a2 a3} (h : Keeps s0 s) : Keeps s0 (refsubWord a0 a1 a2 a3 s) := by
  unfold refsubWord
  extract_lets v1 v2
  have hv2 : Keeps s0 v2 := by
    unfold v2
    apply unreplayable_keeps
    assumption
  clear_value v2
  split
  · apply rackWord_keeps
    · assumption
    · apply refSubOp_keeps
      assumption
  · apply deferDrop_keeps
    assumption
theorem freeWord_keeps {s0 s : State} {a0 a1 a2 a3} (h : Keeps s0 s) : Keeps s0 (freeWord a0 a1 a2 a3 s) := by
  unfold freeWord
  extract_lets v1 v2
  have hv2 : Keeps s0 v2 := by
    unfold v2
    apply unreplayable_keeps
    assumption
  clear_value v2
  split
  · apply rackWord_keeps
    · assumption
    · apply freeOp_keeps
      assumption
  · apply deferDrop_keeps
    assumption
theorem enqueueWord_keeps {s0 s : State} {a0 a1 a2 a3} (h : Keeps s0 s) : Keeps s0 (enqueueWord a0 a1 a2 a3 s) := by
  unfold enqueueWord
  extract_lets v1 v2
  split
  · apply wordFailAt_keeps
    assumption
  · split
    · apply wordFailAt_keeps
      assumption
    · split
      · apply wordFailAt_keeps
        assumption
      · apply stallCore_keeps
        apply issueNm_keeps
        apply moreReqs_keeps
        assumption
theorem retiredEnqueue_keeps {s0 s : State} {a0} (h : Keeps s0 s) : Keeps s0 (retiredEnqueue a0 s) := by
  unfold retiredEnqueue
  apply updWork_keeps
  assumption
theorem enqImageDone_keeps {s0 s : State} {a0 a1 a2 a3} (h : Keeps s0 s) : Keeps s0 (enqImageDone a0 a1 a2 a3 s) := by
  unfold enqImageDone
  extract_lets v1 v2
  have hv1 : Keeps s0 v1 := by
    unfold v1
    apply lessReqs_keeps
    assumption
  clear_value v1
  have hv2 : Keeps s0 v2 := by
    unfold v2
    apply runCore_keeps
    assumption
  clear_value v2
  split
  · apply settleOwner_keeps
    assumption
  · extract_lets v3 v4 v5 v6 v7 v8
    have hv7 : Keeps s0 v7 := by
      unfold v7
      apply updRing_keeps
      apply unreplayable_keeps
      assumption
    clear_value v7
    split
    · apply wordFailAt_keeps
      assumption
    · split
      · apply wordFailAt_keeps
        assumption
      · split
        · split
          · apply advance_keeps
            apply updProg_keeps
            apply retiredEnqueue_keeps
            assumption
          · apply wordFailAt_keeps
            assumption
        · apply stallCore_keeps
          apply issueNm_keeps
          apply moreReqs_keeps
          assumption
theorem enqWriteDone_keeps {s0 s : State} {a0 a1 a2 a3 a4} (h : Keeps s0 s) : Keeps s0 (enqWriteDone a0 a1 a2 a3 a4 s) := by
  unfold enqWriteDone
  extract_lets v1 v2 v3 v4
  have hv1 : Keeps s0 v1 := by
    unfold v1
    apply lessReqs_keeps
    assumption
  clear_value v1
  have hv2 : Keeps s0 v2 := by
    unfold v2
    split
    · assumption
    · apply updRing_keeps
      assumption
  clear_value v2
  have hv3 : Keeps s0 v3 := by
    unfold v3
    apply runCore_keeps
    assumption
  clear_value v3
  have hv4 : Keeps s0 v4 := by
    unfold v4
    split
    · split
      · apply advance_keeps
        apply updProg_keeps
        apply retiredEnqueue_keeps
        assumption
      · apply wordFail_keeps
        assumption
    · assumption
  clear_value v4
  apply settleOwner_keeps
  apply lookNow_keeps
  assumption
theorem markWord_keeps {s0 s : State} {a0 a1 a2 a3} (h : Keeps s0 s) : Keeps s0 (markWord a0 a1 a2 a3 s) := by
  unfold markWord
  extract_lets v1 v2 v3
  have hv2 : Keeps s0 v2 := by
    unfold v2
    apply updProg_keeps
    assumption
  clear_value v2
  have hv3 : Keeps s0 v3 := by
    unfold v3
    split
    · assumption
    · apply wakeEv_keeps
      assumption
  clear_value v3
  apply advance_keeps
  assumption
theorem execWNop_keeps {s0 s : State} {a0} (h : Keeps s0 s) : KeepsOut s0 (execWNop a0 s) := by
  unfold execWNop
  apply keepsOut_next
  apply runWord_keeps
  · assumption
  · intro i1 i2 i3 i4 i5 i6
    apply nopWord_keeps
    assumption
theorem execWEnd_keeps {s0 s : State} {a0} (h : Keeps s0 s) : KeepsOut s0 (execWEnd a0 s) := by
  unfold execWEnd
  apply keepsOut_next
  apply runWord_keeps
  · assumption
  · intro i1 i2 i3 i4 i5 i6
    apply endWord_keeps
    assumption
theorem execWJump_keeps {s0 s : State} {a0} (h : Keeps s0 s) : KeepsOut s0 (execWJump a0 s) := by
  unfold execWJump
  apply keepsOut_next
  apply runWord_keeps
  · assumption
  · intro i1 i2 i3 i4 i5 i6
    apply jumpWord_keeps
    assumption
theorem execWBranch_keeps {s0 s : State} {a0} (h : Keeps s0 s) : KeepsOut s0 (execWBranch a0 s) := by
  unfold execWBranch
  apply keepsOut_next
  apply runWord_keeps
  · assumption
  · intro i1 i2 i3 i4 i5 i6
    apply branchWord_keeps
    assumption
theorem execWLoop_keeps {s0 s : State} {a0} (h : Keeps s0 s) : KeepsOut s0 (execWLoop a0 s) := by
  unfold execWLoop
  apply keepsOut_next
  apply runWord_keeps
  · assumption
  · intro i1 i2 i3 i4 i5 i6
    apply loopWord_keeps
    assumption
theorem execWCallc_keeps {s0 s : State} {a0} (h : Keeps s0 s) : KeepsOut s0 (execWCallc a0 s) := by
  unfold execWCallc
  apply keepsOut_next
  apply runWord_keeps
  · assumption
  · intro i1 i2 i3 i4 i5 i6
    apply callcWord_keeps
    assumption
theorem execWRetc_keeps {s0 s : State} {a0} (h : Keeps s0 s) : KeepsOut s0 (execWRetc a0 s) := by
  unfold execWRetc
  apply keepsOut_next
  apply runWord_keeps
  · assumption
  · intro i1 i2 i3 i4 i5 i6
    apply retcWord_keeps
    assumption
theorem execWSetc_keeps {s0 s : State} {a0} (h : Keeps s0 s) : KeepsOut s0 (execWSetc a0 s) := by
  unfold execWSetc
  apply keepsOut_next
  apply runWord_keeps
  · assumption
  · intro i1 i2 i3 i4 i5 i6
    apply setcWord_keeps
    assumption
theorem execWAddc_keeps {s0 s : State} {a0} (h : Keeps s0 s) : KeepsOut s0 (execWAddc a0 s) := by
  unfold execWAddc
  apply keepsOut_next
  apply runWord_keeps
  · assumption
  · intro i1 i2 i3 i4 i5 i6
    apply addcWord_keeps
    assumption
theorem execWLoadc_keeps {s0 s : State} {a0} (h : Keeps s0 s) : KeepsOut s0 (execWLoadc a0 s) := by
  unfold execWLoadc
  apply keepsOut_next
  apply runWord_keeps
  · assumption
  · intro i1 i2 i3 i4 i5 i6
    apply loadcWord_keeps
    assumption
theorem execWStorec_keeps {s0 s : State} {a0} (h : Keeps s0 s) : KeepsOut s0 (execWStorec a0 s) := by
  unfold execWStorec
  apply keepsOut_next
  apply runWord_keeps
  · assumption
  · intro i1 i2 i3 i4 i5 i6
    apply storecWord_keeps
    assumption
theorem execWAtomc_keeps {s0 s : State} {a0} (h : Keeps s0 s) : KeepsOut s0 (execWAtomc a0 s) := by
  unfold execWAtomc
  apply keepsOut_next
  apply runWord_keeps
  · assumption
  · intro i1 i2 i3 i4 i5 i6
    apply atomcWord_keeps
    assumption
theorem execWWaitf_keeps {s0 s : State} {a0} (h : Keeps s0 s) : KeepsOut s0 (execWWaitf a0 s) := by
  unfold execWWaitf
  apply keepsOut_next
  apply runWord_keeps
  · assumption
  · intro i1 i2 i3 i4 i5 i6
    apply waitfWord_keeps
    assumption
theorem execWSignalf_keeps {s0 s : State} {a0} (h : Keeps s0 s) : KeepsOut s0 (execWSignalf a0 s) := by
  unfold execWSignalf
  apply keepsOut_next
  apply runWord_keeps
  · assumption
  · intro i1 i2 i3 i4 i5 i6
    apply signalfWord_keeps
    assumption
theorem execWSignalx_keeps {s0 s : State} {a0} (h : Keeps s0 s) : KeepsOut s0 (execWSignalx a0 s) := by
  unfold execWSignalx
  apply keepsOut_next
  apply runWord_keeps
  · assumption
  · intro i1 i2 i3 i4 i5 i6
    apply signalxWord_keeps
    assumption
theorem execWWaitt_keeps {s0 s : State} {a0} (h : Keeps s0 s) : KeepsOut s0 (execWWaitt a0 s) := by
  unfold execWWaitt
  apply keepsOut_next
  apply runWord_keeps
  · assumption
  · intro i1 i2 i3 i4 i5 i6
    apply waittWord_keeps
    assumption
theorem execWLaunch_keeps {s0 s : State} {a0} (h : Keeps s0 s) : KeepsOut s0 (execWLaunch a0 s) := by
  unfold execWLaunch
  apply keepsOut_next
  apply runWord_keeps
  · assumption
  · intro i1 i2 i3 i4 i5 i6
    apply launchWord_keeps
    assumption
theorem execWCrewlaunch_keeps {s0 s : State} {a0} (h : Keeps s0 s) : KeepsOut s0 (execWCrewlaunch a0 s) := by
  unfold execWCrewlaunch
  apply keepsOut_next
  apply runWord_keeps
  · assumption
  · intro i1 i2 i3 i4 i5 i6
    apply crewlaunchWord_keeps
    assumption
theorem execWBarrier_keeps {s0 s : State} {a0} (h : Keeps s0 s) : KeepsOut s0 (execWBarrier a0 s) := by
  unfold execWBarrier
  apply keepsOut_next
  apply runWord_keeps
  · assumption
  · intro i1 i2 i3 i4 i5 i6
    apply barrierWord_keeps
    assumption
theorem execWFree_keeps {s0 s : State} {a0} (h : Keeps s0 s) : KeepsOut s0 (execWFree a0 s) := by
  unfold execWFree
  apply keepsOut_next
  apply runWord_keeps
  · assumption
  · intro i1 i2 i3 i4 i5 i6
    apply freeWord_keeps
    assumption
theorem execWRefadd_keeps {s0 s : State} {a0} (h : Keeps s0 s) : KeepsOut s0 (execWRefadd a0 s) := by
  unfold execWRefadd
  apply keepsOut_next
  apply runWord_keeps
  · assumption
  · intro i1 i2 i3 i4 i5 i6
    apply refaddWord_keeps
    assumption
theorem execWRefsub_keeps {s0 s : State} {a0} (h : Keeps s0 s) : KeepsOut s0 (execWRefsub a0 s) := by
  unfold execWRefsub
  apply keepsOut_next
  apply runWord_keeps
  · assumption
  · intro i1 i2 i3 i4 i5 i6
    apply refsubWord_keeps
    assumption
theorem execWEnqueue_keeps {s0 s : State} {a0} (h : Keeps s0 s) : KeepsOut s0 (execWEnqueue a0 s) := by
  unfold execWEnqueue
  apply keepsOut_next
  apply runWord_keeps
  · assumption
  · intro i1 i2 i3 i4 i5 i6
    apply enqueueWord_keeps
    assumption
theorem execWMark_keeps {s0 s : State} {a0} (h : Keeps s0 s) : KeepsOut s0 (execWMark a0 s) := by
  unfold execWMark
  apply keepsOut_next
  apply runWord_keeps
  · assumption
  · intro i1 i2 i3 i4 i5 i6
    apply markWord_keeps
    assumption
theorem execWHeatend_keeps {s0 s : State} {a0} (h : Keeps s0 s) : KeepsOut s0 (execWHeatend a0 s) := by
  unfold execWHeatend
  apply keepsOut_next
  apply runWord_keeps
  · assumption
  · intro i1 i2 i3 i4 i5 i6
    apply heatendWord_keeps
    assumption
theorem waittReleaseOp_keeps {s0 s : State} {a0} (h : Keeps s0 s) : Keeps s0 (waittReleaseOp a0 s) := by
  unfold waittReleaseOp
  split
  · split
    · split
      · apply releaseProg_keeps
        apply noteRelease_keeps
        assumption
      · assumption
    · assumption
  · assumption
theorem execWaittRelease_keeps {s0 s : State} {a0} (h : Keeps s0 s) : KeepsOut s0 (execWaittRelease a0 s) := by
  unfold execWaittRelease
  apply keepsOut_next
  apply waittReleaseOp_keeps
  assumption
theorem failWait_keeps {s0 s : State} {a0 a1} (h : Keeps s0 s) : Keeps s0 (failWait a0 a1 s) := by
  unfold failWait
  extract_lets v1
  split
  · apply wordFailAt_keeps
    assumption
  · apply wordFail_keeps
    assumption
theorem waitTimeoutOp_keeps {s0 s : State} {a0} (h : Keeps s0 s) : Keeps s0 (waitTimeoutOp a0 s) := by
  unfold waitTimeoutOp
  split
  · assumption
  · split
    · assumption
    · split
      · assumption
      · split
        · split
          · apply updWaiter_keeps
            assumption
          · apply failWait_keeps
            assumption
        · apply failWait_keeps
          assumption
        · assumption
theorem execWaitTimeout_keeps {s0 s : State} {a0} (h : Keeps s0 s) : KeepsOut s0 (execWaitTimeout a0 s) := by
  unfold execWaitTimeout
  apply keepsOut_next
  apply waitTimeoutOp_keeps
  assumption
theorem allocWord_keeps {s0 s : State} {a0 a1 a2 a3} (h : Keeps s0 s) : Keeps s0 (allocWord a0 a1 a2 a3 s) := by
  unfold allocWord
  extract_lets v1
  split
  · apply wordFail_keeps
    assumption
  · split
    · extract_lets v2
      apply advance_keeps
      apply updProg_keeps
      apply unreplayable_keeps
      refine KeepsEP.of (allocObject_keeps ?_) (by assumption)
      assumption
    · split
      · apply advance_keeps
        apply updProg_keeps
        apply unreplayable_keeps
        assumption
      · apply wordFail_keeps
        assumption
theorem execWAlloc_keeps {s0 s : State} {a0} (h : Keeps s0 s) : KeepsOut s0 (execWAlloc a0 s) := by
  unfold execWAlloc
  apply keepsOut_next
  apply runWord_keeps
  · assumption
  · intro i1 i2 i3 i4 i5 i6
    apply allocWord_keeps
    assumption
theorem poolRefuse_keeps {s0 s : State} (h : Keeps s0 s) : Keeps s0 (poolRefuse s) := by
  unfold poolRefuse
  apply updMem_keeps
  assumption
theorem poolEnableOp_keeps {s0 s : State} {a0} (h : Keeps s0 s) : Keeps s0 (poolEnableOp a0 s) := by
  unfold poolEnableOp
  extract_lets v1 v2 v3
  have hv2 : Keeps s0 v2 := by
    unfold v2
    apply updMem_keeps
    assumption
  clear_value v2
  split
  · assumption
  · split
    · apply poolRefuse_keeps
      assumption
    · split
      · apply poolRefuse_keeps
        assumption
      · apply pagesFreed_keeps
        apply updMem_keeps
        apply State.nextFree_keeps
        assumption
theorem execPoolEnable_keeps {s0 s : State} {a0} (h : Keeps s0 s) : KeepsOut s0 (execPoolEnable a0 s) := by
  unfold execPoolEnable
  apply powered_keeps
  · assumption
  · apply poolEnableOp_keeps
    assumption
theorem poolDisableOp_keeps {s0 s : State} {a0} (h : Keeps s0 s) : Keeps s0 (poolDisableOp a0 s) := by
  unfold poolDisableOp
  extract_lets v1 v2
  split
  · assumption
  · split
    · apply updMem_keeps
      assumption
    · split
      · apply poolRefuse_keeps
        assumption
      · apply updMem_keeps
        assumption
theorem execPoolDisable_keeps {s0 s : State} {a0} (h : Keeps s0 s) : KeepsOut s0 (execPoolDisable a0 s) := by
  unfold execPoolDisable
  apply powered_keeps
  · assumption
  · apply poolDisableOp_keeps
    assumption
theorem kvStop_keeps {s0 : State} {r} {a1 a2 a3 a4 a5 a6 a7} (h : KeepsKv s0 r) : KeepsKv s0 (kvStop r a1 a2 a3 a4 a5 a6 a7) := by
  unfold kvStop
  extract_lets v1 v2 v3
  apply keepsKv_mk
  refine KeepsKv.st ?_
  assumption
theorem growRecord_keeps {s0 : State} {r} {a0 a1 a2 a3 a4 a6} (h : KeepsKv s0 r) : KeepsKv s0 (growRecord a0 a1 a2 a3 a4 r a6) := by
  have hs : ∀ {b i o f}, KeepsKv s0 (kvStop r a2 i a3 a4 b o f) := h
  unfold growRecord
  split
  · exact h
  · extract_lets w0 w1 hd src s found
    have hf : ∀ (x : Nat) (t : State), found = Except.ok (x, t) → Keeps s0 t := by
      intro x t e
      unfold found at e
      split at e
      · split at e
        · next hn => cases e; exact KeepsOP.of (newTab_keeps h) hn
        · cases e
      · split at e
        · cases e
        · cases e; exact h
    clear_value found
    split
    · exact h
    · split
      · exact h
      · split <;> exact h
      · next x t =>
        split
        · exact h
        · next e => exact KeepsE.of (growTab_keeps (hf _ _ rfl)) e
theorem trimRecord_keeps {s0 : State} {r} {a0 a1 a2 a3 a4 a6} (h : KeepsKv s0 r) : KeepsKv s0 (trimRecord a0 a1 a2 a3 a4 r a6) := by
  unfold trimRecord
  extract_lets v1 v2 v3 v4 v5 v6
  have hv5 : Keeps s0 v5 := by
    unfold v5
    apply trimTab_keeps
    refine KeepsKv.st ?_
    assumption
  clear_value v5
  split
  · assumption
  · split
    · apply keepsKv_mk
      refine KeepsKv.st ?_
      assumption
    · split
      · extract_lets v7
        apply keepsKv_mk
        refine KeepsKv.st ?_
        unfold v7
        apply kvStop_keeps
        assumption
      · apply keepsKv_mk
        split
        · apply dropTab_keeps
          assumption
        · assumption
theorem kvFinish_keeps {s0 s : State} {a0} (h : Keeps s0 s) : Keeps s0 (kvFinish a0 s) := by
  unfold kvFinish
  extract_lets v1 v2
  have hv1 : Keeps s0 v1 := by
    unfold v1
    apply lessReqs_keeps
    apply updMem_keeps
    assumption
  clear_value v1
  have hv2 : Keeps s0 v2 := by
    unfold v2
    apply runCore_keeps
    assumption
  clear_value v2
  split
  · apply settleOwner_keeps
    assumption
  · split
    · apply wordFail_keeps
      assumption
    · apply advance_keeps
      apply updProg_keeps
      assumption
theorem kvResults_keeps {s0 s : State} {a0} (h : Keeps s0 s) : Keeps s0 (kvResults a0 s) := by
  unfold kvResults
  split
  · apply kvFinish_keeps
    assumption
  · apply startPlan_keeps
    assumption
theorem kvBegin_keeps {s0 : State} {r} {a0 a1 a2} (h : KeepsKv s0 r) : Keeps s0 (kvBegin a0 a1 a2 r) := by
  unfold kvBegin
  extract_lets v1 v2 v3 v4 v5
  have hv1 : Keeps s0 v1 := by
    unfold v1
    refine KeepsKv.st ?_
    assumption
  clear_value v1
  have hv5 : Keeps s0 v5 := by
    unfold v5
    apply stallCore_keeps
    apply moreReqs_keeps
    apply updMem_keeps
    assumption
  clear_value v5
  split
  · apply kvResults_keeps
    assumption
  · apply startPlan_keeps
    assumption
theorem kvWord_keeps {s0 s : State} {a0 a1 a2 a3 a4 a5 a6} (h : Keeps s0 s) (hf : ∀ x y z u v r w, KeepsKv s0 r → KeepsKv s0 (a1 x y z u v r w)) : Keeps s0 (kvWord a0 a1 a2 a3 a4 a5 a6 s) := by
  unfold kvWord
  extract_lets v1 v2 v3 v4 v5 v6
  split
  · apply wordFail_keeps
    assumption
  · split
    · apply wordFailAt_keeps
      assumption
    · split
      · apply wordFailAt_keeps
        assumption
      · split
        · apply targetLost_keeps
          assumption
        · split
          · apply stallCore_keeps
            assumption
          · apply kvBegin_keeps
            unfold v6
            split
            · apply keepsKv_mk
              apply unreplayable_keeps
              refine KeepsKv.st ?_
              unfold v5
              apply keepsKv_foldl
              · intro i1 i2 i3
                apply hf
                assumption
              · unfold v4
                apply keepsKv_mk
                apply ownRead_keeps
                assumption
            · unfold v5
              apply keepsKv_foldl
              · intro i4 i5 i6
                apply hf
                assumption
              · unfold v4
                apply keepsKv_mk
                apply ownRead_keeps
                assumption
        · apply wordFailAt_keeps
          split
          · apply poisonMark_keeps
            assumption
          · assumption
theorem execWKvgrow_keeps {s0 s : State} {a0 a1} (h : Keeps s0 s) : KeepsOut s0 (execWKvgrow a0 a1 s) := by
  unfold execWKvgrow
  apply keepsOut_next
  apply runWord_keeps
  · assumption
  · intro i1 i2 i3 i4 i5 i6
    apply kvWord_keeps
    · assumption
    · intro i7 i8 i9 i10 i11 i12 i13 i14
      apply growRecord_keeps
      assumption
theorem execWKvtrim_keeps {s0 s : State} {a0 a1} (h : Keeps s0 s) : KeepsOut s0 (execWKvtrim a0 a1 s) := by
  unfold execWKvtrim
  apply keepsOut_next
  apply runWord_keeps
  · assumption
  · intro i1 i2 i3 i4 i5 i6
    apply kvWord_keeps
    · assumption
    · intro i7 i8 i9 i10 i11 i12 i13 i14
      apply trimRecord_keeps
      assumption
theorem blockAccess_keeps {s0 s : State} {a0} (h : Keeps s0 s) : Keeps s0 (blockAccess a0 s) := by
  unfold blockAccess
  extract_lets v1
  apply raise5_keeps
  assumption
theorem addPiece_keeps {s0 s : State} {a0 a1 a2 a3 a4 a5 a6 a7 a8 a9} (h : Keeps s0 s) : Keeps s0 (addPiece a0 a1 a2 a3 a4 a5 a6 a7 a8 a9 s) := by
  unfold addPiece
  extract_lets v1 v2 v3 v4
  have hv4 : Keeps s0 v4 := by
    unfold v4
    apply updSld_keeps
    assumption
  clear_value v4
  split
  · apply startPlan_keeps
    assumption
  · assumption
theorem copyPieceLaunchOp_keeps {s0 s : State} (h : Keeps s0 s) : Keeps s0 (copyPieceLaunchOp s) := by
  unfold copyPieceLaunchOp
  split
  · assumption
  · split
    · assumption
    · extract_lets v1 v2 v3
      have hv2 : Keeps s0 v2 := by
        unfold v2
        apply refillPart_keeps
        assumption
      clear_value v2
      have hv3 : Keeps s0 v3 := by
        unfold v3
        apply updMem_keeps
        assumption
      clear_value v3
      split
      · assumption
      · apply enterTree_keeps
        apply updSld_keeps
        assumption
theorem feedStaging_keeps {s0 s : State} (h : Keeps s0 s) : Keeps s0 (feedStaging s) := by
  unfold feedStaging
  apply each_keeps
  · assumption
  · intro i1 i2 i3
    extract_lets v1 v2 v3 v4
    have hv4 : Keeps s0 v4 := by
      unfold v4
      apply updSld_keeps
      assumption
    clear_value v4
    split
    · assumption
    · apply startPlan_keeps
      assumption
theorem addMoves_keeps {s0 s : State} {a0 a1 a2 a3 a4 a5} (h : Keeps s0 s) : Keeps s0 (addMoves a0 a1 a2 a3 a4 a5 s) := by
  unfold addMoves
  extract_lets v1 v2 v3
  have hv3 : Keeps s0 v3 := by
    unfold v3
    apply updMem_keeps
    apply State.nextFree_keeps
    assumption
  clear_value v3
  apply feedStaging_keeps
  apply each_keeps
  · assumption
  · intro i1 i2 i3
    apply addPiece_keeps
    assumption
theorem movePages_keeps {s0 s : State} {a0 a1 a2} (h : Keeps s0 s) : Keeps s0 (movePages a0 a1 a2 s) := by
  unfold movePages
  extract_lets v1 v2
  apply each_keeps
  · assumption
  · intro i1 i2 i3
    split
    · assumption
    · apply addMoves_keeps
      assumption
theorem setSpilled_keeps {s0 s : State} {a0 a1} (h : Keeps s0 s) : Keeps s0 (setSpilled a0 a1 s) := by
  unfold setSpilled
  extract_lets v1
  have hv1 : Keeps s0 v1 := by
    unfold v1
    apply updObj_keeps
    apply updTab_keeps
    assumption
  clear_value v1
  apply startPlan_keeps
  assumption
theorem startSpill_keeps {s0 s : State} {a0 a1} (h : Keeps s0 s) : Keeps s0 (startSpill a0 a1 s) := by
  unfold startSpill
  extract_lets v1 v2 v3 v4
  split
  · apply logRec_keeps
    assumption
  · extract_lets v5 v6 v7
    have hv6 : Keeps s0 v6 := by
      unfold v6
      apply updMem_keeps
      apply State.nextFree_keeps
      assumption
    clear_value v6
    have hv7 : Keeps s0 v7 := by
      unfold v7
      apply updSeq_keeps
      apply setSpilled_keeps
      assumption
    clear_value v7
    apply movePages_keeps
    assumption
theorem fillHomes_keeps {s0 s : State} {a0 a1 a2 a3} (h : Keeps s0 s) : Keeps s0 (fillHomes a0 a1 a2 a3 s) := by
  induction a3 generalizing s a0 a1 a2
  · unfold fillHomes
    assumption
  · rename_i n ih
    unfold fillHomes
    split
    · assumption
    · apply ih
      apply updMem_keeps
      apply State.nextFree_keeps
      assumption
theorem startFill_keeps {s0 s : State} {a0 a1 a2} (h : Keeps s0 s) : Keeps s0 (startFill a0 a1 a2 s) := by
  unfold startFill
  extract_lets v1 v2 v3 v4 v5
  have hv4 : Keeps s0 v4 := by
    unfold v4
    apply updMem_keeps
    assumption
  clear_value v4
  have hv5 : Keeps s0 v5 := by
    unfold v5
    apply fillHomes_keeps
    assumption
  clear_value v5
  split
  · assumption
  · apply movePages_keeps
    assumption
theorem rewritePage_keeps {s0 s : State} {a0 a1} (h : Keeps s0 s) : Keeps s0 (rewritePage a0 a1 s) := by
  unfold rewritePage
  extract_lets v1
  have hv1 : Keeps s0 v1 := by
    unfold v1
    apply updTab_keeps
    assumption
  clear_value v1
  apply startPlan_keeps
  assumption
theorem endMove_keeps {s0 s : State} {a0} (h : Keeps s0 s) : Keeps s0 (endMove a0 s) := by
  unfold endMove
  extract_lets v1 v2 v3 v4
  have hv1 : Keeps s0 v1 := by
    unfold v1
    apply updMem_keeps
    assumption
  clear_value v1
  split
  · assumption
  · split
    · apply retireDue_keeps
      apply writeEntry_keeps
      apply pagesFreed_keeps
      assumption
    · apply retireDue_keeps
      unfold v3
      apply writeEntry_keeps
      apply updSeq_keeps
      apply setSpilled_keeps
      unfold v4
      extract_lets v5
      have hv5 : Keeps s0 v5 := by
        unfold v5
        apply updTab_keeps
        assumption
      clear_value v5
      apply startPlan_keeps
      assumption
    · apply retireDue_keeps
      unfold v3
      apply writeEntry_keeps
      apply updSeq_keeps
      apply setSpilled_keeps
      assumption
    · apply retireSeq_keeps
      assumption
    · assumption
theorem pauseLoops_keeps {s0 s : State} {a0} (h : Keeps s0 s) : Keeps s0 (pauseLoops a0 s) := by
  unfold pauseLoops
  extract_lets v1 v2
  have hv2 : Keeps s0 v2 := by
    unfold v2
    apply each_keeps
    · assumption
    · intro i1 i2 i3
      apply updLoop_keeps
      assumption
  clear_value v2
  apply each_keeps
  · assumption
  · intro i4 i5 i6
    split
    · split
      · apply endModel_keeps
        assumption
      · assumption
    · assumption
theorem refetchFailed_keeps {s0 s : State} {a0} (h : Keeps s0 s) : Keeps s0 (refetchFailed a0 s) := by
  unfold refetchFailed
  extract_lets v1 v2 v3
  have hv3 : Keeps s0 v3 := by
    unfold v3
    apply logRec_keeps
    assumption
  clear_value v3
  apply each_keeps
  · assumption
  · intro i1 i2 i3
    split
    · assumption
    · apply failLoop_keeps
      assumption
theorem actPoison_keeps {s0 s : State} {a1} (h : Keeps s0 s) : Keeps s0 (actPoison s a1) := by
  unfold actPoison
  extract_lets v1
  split
  · apply each_keeps
    · assumption
    · intro i1 i2 i3
      apply each_keeps
      · assumption
      · intro i4 i5 i6
        split
        · assumption
        · split
          · apply updSeq_keeps
            assumption
          · apply retireSeq_keeps
            assumption
  · split
    · assumption
    · split
      · apply refetchFailed_keeps
        assumption
      · split
        · apply updMem_keeps
          assumption
        · apply pauseLoops_keeps
          apply updMem_keeps
          assumption
theorem settlePoison_keeps {s0 s : State} (h : Keeps s0 s) : Keeps s0 (settlePoison s) := by
  unfold settlePoison
  apply each_keeps
  · apply updMem_keeps
    assumption
  · intro i1 i2 i3
    apply actPoison_keeps
    assumption
theorem beginRefetch_keeps {s0 s : State} {a0 a1} (h : Keeps s0 s) : Keeps s0 (beginRefetch a0 a1 s) := by
  unfold beginRefetch
  extract_lets v1 v2 v3
  have hv3 : Keeps s0 v3 := by
    unfold v3
    apply updMem_keeps
    assumption
  clear_value v3
  apply addMoves_keeps
  assumption
theorem resumeLoops_keeps {s0 s : State} {a0} (h : Keeps s0 s) : Keeps s0 (resumeLoops a0 s) := by
  unfold resumeLoops
  apply each_keeps
  · assumption
  · intro i1 i2 i3
    extract_lets v1
    split
    · assumption
    · apply checkLoop_keeps
      apply updLoop_keeps
      assumption
theorem endRefetch_keeps {s0 s : State} {a0} (h : Keeps s0 s) : Keeps s0 (endRefetch a0 s) := by
  unfold endRefetch
  extract_lets v1
  have hv1 : Keeps s0 v1 := by
    unfold v1
    apply updMem_keeps
    assumption
  clear_value v1
  split
  · apply resumeLoops_keeps
    apply updObj_keeps
    assumption
  · split
    · apply refetchFailed_keeps
      assumption
    · apply beginRefetch_keeps
      assumption
theorem movePiece_keeps {s0 s : State} {a0 a1 a2} (h : Keeps s0 s) : Keeps s0 (movePiece a0 a1 a2 s) := by
  unfold movePiece
  extract_lets v1 v2
  have hv1 : Keeps s0 v1 := by
    unfold v1
    apply updMem_keeps
    assumption
  clear_value v1
  split
  · assumption
  · extract_lets v3
    have hv3 : Keeps s0 v3 := by
      unfold v3
      split
      · assumption
      · apply rewritePage_keeps
        assumption
    clear_value v3
    split
    · assumption
    · split
      · apply endRefetch_keeps
        assumption
      · apply endMove_keeps
        assumption
theorem mapRefuse_keeps {s0 s : State} {a0} (h : Keeps s0 s) : Keeps s0 (mapRefuse a0 s) := by
  unfold mapRefuse
  apply updMap_keeps
  assumption
theorem mapRegisterOp_keeps {s0 s : State} {a0} (h : Keeps s0 s) : Keeps s0 (mapRegisterOp a0 s) := by
  unfold mapRegisterOp
  extract_lets v1 v2 v3 v4 v5 v6 v7
  have hv4 : Keeps s0 v4 := by
    unfold v4
    apply ownRead_keeps
    assumption
  clear_value v4
  have hv7 : Keeps s0 v7 := by
    unfold v7
    apply updSld_keeps
    assumption
  clear_value v7
  split
  · apply mapRefuse_keeps
    assumption
  · split
    · apply targetLost_keeps
      assumption
    · split
      · apply mapRefuse_keeps
        assumption
      · split
        · apply mapRefuse_keeps
          assumption
        · apply startHandles_keeps
          apply updMap_keeps
          assumption
    · apply mapRefuse_keeps
      split
      · apply poisonMark_keeps
        assumption
      · assumption
theorem execMapRegister_keeps {s0 s : State} {a0} (h : Keeps s0 s) : KeepsOut s0 (execMapRegister a0 s) := by
  unfold execMapRegister
  split
  · trivial
  · apply powered_keeps
    · assumption
    · apply mapRegisterOp_keeps
      assumption
theorem unregisterOp_keeps {s0 s : State} (h : Keeps s0 s) : Keeps s0 (unregisterOp s) := by
  unfold unregisterOp
  extract_lets v1
  split
  · apply mapRefuse_keeps
    assumption
  · apply unregisterMap_keeps
    apply updMap_keeps
    assumption
theorem execUnregister_keeps {s0 s : State} (h : Keeps s0 s) : KeepsOut s0 (execUnregister s) := by
  unfold execUnregister
  split
  · trivial
  · apply powered_keeps
    · assumption
    · apply unregisterOp_keeps
      assumption
theorem execCopyPieceLaunch_keeps {s0 s : State} (h : Keeps s0 s) : KeepsOut s0 (execCopyPieceLaunch s) := by
  unfold execCopyPieceLaunch
  apply keepsOut_next
  apply copyPieceLaunchOp_keeps
  assumption
theorem readBlocks_keeps {s0 s : State} {a0} (h : Keeps s0 s) : Keeps s0 (readBlocks a0 s) := by
  unfold readBlocks
  apply each_keeps
  · assumption
  · intro i1 i2 i3
    apply startFetch_keeps
    assumption
theorem startRestore_keeps {s0 s : State} {a0 a1 a2 a3 a4 a5} (h : Keeps s0 s) : Keeps s0 (startRestore a0 a1 a2 a3 a4 a5 s) := by
  unfold startRestore
  extract_lets v1 v2 v3
  have hv3 : Keeps s0 v3 := by
    unfold v3
    apply updSld_keeps
    assumption
  clear_value v3
  split
  · apply readBlocks_keeps
    assumption
  · apply startFetch_keeps
    assumption
theorem releaseHold_keeps {s0 s : State} {a0 a1 a2} (h : Keeps s0 s) : Keeps s0 (releaseHold a0 a1 a2 s) := by
  unfold releaseHold
  extract_lets v1 v2 v3
  have hv3 : Keeps s0 v3 := by
    unfold v3
    apply sendTree_keeps
    apply updSld_keeps
    assumption
  clear_value v3
  apply recheckCores_keeps
  assumption
theorem reportCluster_keeps {s0 s : State} {a0} (h : Keeps s0 s) : Keeps s0 (reportCluster a0 s) := by
  unfold reportCluster
  split
  · apply seatEvent_keeps
    apply subGroup_keeps
    assumption
  · assumption
theorem dropJob_keeps {s0 s : State} {a0} (h : Keeps s0 s) : Keeps s0 (dropJob a0 s) := by
  unfold dropJob
  apply updSld_keeps
  assumption
theorem clusterDone_keeps {s0 s : State} {a0 a1} (h : Keeps s0 s) : Keeps s0 (clusterDone a0 a1 s) := by
  unfold clusterDone
  extract_lets v1
  have hv1 : Keeps s0 v1 := by
    unfold v1
    apply updCl_keeps
    assumption
  clear_value v1
  split
  · assumption
  · extract_lets v2
    split
    · apply reportCluster_keeps
      assumption
    · split
      · apply reportCluster_keeps
        apply dropJob_keeps
        assumption
      · split
        · apply startPlan_keeps
          assumption
        · apply reportCluster_keeps
          apply startPlan_keeps
          assumption
theorem jobFinal_keeps {s0 s : State} {a0} (h : Keeps s0 s) : Keeps s0 (jobFinal a0 s) := by
  unfold jobFinal
  split
  · assumption
  · split
    · apply reportCluster_keeps
      apply dropJob_keeps
      assumption
    · apply dropJob_keeps
      assumption
theorem abandonCluster_keeps {s0 s : State} {a0 a1} (h : Keeps s0 s) : Keeps s0 (abandonCluster a0 a1 s) := by
  unfold abandonCluster
  extract_lets v1
  have hv1 : Keeps s0 v1 := by
    unfold v1
    split
    · assumption
    · apply releaseHold_keeps
      assumption
  clear_value v1
  apply clusterDone_keeps
  assumption
theorem abortJob_keeps {s0 s : State} {a0} (h : Keeps s0 s) : Keeps s0 (abortJob a0 s) := by
  unfold abortJob
  extract_lets v1 v2 v3
  have hv3 : Keeps s0 v3 := by
    unfold v3
    apply updSld_keeps
    apply updJob_keeps
    assumption
  clear_value v3
  split
  · assumption
  · split
    · assumption
    · apply each_keeps
      · assumption
      · intro i1 i2 i3
        apply abandonCluster_keeps
        assumption
theorem abortOwner_keeps {s0 s : State} {a0} (h : Keeps s0 s) : Keeps s0 (abortOwner a0 s) := by
  unfold abortOwner
  extract_lets v1
  apply each_keeps
  · assumption
  · intro i1 i2 i3
    apply abortJob_keeps
    assumption
theorem jobError_keeps {s0 s : State} {a0 a1 a2} (h : Keeps s0 s) : Keeps s0 (jobError a0 a1 a2 s) := by
  unfold jobError
  extract_lets v1
  split
  · assumption
  · extract_lets v2
    apply abortJob_keeps
    split
    · apply ownerError_keeps
      assumption
    · apply ownerError_keeps
      assumption
    · apply logRec_keeps
      assumption
theorem captureRow_keeps {s0 s : State} {a0 a1} (h : Keeps s0 s) : KeepsQ s0 (captureRow a0 a1 s) := by
  unfold captureRow
  extract_lets v1
  split
  · apply keepsP_mk
    · assumption
    · apply updRow_keeps
      assumption
  · apply keepsP_mk
    · assumption
    · assumption
theorem captureCluster_keeps {s0 s : State} {a0 a1} (h : Keeps s0 s) : Keeps s0 (captureCluster a0 a1 s) := by
  unfold captureCluster
  split
  extract_lets v1
  have hv1 : Keeps s0 v1 := by
    unfold v1
    apply updCl_keeps
    refine KeepsQ.of (captureRow_keeps ?_) (by assumption)
    assumption
  clear_value v1
  split
  · apply settleRow_keeps
    apply clusterDone_keeps
    apply releaseHold_keeps
    refine KeepsQ.of (captureRow_keeps ?_) (by assumption)
    assumption
  · split
    · assumption
    · split
      · assumption
      · apply settleRow_keeps
        apply startPlan_keeps
        assumption
theorem copyCluster_keeps {s0 s : State} {a0 a1 a2 a3} (h : Keeps s0 s) : Keeps s0 (copyCluster a0 a1 a2 a3 s) := by
  unfold copyCluster
  extract_lets v1 v2
  have hv1 : Keeps s0 v1 := by
    unfold v1
    apply updCl_keeps
    assumption
  clear_value v1
  apply addPiece_keeps
  assumption
theorem holdCompleteOp_keeps {s0 s : State} {a0 a1} (h : Keeps s0 s) : Keeps s0 (holdCompleteOp a0 a1 s) := by
  unfold holdCompleteOp
  extract_lets v1
  split
  · assumption
  · split
    · assumption
    · split
      · assumption
      · split
        · assumption
        · split
          · apply captureCluster_keeps
            assumption
          · split
            split
            · apply captureCluster_keeps
              apply updCl_keeps
              assumption
            · apply copyCluster_keeps
              assumption
theorem execHoldComplete_keeps {s0 s : State} {a0 a1} (h : Keeps s0 s) : KeepsOut s0 (execHoldComplete a0 a1 s) := by
  unfold execHoldComplete
  split
  · trivial
  · apply keepsOut_next
    apply holdCompleteOp_keeps
    assumption
theorem restoreBeginOp_keeps {s0 s : State} {a0} (h : Keeps s0 s) : Keeps s0 (restoreBeginOp a0 s) := by
  unfold restoreBeginOp
  split
  · assumption
  · split
    · assumption
    · split
      · assumption
      · extract_lets v1 v2 v3 v4
        have hv2 : Keeps s0 v2 := by
          unfold v2
          apply updRow_keeps
          assumption
        clear_value v2
        have hv3 : Keeps s0 v3 := by
          unfold v3
          apply becomeResident_keeps
          assumption
        clear_value v3
        have hv4 : Keeps s0 v4 := by
          unfold v4
          split
          · apply releaseHold_keeps
            assumption
          · assumption
        clear_value v4
        split
        split
        · apply settleRow_keeps
          apply clusterDone_keeps
          assumption
        · apply settleRow_keeps
          apply copyCluster_keeps
          assumption
theorem execRestoreBegin_keeps {s0 s : State} {a0} (h : Keeps s0 s) : KeepsOut s0 (execRestoreBegin a0 s) := by
  unfold execRestoreBegin
  split
  · trivial
  · apply keepsOut_next
    apply restoreBeginOp_keeps
    assumption
theorem pieceWritten_keeps {s0 s : State} {a0 a1 a2} (h : Keeps s0 s) : Keeps s0 (pieceWritten a0 a1 a2 s) := by
  unfold pieceWritten
  extract_lets v1
  have hv1 : Keeps s0 v1 := by
    unfold v1
    apply updSld_keeps
    assumption
  clear_value v1
  split
  · assumption
  · split
    · apply updSld_keeps
      split
      · apply updCl_keeps
        assumption
      · assumption
    · split
      · apply jobError_keeps
        assumption
      · apply recheckCores_keeps
        apply movePiece_keeps
        assumption
theorem saveHeadDone_keeps {s0 s : State} {a0 a1 a2} (h : Keeps s0 s) : Keeps s0 (saveHeadDone a0 a1 a2 s) := by
  unfold saveHeadDone
  split
  · assumption
  · apply jobError_keeps
    assumption
theorem saveBlockDone_keeps {s0 s : State} {a0 a1 a2 a3} (h : Keeps s0 s) : Keeps s0 (saveBlockDone a0 a1 a2 a3 s) := by
  unfold saveBlockDone
  split
  · assumption
  · split
    · assumption
    · split
      · apply jobError_keeps
        assumption
      · apply clusterDone_keeps
        apply updSld_keeps
        assumption
theorem saveFinalDone_keeps {s0 s : State} {a0 a1 a2} (h : Keeps s0 s) : Keeps s0 (saveFinalDone a0 a1 a2 s) := by
  unfold saveFinalDone
  apply jobFinal_keeps
  split
  · assumption
  · apply jobError_keeps
    assumption
theorem restoreRead_keeps {s0 s : State} {a0 a1 a2} (h : Keeps s0 s) : Keeps s0 (restoreRead a0 a1 a2 s) := by
  unfold restoreRead
  extract_lets v1 v2
  split
  · assumption
  · split
    · assumption
    · split
      · apply jobError_keeps
        assumption
      · apply updCl_keeps
        assumption
theorem restoreHeadRead_keeps {s0 s : State} {a0 a1} (h : Keeps s0 s) : Keeps s0 (restoreHeadRead a0 a1 s) := by
  unfold restoreHeadRead
  extract_lets v1
  split
  · assumption
  · extract_lets v2
    split
    · assumption
    · split
      · apply jobError_keeps
        assumption
      · split
        · apply jobError_keeps
          assumption
        · apply readBlocks_keeps
          apply updJob_keeps
          assumption
theorem jobPieceDone_keeps {s0 s : State} {a0 a1} (h : Keeps s0 s) : Keeps s0 (jobPieceDone a0 a1 s) := by
  unfold jobPieceDone
  extract_lets v1
  have hv1 : Keeps s0 v1 := by
    unfold v1
    split
    · apply releaseHold_keeps
      assumption
    · assumption
  clear_value v1
  split
  · apply clusterDone_keeps
    assumption
  · apply captureCluster_keeps
    assumption
theorem ownerlessReport_keeps {s0 s : State} {a0 a1} (h : Keeps s0 s) : Keeps s0 (ownerlessReport a0 a1 s) := by
  unfold ownerlessReport
  split
  · apply failContext_keeps
    assumption
  · assumption
theorem slideReport_keeps {s0 s : State} {a0 a1} (h : Keeps s0 s) : Keeps s0 (slideReport a0 a1 s) := by
  unfold slideReport
  split
  · assumption
  · extract_lets v1 v2 v3
    have hv2 : Keeps s0 v2 := by
      unfold v2
      apply updSld_keeps
      assumption
    clear_value v2
    have hv3 : Keeps s0 v3 := by
      unfold v3
      apply feedStaging_keeps
      split
      · apply ergCount_keeps
        assumption
      · assumption
    clear_value v3
    split
    · apply recheckCores_keeps
      apply movePiece_keeps
      apply ownerlessReport_keeps
      assumption
    · split
      · assumption
      · split
        · apply abandonCluster_keeps
          assumption
        · split
          · extract_lets v4
            have hv4 : Keeps s0 v4 := by
              unfold v4
              split
              · apply reportError_keeps
                assumption
              · apply reportError_keeps
                assumption
              · apply ownerlessReport_keeps
                assumption
            clear_value v4
            apply abortJob_keeps
            assumption
          · apply jobPieceDone_keeps
            assumption
theorem pieceReportOp_keeps {s0 s : State} {a0} (h : Keeps s0 s) : Keeps s0 (pieceReportOp a0 s) := by
  unfold pieceReportOp
  split
  · assumption
  · split
    · assumption
    · extract_lets v1
      have hv1 : Keeps s0 v1 := by
        unfold v1
        apply updRow_keeps
        assumption
      clear_value v1
      split
      · apply slideReport_keeps
        assumption
      · apply programReport_keeps
        assumption
theorem execPieceReport_keeps {s0 s : State} {a0} (h : Keeps s0 s) : KeepsOut s0 (execPieceReport a0 s) := by
  unfold execPieceReport
  apply keepsOut_next
  apply pieceReportOp_keeps
  assumption
theorem cancelSendOp_keeps {s0 s : State} (h : Keeps s0 s) : Keeps s0 (cancelSendOp s) := by
  unfold cancelSendOp
  split
  · assumption
  · split
    · assumption
    · extract_lets v1 v2 v3
      have hv3 : Keeps s0 v3 := by
        unfold v3
        apply each_keeps
        · apply updMar_keeps
          · assumption
          · rfl
        · intro i1 i2 i3
          apply abortOwner_keeps
          assumption
      clear_value v3
      split
      · assumption
      · apply sendCancel_keeps
        assumption
theorem execCancelSend_keeps {s0 s : State} (h : Keeps s0 s) : KeepsOut s0 (execCancelSend s) := by
  unfold execCancelSend
  apply keepsOut_next
  apply cancelSendOp_keeps
  assumption
theorem savectxWord_keeps {s0 s : State} {a0 a1 a2 a3} (h : Keeps s0 s) : Keeps s0 (savectxWord a0 a1 a2 a3 s) := by
  unfold savectxWord
  extract_lets v1 v2 v3 v4
  split
  · apply wordFailAt_keeps
    assumption
  · extract_lets v5
    split
    · apply wordFailAt_keeps
      assumption
    · split
      · apply wordFailAt_keeps
        assumption
      · split
        · apply wordFailAt_keeps
          assumption
        · split
          · apply stallCore_keeps
            assumption
          · split
            · apply stallCore_keeps
              assumption
            · split
              · apply stallCore_keeps
                assumption
              · apply advance_keeps
                apply startSave_keeps
                apply addGroup_keeps
                apply unreplayable_keeps
                assumption
theorem execWSavectx_keeps {s0 s : State} {a0} (h : Keeps s0 s) : KeepsOut s0 (execWSavectx a0 s) := by
  unfold execWSavectx
  apply keepsOut_next
  apply runWord_keeps
  · assumption
  · intro i1 i2 i3 i4 i5 i6
    apply savectxWord_keeps
    assumption
theorem loadctxWord_keeps {s0 s : State} {a0 a1 a2 a3 a4} (h : Keeps s0 s) : Keeps s0 (loadctxWord a0 a1 a2 a3 a4 s) := by
  unfold loadctxWord
  extract_lets v1 v2 v3
  split
  · apply wordFailAt_keeps
    assumption
  · extract_lets v4 v5
    have hv5 : Keeps s0 v5 := by
      unfold v5
      apply ownRead_keeps
      assumption
    clear_value v5
    split
    · apply wordFailAt_keeps
      assumption
    · split
      · apply wordFailAt_keeps
        assumption
      · split
        · apply wordFailAt_keeps
          assumption
        · split
          · apply stallCore_keeps
            assumption
          · split
            · apply targetLost_keeps
              assumption
            · split
              · apply wordFailAt_keeps
                assumption
              · apply advance_keeps
                apply startRestore_keeps
                apply addGroup_keeps
                apply unreplayable_keeps
                assumption
            · apply wordFailAt_keeps
              split
              · apply poisonMark_keeps
                assumption
              · assumption
theorem execWLoadctx_keeps {s0 s : State} {a0 a1} (h : Keeps s0 s) : KeepsOut s0 (execWLoadctx a0 a1 s) := by
  unfold execWLoadctx
  apply keepsOut_next
  apply runWord_keeps
  · assumption
  · intro i1 i2 i3 i4 i5 i6
    apply loadctxWord_keeps
    assumption
theorem resumeWait_keeps {s0 s : State} {a0} (h : Keeps s0 s) : Keeps s0 (resumeWait a0 s) := by
  unfold resumeWait
  extract_lets v1
  have hv1 : Keeps s0 v1 := by
    unfold v1
    apply updProg_keeps
    assumption
  clear_value v1
  split
  · apply releaseProg_keeps
    assumption
  · split
    · split
      · apply runCore_keeps
        assumption
      · assumption
    · assumption
theorem releaseSeatWait_keeps {s0 s : State} {a0 a1 a2} (h : Keeps s0 s) : Keeps s0 (releaseSeatWait a0 a1 a2 s) := by
  unfold releaseSeatWait
  extract_lets v1
  split
  · assumption
  · split
    · extract_lets v2 v3 v4 v5
      have hv2 : Keeps s0 v2 := by
        unfold v2
        apply noteRelease_keeps
        assumption
      clear_value v2
      have hv3 : Keeps s0 v3 := by
        unfold v3
        apply updProg_keeps
        assumption
      clear_value v3
      split
      · apply ownerError_keeps
        assumption
      · apply resumeWait_keeps
        assumption
    · assumption
theorem releaseWaiter_keeps {s0 s : State} {a0 a1} (h : Keeps s0 s) : Keeps s0 (releaseWaiter a0 a1 s) := by
  unfold releaseWaiter
  extract_lets v1 v2
  have hv2 : Keeps s0 v2 := by
    unfold v2
    apply dropWaiter_keeps
    assumption
  clear_value v2
  split
  · apply updStb_keeps
    assumption
  · apply releaseSeatWait_keeps
    assumption
theorem failWaiter_keeps {s0 s : State} {a0 a1} (h : Keeps s0 s) : Keeps s0 (failWaiter a0 a1 s) := by
  unfold failWaiter
  extract_lets v1 v2
  have hv2 : Keeps s0 v2 := by
    unfold v2
    apply dropWaiter_keeps
    assumption
  clear_value v2
  split
  · apply updStb_keeps
    assumption
  · split
    · apply wordFailAt_keeps
      assumption
    · assumption
theorem releaseMet_keeps {s0 s : State} {a0 a1 a2} (h : Keeps s0 s) : Keeps s0 (releaseMet a0 a1 a2 s) := by
  unfold releaseMet
  apply each_keeps
  · assumption
  · intro i1 i2 i3
    apply releaseWaiter_keeps
    assumption
theorem disarm_keeps {s0 s : State} {a0} (h : Keeps s0 s) : Keeps s0 (disarm a0 s) := by
  unfold disarm
  apply hangEv_keeps
  apply updWatch_keeps
  assumption
theorem arm_keeps {s0 s : State} {a0 a1 a2} (h : Keeps s0 s) : Keeps s0 (arm a0 a1 a2 s) := by
  unfold arm
  extract_lets v1
  apply hangEv_keeps
  apply updWatch_keeps
  assumption
theorem awaitEntry_keeps {s0 s : State} {a0 a1} (h : Keeps s0 s) : Keeps s0 (awaitEntry a0 a1 s) := by
  unfold awaitEntry
  extract_lets v1
  apply moveWaiter_keeps
  apply updStb_keeps
  assumption
theorem readFor_keeps {s0 s : State} {a0 a1} (h : Keeps s0 s) : Keeps s0 (readFor a0 a1 s) := by
  unfold readFor
  extract_lets v1
  apply ergCount_keeps
  apply issueAt_keeps
  apply updWaiter_keeps
  assumption
theorem rereadEntry_keeps {s0 s : State} {a0} (h : Keeps s0 s) : Keeps s0 (rereadEntry a0 s) := by
  unfold rereadEntry
  extract_lets v1 v2 v3
  have hv3 : Keeps s0 v3 := by
    unfold v3
    apply updWatch_keeps
    assumption
  clear_value v3
  split
  · apply each_keeps
    · assumption
    · intro i1 i2 i3
      apply ergCount_keeps
      apply issueAt_keeps
      apply updStb_keeps
      assumption
  · assumption
theorem attach_keeps {s0 s : State} {a0 a1} (h : Keeps s0 s) : Keeps s0 (attach a0 a1 s) := by
  unfold attach
  apply rereadEntry_keeps
  apply readFor_keeps
  apply moveWaiter_keeps
  apply updWatch_keeps
  assumption
theorem pollWaiter_keeps {s0 s : State} {a0} (h : Keeps s0 s) : Keeps s0 (pollWaiter a0 s) := by
  unfold pollWaiter
  apply moveWaiter_keeps
  assumption
theorem seekEntry_keeps {s0 s : State} {a0} (h : Keeps s0 s) : Keeps s0 (seekEntry a0 s) := by
  unfold seekEntry
  extract_lets v1 v2
  split
  · split
    · apply attach_keeps
      assumption
    · apply awaitEntry_keeps
      assumption
  · split
    · apply awaitEntry_keeps
      apply arm_keeps
      apply State.nextFree_keeps
      assumption
    · split
      · apply awaitEntry_keeps
        apply disarm_keeps
        assumption
      · apply pollWaiter_keeps
        assumption
theorem offerPolled_keeps {s0 s : State} {a0 a1} (h : Keeps s0 s) : Keeps s0 (offerPolled a0 a1 s) := by
  induction a1 generalizing s a0
  · unfold offerPolled
    assumption
  · rename_i n ih
    unfold offerPolled
    extract_lets v1
    split
    · apply ih
      apply seekEntry_keeps
      assumption
    · apply awaitEntry_keeps
      apply arm_keeps
      assumption
theorem disarmed_keeps {s0 s : State} {a0} (h : Keeps s0 s) : Keeps s0 (disarmed a0 s) := by
  unfold disarmed
  extract_lets v1 v2
  have hv2 : Keeps s0 v2 := by
    unfold v2
    apply updWatch_keeps
    assumption
  clear_value v2
  (clear_value v1; split)
  · apply offerPolled_keeps
    assumption
  · extract_lets v3 v4
    have hv4 : Keeps s0 v4 := by
      unfold v4
      split
      · apply seekEntry_keeps
        assumption
      · apply awaitEntry_keeps
        apply arm_keeps
        assumption
    clear_value v4
    apply each_keeps
    · assumption
    · intro i1 i2 i3
      apply seekEntry_keeps
      assumption
theorem armed_keeps {s0 s : State} {a0 a1} (h : Keeps s0 s) : Keeps s0 (armed a0 a1 s) := by
  unfold armed
  extract_lets v1 v2
  have hv2 : Keeps s0 v2 := by
    unfold v2
    apply updWatch_keeps
    assumption
  clear_value v2
  split
  · apply each_keeps
    · assumption
    · intro i1 i2 i3
      apply attach_keeps
      assumption
  · apply each_keeps
    · apply updStb_keeps
      apply updWatch_keeps
      assumption
    · intro i1 i2 i3
      apply pollWaiter_keeps
      assumption
theorem execMwResponse_keeps {s0 s : State} {a0 a1} (h : Keeps s0 s) : KeepsOut s0 (execMwResponse a0 a1 s) := by
  unfold execMwResponse
  extract_lets v1 v2
  have hv2 : Keeps s0 v2 := by
    unfold v2
    apply rspEv_keeps
    assumption
  clear_value v2
  split
  · trivial
  · split
    · apply keepsOut_next
      assumption
    · split
      · trivial
      · split
        · apply keepsOut_next
          split
          · apply updWatch_keeps
            assumption
          · apply armed_keeps
            assumption
        · apply keepsOut_next
          split
          · apply updWatch_keeps
            assumption
          · apply disarmed_keeps
            assumption
        · trivial
theorem dirtyEntry_keeps {s0 s : State} {a1} (h : Keeps s0 s) : Keeps s0 (dirtyEntry s a1) := by
  unfold dirtyEntry
  split
  · apply rereadEntry_keeps
    apply updWatch_keeps
    assumption
  · assumption
theorem execNotice_keeps {s0 s : State} {a0} (h : Keeps s0 s) : KeepsOut s0 (execNotice a0 s) := by
  unfold execNotice
  split
  · trivial
  · split
    · apply keepsOut_next
      assumption
    · apply keepsOut_next
      apply dirtyEntry_keeps
      apply ergCount_keeps
      assumption
theorem dirtyAll_keeps {s0 s : State} (h : Keeps s0 s) : Keeps s0 (dirtyAll s) := by
  unfold dirtyAll
  apply each_keeps
  · assumption
  · intro i1 i2 i3
    apply dirtyEntry_keeps
    assumption
theorem noticeLostOp_keeps {s0 s : State} (h : Keeps s0 s) : Keeps s0 (noticeLostOp s) := by
  unfold noticeLostOp
  extract_lets v1
  have hv1 : Keeps s0 v1 := by
    unfold v1
    apply updStb_keeps
    assumption
  clear_value v1
  split
  · apply dirtyAll_keeps
    assumption
  · assumption
theorem execNoticeLost_keeps {s0 s : State} (h : Keeps s0 s) : KeepsOut s0 (execNoticeLost s) := by
  unfold execNoticeLost
  apply powered_keeps
  · assumption
  · apply noticeLostOp_keeps
    assumption
theorem checkTimedOut_keeps {s0 s : State} {a0} (h : Keeps s0 s) : Keeps s0 (checkTimedOut a0 s) := by
  unfold checkTimedOut
  extract_lets v1
  split
  · split
    · apply dropWaiter_keeps
      assumption
    · split
      · apply failWait_keeps
        assumption
      · assumption
  · assumption
theorem waitReadDone_keeps {s0 s : State} {a0 a1 a2 a3 a4} (h : Keeps s0 s) : Keeps s0 (waitReadDone a0 a1 a2 a3 a4 s) := by
  unfold waitReadDone
  extract_lets v1 v2 v3 v4
  have hv2 : Keeps s0 v2 := by
    unfold v2
    apply updWaiter_keeps
    assumption
  clear_value v2
  have hv3 : Keeps s0 v3 := by
    unfold v3
    apply releaseMet_keeps
    assumption
  clear_value v3
  have hv4 : Keeps s0 v4 := by
    unfold v4
    apply seekEntry_keeps
    assumption
  clear_value v4
  split
  · assumption
  · split
    · apply failWaiter_keeps
      assumption
    · split
      · assumption
      · split
        · apply checkTimedOut_keeps
          assumption
        · split
          · split
            · split
              · split
                · apply parkSeat_keeps
                  assumption
                · assumption
              · assumption
            · assumption
          · split
            · apply moveWaiter_keeps
              assumption
            · assumption
          · assumption
theorem watchReadDone_keeps {s0 s : State} {a0 a1 a2 a3 a4} (h : Keeps s0 s) : Keeps s0 (watchReadDone a0 a1 a2 a3 a4 s) := by
  unfold watchReadDone
  extract_lets v1 v2 v3
  have hv2 : Keeps s0 v2 := by
    unfold v2
    apply updWatch_keeps
    assumption
  clear_value v2
  have hv3 : Keeps s0 v3 := by
    unfold v3
    split
    · apply each_keeps
      · assumption
      · intro i1 i2 i3
        apply failWaiter_keeps
        assumption
    · apply releaseMet_keeps
      assumption
  clear_value v3
  apply rereadEntry_keeps
  apply each_keeps
  · assumption
  · intro i4 i5 i6
    apply checkTimedOut_keeps
    assumption
theorem pollReadOp_keeps {s0 s : State} {a0} (h : Keeps s0 s) : Keeps s0 (pollReadOp a0 s) := by
  unfold pollReadOp
  extract_lets v1 v2 v3
  split
  · apply readFor_keeps
    apply updWaiter_keeps
    assumption
  · assumption
theorem execPollRead_keeps {s0 s : State} {a0} (h : Keeps s0 s) : KeepsOut s0 (execPollRead a0 s) := by
  unfold execPollRead
  apply keepsOut_next
  apply pollReadOp_keeps
  assumption
theorem lingerExpiryOp_keeps {s0 s : State} {a0} (h : Keeps s0 s) : Keeps s0 (lingerExpiryOp a0 s) := by
  unfold lingerExpiryOp
  extract_lets v1
  split
  · split
    · apply disarm_keeps
      assumption
    · assumption
  · assumption
theorem execLingerExpiry_keeps {s0 s : State} {a0} (h : Keeps s0 s) : KeepsOut s0 (execLingerExpiry a0 s) := by
  unfold execLingerExpiry
  apply keepsOut_next
  apply lingerExpiryOp_keeps
  assumption
theorem dropWaiters_keeps {s0 s : State} (h : Keeps s0 s) : Keeps s0 (dropWaiters s) := by
  unfold dropWaiters
  apply each_keeps
  · apply updStb_keeps
    assumption
  · intro i1 i2 i3
    apply dropWaiter_keeps
    assumption
theorem settleWatches_keeps {s0 s : State} (h : Keeps s0 s) : Keeps s0 (settleWatches s) := by
  unfold settleWatches
  extract_lets v1
  have hv1 : Keeps s0 v1 := by
    unfold v1
    apply each_keeps
    · assumption
    · intro i1 i2 i3
      apply disarm_keeps
      apply updWatch_keeps
      assumption
  clear_value v1
  apply dirtyAll_keeps
  apply each_keeps
  · assumption
  · intro i1 i2 i3
    apply updWatch_keeps
    assumption

end Sys2Proof.Machine
end

