-- ==== Sys2Proof/Laws/KeepsLoops.lean ====
section
/-! SUPPORT. What `Keeps` says, operation by operation: loops, heats, courses, crossing, Stroke, trace and Judge. -/
namespace Sys2Proof.Machine

theorem loopRefuse_keeps {s0 s : State} {a0 a1} (h : Keeps s0 s) : Keeps s0 (loopRefuse a0 a1 s) := by
  unfold loopRefuse
  apply updLoop_keeps
  assumption
theorem takeWeights_keeps {s0 s : State} {a0} (h : Keeps s0 s) : Keeps s0 (takeWeights a0 s) := by
  unfold takeWeights
  apply each_keeps
  · assumption
  · intro i1 i2 i3
    extract_lets v1
    split
    · split
      · refine KeepsE.of (refAddOp_keeps ?_) (by assumption)
        assumption
      · assumption
    · assumption
theorem loopReadError_keeps {s0 s : State} {a0 a1 a2} (h : Keeps s0 s) : Keeps s0 (loopReadError a0 a1 a2 s) := by
  unfold loopReadError
  extract_lets v1 v2
  have hv1 : Keeps s0 v1 := by
    unfold v1
    split
    · apply poisonMark_keeps
      assumption
    · assumption
  clear_value v1
  apply logRec_keeps
  assumption
theorem dropGates_keeps {s0 s : State} {a0} (h : Keeps s0 s) : Keeps s0 (dropGates a0 s) := by
  unfold dropGates
  apply each_keeps
  · assumption
  · intro i1 i2 i3
    apply dropGate_keeps
    assumption
theorem startLoop_keeps {s0 s : State} {a0 a1} (h : Keeps s0 s) : Keeps s0 (startLoop a0 a1 s) := by
  unfold startLoop
  extract_lets v1 v2 v3 v4 v5 v6 v7 v8
  have hv4 : Keeps s0 v4 := by
    unfold v4
    apply ownRead_keeps
    assumption
  clear_value v4
  have hv7 : Keeps s0 v7 := by
    unfold v7
    apply takeWeights_keeps
    assumption
  clear_value v7
  split
  · assumption
  · split
    · apply loopRefuse_keeps
      assumption
    · split
      · apply targetLost_keeps
        assumption
      · split
        · apply loopRefuse_keeps
          assumption
        · split
          · apply addIntent_keeps
            apply updLoop_keeps
            apply dropGates_keeps
            assumption
          · apply updLoop_keeps
            assumption
      · apply updLoop_keeps
        apply loopRefuse_keeps
        apply loopReadError_keeps
        assumption
theorem loopCmd_keeps {s0 s : State} {a0} (h : Keeps s0 s) (hf : ∀ t, Keeps s0 t → Keeps s0 (a0 t)) : KeepsOut s0 (loopCmd a0 s) := by
  unfold loopCmd
  split
  · trivial
  · apply keepsOut_next
    apply hf
    assumption
theorem execLoopStart_keeps {s0 s : State} {a0} (h : Keeps s0 s) : KeepsOut s0 (execLoopStart a0 s) := by
  unfold execLoopStart
  apply loopCmd_keeps
  · assumption
  · intro i1 i2
    apply startLoop_keeps
    assumption
theorem execLoopStartClear_keeps {s0 s : State} {a0} (h : Keeps s0 s) : KeepsOut s0 (execLoopStartClear a0 s) := by
  unfold execLoopStartClear
  apply loopCmd_keeps
  · assumption
  · intro i1 i2
    apply startLoop_keeps
    assumption
theorem loopCleared_keeps {s0 s : State} {a0 a1 a2} (h : Keeps s0 s) : Keeps s0 (loopCleared a0 a1 a2 s) := by
  unfold loopCleared
  split
  · assumption
  · split
    · apply updLoop_keeps
      assumption
    · apply endLoop_keeps
      apply loopReadError_keeps
      assumption
theorem simpleLoopCmd_keeps {s0 s : State} {a0 a1} (h : Keeps s0 s) : Keeps s0 (simpleLoopCmd a0 a1 s) := by
  unfold simpleLoopCmd
  extract_lets v1
  split
  · assumption
  · split
    · apply loopRefuse_keeps
      assumption
    · apply checkLoop_keeps
      apply updLoop_keeps
      assumption
theorem stopLoopOp_keeps {s0 s : State} (h : Keeps s0 s) : Keeps s0 (stopLoopOp s) := by
  unfold stopLoopOp
  apply simpleLoopCmd_keeps
  assumption
theorem execLoopStop_keeps {s0 s : State} (h : Keeps s0 s) : KeepsOut s0 (execLoopStop s) := by
  unfold execLoopStop
  apply loopCmd_keeps
  · assumption
  · intro i1 i2
    apply stopLoopOp_keeps
    assumption
theorem drainLoopOp_keeps {s0 s : State} (h : Keeps s0 s) : Keeps s0 (drainLoopOp s) := by
  unfold drainLoopOp
  apply simpleLoopCmd_keeps
  assumption
theorem execLoopDrain_keeps {s0 s : State} (h : Keeps s0 s) : KeepsOut s0 (execLoopDrain s) := by
  unfold execLoopDrain
  apply loopCmd_keeps
  · assumption
  · intro i1 i2
    apply drainLoopOp_keeps
    assumption
theorem reloadResidency_keeps {s0 s : State} {a0 a1 a2} (h : Keeps s0 s) : Keeps s0 (reloadResidency a0 a1 a2 s) := by
  unfold reloadResidency
  apply each_keeps
  · assumption
  · intro i1 i2 i3
    split
    · split
      · apply endModel_keeps
        assumption
      · assumption
    · assumption
theorem reloadOp_keeps {s0 s : State} {a0} (h : Keeps s0 s) : Keeps s0 (reloadOp a0 s) := by
  unfold reloadOp
  extract_lets v1 v2 v3 v4 v5 v6 v7
  have hv4 : Keeps s0 v4 := by
    unfold v4
    apply ownRead_keeps
    assumption
  clear_value v4
  have hv7 : Keeps s0 v7 := by
    unfold v7
    apply dropWeights_keeps
    apply takeWeights_keeps
    assumption
  clear_value v7
  split
  · assumption
  · split
    · apply loopRefuse_keeps
      assumption
    · split
      · apply targetLost_keeps
        assumption
      · split
        · apply loopRefuse_keeps
          assumption
        · apply reloadResidency_keeps
          apply updLoop_keeps
          assumption
      · apply failLoop_keeps
        apply loopRefuse_keeps
        apply loopReadError_keeps
        assumption
theorem execReload_keeps {s0 s : State} {a0} (h : Keeps s0 s) : KeepsOut s0 (execReload a0 s) := by
  unfold execReload
  apply loopCmd_keeps
  · assumption
  · intro i1 i2
    apply reloadOp_keeps
    assumption
theorem readRequest_keeps {s0 s : State} {a0 a1 a2} (h : Keeps s0 s) : Keeps s0 (readRequest a0 a1 a2 s) := by
  unfold readRequest
  extract_lets v1 v2
  split
  · assumption
  · apply startFetch_keeps
    apply updLoop_keeps
    assumption
theorem rqDoorbellOp_keeps {s0 s : State} {a0} (h : Keeps s0 s) : Keeps s0 (rqDoorbellOp a0 s) := by
  unfold rqDoorbellOp
  extract_lets v1
  split
  · assumption
  · apply readRequest_keeps
    apply updLoop_keeps
    assumption
theorem execRqDoorbell_keeps {s0 s : State} {a0} (h : Keeps s0 s) : KeepsOut s0 (execRqDoorbell a0 s) := by
  unfold execRqDoorbell
  apply keepsOut_next
  apply rqDoorbellOp_keeps
  assumption
theorem requestPollOp_keeps {s0 s : State} {a0 a1} (h : Keeps s0 s) : Keeps s0 (requestPollOp a0 a1 s) := by
  unfold requestPollOp
  extract_lets v1
  split
  · apply readRequest_keeps
    assumption
  · assumption
theorem execRequestPoll_keeps {s0 s : State} {a0 a1} (h : Keeps s0 s) : KeepsOut s0 (execRequestPoll a0 a1 s) := by
  unfold execRequestPoll
  apply keepsOut_next
  apply requestPollOp_keeps
  assumption
theorem rqRingRestartOp_keeps {s0 s : State} {a0} (h : Keeps s0 s) : Keeps s0 (rqRingRestartOp a0 s) := by
  unfold rqRingRestartOp
  extract_lets v1
  split
  · assumption
  · apply each_keeps
    · assumption
    · intro i1 i2 i3
      apply readRequest_keeps
      apply updLoop_keeps
      assumption
theorem execRqRingRestart_keeps {s0 s : State} {a0} (h : Keeps s0 s) : KeepsOut s0 (execRqRingRestart a0 s) := by
  unfold execRqRingRestart
  apply keepsOut_next
  apply rqRingRestartOp_keeps
  assumption
theorem requestRead_keeps {s0 s : State} {a0 a1 a2} (h : Keeps s0 s) : Keeps s0 (requestRead a0 a1 a2 s) := by
  unfold requestRead
  extract_lets v1 v2 v3 v4 v5
  have hv2 : Keeps s0 v2 := by
    unfold v2
    unfold v1
    apply updLoop_keeps
    assumption
  clear_value v2
  have hv5 : Keeps s0 v5 := by
    unfold v5
    unfold v1
    apply updLoop_keeps
    assumption
  clear_value v5
  split
  · apply logRec_keeps
    unfold v1
    apply updLoop_keeps
    assumption
  · split
    · split
      · apply readRequest_keeps
        assumption
      · assumption
    · unfold v1
      apply updLoop_keeps
      assumption
theorem nextRequest_keeps {s0 s : State} {a0 a1} (h : Keeps s0 s) : Keeps s0 (nextRequest a0 a1 s) := by
  unfold nextRequest
  apply readRequest_keeps
  apply updLoop_keeps
  assumption
theorem rejectRequest_keeps {s0 s : State} {a0 a1 a2} (h : Keeps s0 s) : Keeps s0 (rejectRequest a0 a1 a2 s) := by
  unfold rejectRequest
  extract_lets v1 v2 v3
  split
  extract_lets v4
  have hv4 : Keeps s0 v4 := by
    unfold v4
    apply logRec_keeps
    refine KeepsQ.of (addResult_keeps ?_) (by assumption)
    assumption
  clear_value v4
  apply nextRequest_keeps
  apply addIntent_keeps
  assumption
theorem startGate_keeps {s0 s : State} {a0 a1} (h : Keeps s0 s) : Keeps s0 (startGate a0 a1 s) := by
  unfold startGate
  extract_lets v1 v2
  split
  · apply registerWait_keeps
    apply updSeq_keeps
    assumption
  · apply updSeq_keeps
    assumption
theorem admitRequest_keeps {s0 s : State} {a0 a1 a2} (h : Keeps s0 s) : Keeps s0 (admitRequest a0 a1 a2 s) := by
  unfold admitRequest
  extract_lets v1
  split
  · assumption
  · split
    · assumption
    · split
      · assumption
      · extract_lets v2 v3 v4 v5 v6
        have hv3 : Keeps s0 v3 := by
          unfold v3
          apply updSeq_keeps
          apply updLoop_keeps
          refine KeepsOP.of (newTab_keeps ?_) (by assumption)
          apply State.nextFree_keeps
          assumption
        clear_value v3
        have hv4 : Keeps s0 v4 := by
          unfold v4
          apply addIntent_keeps
          assumption
        clear_value v4
        have hv5 : Keeps s0 v5 := by
          unfold v5
          split
          · apply startGate_keeps
            assumption
          · assumption
        clear_value v5
        have hv6 : Keeps s0 v6 := by
          unfold v6
          split
          · apply retireSeq_keeps
            assumption
          · assumption
        clear_value v6
        apply nextRequest_keeps
        assumption
theorem rereadRequest_keeps {s0 s : State} {a0 a1 a2} (h : Keeps s0 s) : Keeps s0 (rereadRequest a0 a1 a2 s) := by
  unfold rereadRequest
  split
  · assumption
  · apply readRequest_keeps
    apply updLoop_keeps
    assumption
theorem actRequest_keeps {s0 s : State} {a0 a1 a2 a3} (h : Keeps s0 s) (hf : ∀ x t, Keeps s0 t → Keeps s0 (a1 x t)) : Keeps s0 (actRequest a0 a1 a2 a3 s) := by
  unfold actRequest
  extract_lets v1
  split
  · assumption
  · split
    · assumption
    · split
      · assumption
      · split
        · apply rereadRequest_keeps
          assumption
        · split
          · apply rejectRequest_keeps
            assumption
          · apply hf
            assumption
theorem requestNewOp_keeps {s0 s : State} {a0 a1} (h : Keeps s0 s) : Keeps s0 (requestNewOp a0 a1 s) := by
  unfold requestNewOp
  apply actRequest_keeps
  · assumption
  · intro i1 i2 i3
    apply admitRequest_keeps
    assumption
theorem execRequestNew_keeps {s0 s : State} {a0 a1} (h : Keeps s0 s) : KeepsOut s0 (execRequestNew a0 a1 s) := by
  unfold execRequestNew
  apply keepsOut_next
  apply requestNewOp_keeps
  assumption
theorem cancelRequest_keeps {s0 s : State} {a0 a1 a2} (h : Keeps s0 s) : Keeps s0 (cancelRequest a0 a1 a2 s) := by
  unfold cancelRequest
  extract_lets v1 v2 v3
  have hv3 : Keeps s0 v3 := by
    unfold v3
    apply each_keeps
    · assumption
    · intro i1 i2 i3
      split
      · apply updSeq_keeps
        assumption
      · apply retireSeq_keeps
        assumption
  clear_value v3
  apply nextRequest_keeps
  apply addIntent_keeps
  assumption
theorem requestCancelOp_keeps {s0 s : State} {a0 a1} (h : Keeps s0 s) : Keeps s0 (requestCancelOp a0 a1 s) := by
  unfold requestCancelOp
  apply actRequest_keeps
  · assumption
  · intro i1 i2 i3
    apply cancelRequest_keeps
    assumption
theorem execRequestCancel_keeps {s0 s : State} {a0 a1} (h : Keeps s0 s) : KeepsOut s0 (execRequestCancel a0 a1 s) := by
  unfold execRequestCancel
  apply keepsOut_next
  apply requestCancelOp_keeps
  assumption
theorem resultConsumedOp_keeps {s0 s : State} {a0 a1} (h : Keeps s0 s) : Keeps s0 (resultConsumedOp a0 a1 s) := by
  unfold resultConsumedOp
  extract_lets v1
  split
  · assumption
  · apply updLoop_keeps
    assumption
theorem execResultConsumed_keeps {s0 s : State} {a0 a1} (h : Keeps s0 s) : KeepsOut s0 (execResultConsumed a0 a1 s) := by
  unfold execResultConsumed
  apply keepsOut_next
  apply resultConsumedOp_keeps
  assumption
theorem gateReleaseOp_keeps {s0 s : State} {a0 a1} (h : Keeps s0 s) : Keeps s0 (gateReleaseOp a0 a1 s) := by
  unfold gateReleaseOp
  extract_lets v1
  have hv1 : Keeps s0 v1 := by
    unfold v1
    apply updStb_keeps
    assumption
  clear_value v1
  split
  · assumption
  · split
    · assumption
    · split
      · apply retireAs_keeps
        assumption
      · split
        · apply retireAs_keeps
          assumption
        · apply writeEntry_keeps
          apply updSeq_keeps
          assumption
theorem execGateRelease_keeps {s0 s : State} {a0 a1} (h : Keeps s0 s) : KeepsOut s0 (execGateRelease a0 a1 s) := by
  unfold execGateRelease
  apply keepsOut_next
  apply gateReleaseOp_keeps
  assumption
theorem gateRetryOp_keeps {s0 s : State} {a0 a1} (h : Keeps s0 s) : Keeps s0 (gateRetryOp a0 a1 s) := by
  unfold gateRetryOp
  extract_lets v1 v2
  split
  · apply startGate_keeps
    assumption
  · assumption
theorem execGateRetry_keeps {s0 s : State} {a0 a1} (h : Keeps s0 s) : KeepsOut s0 (execGateRetry a0 a1 s) := by
  unfold execGateRetry
  apply keepsOut_next
  apply gateRetryOp_keeps
  assumption
theorem tableError_keeps {s0 s : State} {a0} (h : Keeps s0 s) : Keeps s0 (tableError a0 s) := by
  unfold tableError
  extract_lets v1
  apply raise5_keeps
  assumption
theorem tableWritten_keeps {s0 s : State} {a0 a1} (h : Keeps s0 s) : Keeps s0 (tableWritten a0 a1 s) := by
  unfold tableWritten
  split
  · assumption
  · apply tableError_keeps
    assumption
theorem heatWriteError_keeps {s0 s : State} {a0 a1} (h : Keeps s0 s) : Keeps s0 (heatWriteError a0 a1 s) := by
  unfold heatWriteError
  extract_lets v1 v2 v3 v4
  have hv4 : Keeps s0 v4 := by
    unfold v4
    apply logRec_keeps
    assumption
  clear_value v4
  split
  · apply tableError_keeps
    assumption
  · split
    · assumption
    · apply failLoop_keeps
      assumption
theorem ringsWritten_keeps {s0 s : State} {a0 a1 a2 a3} (h : Keeps s0 s) : Keeps s0 (ringsWritten a0 a1 a2 a3 s) := by
  unfold ringsWritten
  split
  · apply ringIrqs_keeps
    assumption
  · apply heatWriteError_keeps
    assumption
theorem markWaits_keeps {s0 s : State} {a0 a1} (h : Keeps s0 s) : Keeps s0 (markWaits a0 a1 s) := by
  unfold markWaits
  apply each_keeps
  · assumption
  · intro i1 i2 i3
    apply updSeq_keeps
    assumption
theorem heatError_keeps {s0 s : State} {a0 a1 a2 a3} (h : Keeps s0 s) : Keeps s0 (heatError a0 a1 a2 a3 s) := by
  unfold heatError
  extract_lets v1
  apply ownerError_keeps
  assumption
theorem nameCourse_keeps {s0 s : State} {a0 a1 a2} (h : Keeps s0 s) : Keeps s0 (nameCourse a0 a1 a2 s) := by
  unfold nameCourse
  apply updHSlot_keeps
  assumption
theorem resolveHeat_keeps {s0 s : State} {a0 a1 a2 a3} (h : Keeps s0 s) : KeepsE s0 (resolveHeat a0 a1 a2 a3 s) := by
  unfold resolveHeat
  split
  · apply keepsE_ok
    apply nameCourse_keeps
    assumption
  · split
    · trivial
    · apply keepsE_ok
      apply nameCourse_keeps
      refine KeepsEP.of (resolveCourse_keeps ?_) (by assumption)
      assumption
theorem growMember_keeps {s0 s : State} {a0 a1 a2 a4} (h : Keeps s0 s) : Keeps s0 (growMember a0 a1 a2 s a4) := by
  unfold growMember
  extract_lets v1
  split
  · refine KeepsE.of (growTab_keeps ?_) (by assumption)
    assumption
  · apply updHSlot_keeps
    assumption
theorem beginGrow_keeps {s0 s : State} {a0 a1 a2 a3 a4} (h : Keeps s0 s) : Keeps s0 (beginGrow a0 a1 a2 a3 a4 s) := by
  unfold beginGrow
  extract_lets v1 v2 v3
  have hv1 : Keeps s0 v1 := by
    unfold v1
    apply each_keeps
    · assumption
    · intro i1 i2 i3
      extract_lets v4
      have hv4 : Keeps s0 v4 := by
        unfold v4
        apply updSeq_keeps
        assumption
      clear_value v4
      apply updLoop_keeps
      assumption
  clear_value v1
  have hv2 : Keeps s0 v2 := by
    unfold v2
    apply updWork_keeps
    apply moveHSlot_keeps
    assumption
  clear_value v2
  split
  · apply heatError_keeps
    apply updHSlot_keeps
    assumption
  · extract_lets v5 v6 v7
    have hv6 : Keeps s0 v6 := by
      unfold v6
      apply journalAppend_keeps
      refine KeepsE.of (resolveHeat_keeps ?_) (by assumption)
      assumption
    clear_value v6
    have hv7 : Keeps s0 v7 := by
      unfold v7
      apply each_keeps
      · assumption
      · intro i4 i5 i6
        apply growMember_keeps
        assumption
    clear_value v7
    apply addIntent_keeps
    assumption
theorem composeSlot_keeps {s0 s : State} {a0 a1} (h : Keeps s0 s) : Keeps s0 (composeSlot a0 a1 s) := by
  unfold composeSlot
  extract_lets v1 v2 v3 v4
  have hv4 : Keeps s0 v4 := by
    unfold v4
    apply markWaits_keeps
    assumption
  clear_value v4
  split
  · assumption
  · split
    · apply freeHeatSlot_keeps
      apply updLoop_keeps
      assumption
    · split
      · apply freeHeatSlot_keeps
        apply updLoop_keeps
        assumption
      · apply beginGrow_keeps
        apply updLoop_keeps
        assumption
theorem tryCompose_keeps {s0 s : State} {a0 a1} (h : Keeps s0 s) : Keeps s0 (tryCompose a0 a1 s) := by
  unfold tryCompose
  extract_lets v1
  split
  · apply composeSlot_keeps
    assumption
  · split
    · apply beginGrow_keeps
      assumption
    · assumption
theorem enterCompose_keeps {s0 s : State} {a0 a1} (h : Keeps s0 s) : Keeps s0 (enterCompose a0 a1 s) := by
  unfold enterCompose
  apply tryCompose_keeps
  apply moveHSlot_keeps
  assumption
theorem writeParams_keeps {s0 s : State} {a0 a1} (h : Keeps s0 s) : Keeps s0 (writeParams a0 a1 s) := by
  unfold writeParams
  apply startPlan_keeps
  apply updHSlot_keeps
  assumption
theorem startCourse_keeps {s0 s : State} {a0 a1} (h : Keeps s0 s) : Keeps s0 (startCourse a0 a1 s) := by
  unfold startCourse
  extract_lets v1 v2 v3
  split
  · assumption
  · extract_lets v4
    apply moveSeat_keeps
    apply updWork_keeps
    assumption
theorem heatTrace_keeps {s0 s : State} {a0 a1 a2} (h : Keeps s0 s) : Keeps s0 (heatTrace a0 a1 a2 s) := by
  unfold heatTrace
  extract_lets v1
  apply wakeEv_keeps
  assumption
theorem paramsWritten_keeps {s0 s : State} {a0 a1 a2} (h : Keeps s0 s) : Keeps s0 (paramsWritten a0 a1 a2 s) := by
  unfold paramsWritten
  extract_lets v1
  have hv1 : Keeps s0 v1 := by
    unfold v1
    apply updHSlot_keeps
    assumption
  clear_value v1
  split
  · assumption
  · split
    · apply settleOwner_keeps
      assumption
    · split
      · apply heatError_keeps
        assumption
      · split
        · apply startCourse_keeps
          assumption
        · apply heatTrace_keeps
          apply startCourse_keeps
          apply moveHSlot_keeps
          assumption
        · assumption
theorem holdModel_keeps {s0 s : State} {a0 a1} (h : Keeps s0 s) : Keeps s0 (holdModel a0 a1 s) := by
  unfold holdModel
  extract_lets v1 v2 v3
  have hv3 : Keeps s0 v3 := by
    unfold v3
    apply each_keeps
    · assumption
    · intro i1 i2 i3
      apply endModel_keeps
      assumption
  clear_value v3
  apply updHeat_keeps
  assumption
theorem enterSwitch_keeps {s0 s : State} {a0 a1} (h : Keeps s0 s) : Keeps s0 (enterSwitch a0 a1 s) := by
  unfold enterSwitch
  extract_lets v1 v2 v3 v4 v5
  have hv4 : Keeps s0 v4 := by
    unfold v4
    split
    · assumption
    · apply updLoop_keeps
      assumption
  clear_value v4
  have hv5 : Keeps s0 v5 := by
    unfold v5
    apply updWork_keeps
    apply moveHSlot_keeps
    assumption
  clear_value v5
  split
  · apply enterCompose_keeps
    assumption
  · split
    · apply enterCompose_keeps
      apply holdModel_keeps
      assumption
    · split
      · apply heatError_keeps
        assumption
      · apply writeParams_keeps
        refine KeepsE.of (resolveHeat_keeps ?_) (by assumption)
        assumption
theorem startSlot_keeps {s0 s : State} {a0 a1 a2 a3 a4 a5} (h : Keeps s0 s) : Keeps s0 (startSlot a0 a1 a2 a3 a4 a5 s) := by
  unfold startSlot
  extract_lets v1 v2 v3 v4 v5 v6
  have hv5 : Keeps s0 v5 := by
    unfold v5
    apply updMar_keeps
    · apply moveHSlot_keeps
      assumption
    · rfl
  clear_value v5
  split
  · apply enterSwitch_keeps
    assumption
  · apply each_keeps
    · assumption
    · intro i1 i2 i3
      split
      · apply startSave_keeps
        apply updHeat_keeps
        assumption
      · assumption
theorem heatSaveDoneOp_keeps {s0 s : State} {a0 a1} (h : Keeps s0 s) : Keeps s0 (heatSaveDoneOp a0 a1 s) := by
  unfold heatSaveDoneOp
  extract_lets v1
  split
  · assumption
  · apply enterSwitch_keeps
    assumption
theorem execHeatSaveDone_keeps {s0 s : State} {a0 a1} (h : Keeps s0 s) : KeepsOut s0 (execHeatSaveDone a0 a1 s) := by
  unfold execHeatSaveDone
  apply keepsOut_next
  apply heatSaveDoneOp_keeps
  assumption
theorem heatSwitchDoneOp_keeps {s0 s : State} {a0 a1} (h : Keeps s0 s) : Keeps s0 (heatSwitchDoneOp a0 a1 s) := by
  unfold heatSwitchDoneOp
  extract_lets v1 v2 v3 v4
  have hv2 : Keeps s0 v2 := by
    unfold v2
    apply updLoop_keeps
    apply updHSlot_keeps
    assumption
  clear_value v2
  have hv4 : Keeps s0 v4 := by
    unfold v4
    apply updWork_keeps
    apply each_keeps
    · assumption
    · intro i1 i2 i3
      apply dropPin_keeps
      assumption
  clear_value v4
  split
  · assumption
  · apply enterCompose_keeps
    apply holdModel_keeps
    apply vacateCrew_keeps
    assumption
theorem execHeatSwitchDone_keeps {s0 s : State} {a0 a1} (h : Keeps s0 s) : KeepsOut s0 (execHeatSwitchDone a0 a1 s) := by
  unfold execHeatSwitchDone
  apply keepsOut_next
  apply heatSwitchDoneOp_keeps
  assumption
theorem dropUngrown_keeps {s0 s : State} {a0 a1} (h : Keeps s0 s) : Keeps s0 (dropUngrown a0 a1 s) := by
  unfold dropUngrown
  extract_lets v1 v2
  have hv2 : Keeps s0 v2 := by
    unfold v2
    apply each_keeps
    · assumption
    · intro i1 i2 i3
      apply updSeq_keeps
      apply unreserve_keeps
      assumption
  clear_value v2
  apply each_keeps
  · apply updHSlot_keeps
    assumption
  · intro i4 i5 i6
    apply retireDue_keeps
    apply writeEntry_keeps
    assumption
theorem heatGrowDoneOp_keeps {s0 s : State} {a0 a1} (h : Keeps s0 s) : Keeps s0 (heatGrowDoneOp a0 a1 s) := by
  unfold heatGrowDoneOp
  extract_lets v1 v2 v3 v4
  have hv3 : Keeps s0 v3 := by
    unfold v3
    apply dropUngrown_keeps
    assumption
  clear_value v3
  split
  · assumption
  · split
    · apply freeHeatSlot_keeps
      apply journalAppend_keeps
      assumption
    · split
      · apply writeParams_keeps
        assumption
      · split
        · apply writeParams_keeps
          assumption
        · extract_lets v5
          split
          · apply writeParams_keeps
            assumption
          · split
            · apply heatError_keeps
              assumption
            · apply writeParams_keeps
              refine KeepsE.of (resolveHeat_keeps ?_) (by assumption)
              apply updHSlot_keeps
              assumption
theorem execHeatGrowDone_keeps {s0 s : State} {a0 a1} (h : Keeps s0 s) : KeepsOut s0 (execHeatGrowDone a0 a1 s) := by
  unfold execHeatGrowDone
  apply keepsOut_next
  apply heatGrowDoneOp_keeps
  assumption
theorem growWritten_keeps {s0 s : State} {a0 a1 a2 a3} (h : Keeps s0 s) : Keeps s0 (growWritten a0 a1 a2 a3 s) := by
  unfold growWritten
  extract_lets v1 v2
  have hv1 : Keeps s0 v1 := by
    unfold v1
    apply updHSlot_keeps
    assumption
  clear_value v1
  have hv2 : Keeps s0 v2 := by
    unfold v2
    split
    · assumption
    · apply heatWriteError_keeps
      assumption
  clear_value v2
  apply settleOwner_keeps
  assumption
theorem intentWritten_keeps {s0 s : State} {a0 a1 a2 a3} (h : Keeps s0 s) : Keeps s0 (intentWritten a0 a1 a2 a3 s) := by
  unfold intentWritten
  extract_lets v1
  have hv1 : Keeps s0 v1 := by
    unfold v1
    apply intentDone_keeps
    assumption
  clear_value v1
  split
  · assumption
  · split
    · assumption
    · apply checkLoop_keeps
      split
      · apply loopCleared_keeps
        assumption
      · apply growWritten_keeps
        assumption
      · apply ringsWritten_keeps
        assumption
theorem tryRestore_keeps {s0 s : State} {a0} (h : Keeps s0 s) : Keeps s0 (tryRestore a0 s) := by
  unfold tryRestore
  extract_lets v1 v2
  split
  · assumption
  · apply startRestore_keeps
    apply updHeat_keeps
    assumption
theorem tryCand_keeps {s0 s : State} {a1} (h : Keeps s0 s) : Keeps s0 (tryCand s a1) := by
  unfold tryCand
  split
  · apply tryRestore_keeps
    assumption
  · split
    · assumption
    · split
      · assumption
      · split
        · split
          · apply startSlot_keeps
            apply updHSlot_keeps
            apply State.nextFree_keeps
            assumption
          · assumption
        · assumption
theorem place_keeps {s0 s : State} (h : Keeps s0 s) : Keeps s0 (place s) := by
  unfold place
  apply foldl_keeps
  · intro i1 i2 i3
    apply tryCand_keeps
    assumption
  · assumption
theorem forgetRerun_keeps {s0 s : State} {a0 a1} (h : Keeps s0 s) : Keeps s0 (forgetRerun a0 a1 s) := by
  unfold forgetRerun
  apply updBhs_keeps
  assumption
theorem tryRerun_keeps {s0 s : State} {a1} (h : Keeps s0 s) : Keeps s0 (tryRerun s a1) := by
  unfold tryRerun
  split
  extract_lets v1 v2 v3 v4 v5 v6
  split
  · apply each_keeps
    · apply journalAppend_keeps
      apply forgetRerun_keeps
      assumption
    · intro i1 i2 i3
      apply dropPin_keeps
      assumption
  · split
    · assumption
    · split
      · assumption
      · apply startSlot_keeps
        apply updHSlot_keeps
        apply updBhs_keeps
        apply forgetRerun_keeps
        apply State.nextFree_keeps
        assumption
theorem purgeRestored_keeps {s0 s : State} (h : Keeps s0 s) : Keeps s0 (purgeRestored s) := by
  unfold purgeRestored
  apply updHeat_keeps
  assumption
theorem retryCompose_keeps {s0 s : State} (h : Keeps s0 s) : Keeps s0 (retryCompose s) := by
  unfold retryCompose
  apply each_keeps
  · assumption
  · intro i1 i2 i3
    apply each_keeps
    · assumption
    · intro i4 i5 i6
      extract_lets v1 v2
      split
      · apply tryCompose_keeps
        assumption
      · assumption
theorem heatPlaceOp_keeps {s0 s : State} (h : Keeps s0 s) : Keeps s0 (heatPlaceOp s) := by
  unfold heatPlaceOp
  extract_lets v1 v2 v3
  have hv1 : Keeps s0 v1 := by
    unfold v1
    apply settleOwed_keeps
    apply settlePoison_keeps
    assumption
  clear_value v1
  have hv2 : Keeps s0 v2 := by
    unfold v2
    apply retryCompose_keeps
    apply purgeRestored_keeps
    apply each_keeps
    · assumption
    · intro i1 i2 i3
      apply dueIrqs_keeps
      assumption
  clear_value v2
  have hv3 : Keeps s0 v3 := by
    unfold v3
    apply updHeat_keeps
    assumption
  clear_value v3
  split
  · assumption
  · apply place_keeps
    apply foldl_keeps
    · intro i4 i5 i6
      apply tryRerun_keeps
      assumption
    · assumption
theorem execHeatPlace_keeps {s0 s : State} (h : Keeps s0 s) : KeepsOut s0 (execHeatPlace s) := by
  unfold execHeatPlace
  apply keepsOut_next
  apply heatPlaceOp_keeps
  assumption
theorem sendOutcome_keeps {s0 s : State} {a0 a1} (h : Keeps s0 s) : Keeps s0 (sendOutcome a0 a1 s) := by
  unfold sendOutcome
  extract_lets v1 v2
  have hv1 : Keeps s0 v1 := by
    unfold v1
    apply moveHSlot_keeps
    assumption
  clear_value v1
  apply journalAppend_keeps
  assumption
theorem heatRunDoneOp_keeps {s0 s : State} {a0 a1} (h : Keeps s0 s) : Keeps s0 (heatRunDoneOp a0 a1 s) := by
  unfold heatRunDoneOp
  extract_lets v1 v2 v3
  have hv2 : Keeps s0 v2 := by
    unfold v2
    apply vacateCrew_keeps
    assumption
  clear_value v2
  split
  · assumption
  · split
    · apply sendOutcome_keeps
      assumption
    · apply startPlan_keeps
      apply moveHSlot_keeps
      assumption
theorem execHeatRunDone_keeps {s0 s : State} {a0 a1} (h : Keeps s0 s) : KeepsOut s0 (execHeatRunDone a0 a1 s) := by
  unfold execHeatRunDone
  apply keepsOut_next
  apply heatRunDoneOp_keeps
  assumption
theorem newJob_keeps {s0 s : State} {a0 a1 a2 a3 a4} (h : Keeps s0 s) : Keeps s0 (newJob a0 a1 a2 a3 a4 s) := by
  unfold newJob
  extract_lets v1
  split
  extract_lets v2
  apply keeps_judge
  assumption
theorem requestsWritten_keeps {s0 s : State} {a0 a1 a2} (h : Keeps s0 s) : Keeps s0 (requestsWritten a0 a1 a2 s) := by
  unfold requestsWritten
  extract_lets v1
  have hv1 : Keeps s0 v1 := by
    unfold v1
    apply updHSlot_keeps
    assumption
  clear_value v1
  split
  · assumption
  · split
    · apply settleOwner_keeps
      assumption
    · split
      · apply heatError_keeps
        assumption
      · apply newJob_keeps
        assumption
theorem heatJudgeDoneOp_keeps {s0 s : State} {a0 a1} (h : Keeps s0 s) : Keeps s0 (heatJudgeDoneOp a0 a1 s) := by
  unfold heatJudgeDoneOp
  extract_lets v1 v2 v3
  have hv2 : Keeps s0 v2 := by
    unfold v2
    apply keeps_judge
    assumption
  clear_value v2
  split
  · assumption
  · split
    · assumption
    · split
      · apply settleOwner_keeps
        assumption
      · apply sendOutcome_keeps
        apply updHSlot_keeps
        assumption
theorem execHeatJudgeDone_keeps {s0 s : State} {a0 a1} (h : Keeps s0 s) : KeepsOut s0 (execHeatJudgeDone a0 a1 s) := by
  unfold execHeatJudgeDone
  apply keepsOut_next
  apply heatJudgeDoneOp_keeps
  assumption
theorem addResults_keeps {s0 s : State} {a0 a1 a2} (h : Keeps s0 s) : KeepsQ s0 (addResults a0 a1 a2 s) := by
  induction a2 generalizing s a0 a1
  · unfold addResults
    apply keepsP_mk
    · assumption
    · assumption
  · rename_i n ih
    unfold addResults
    split
    split
    apply keepsP_mk
    · assumption
    · refine KeepsQ.of (ih ?_) (by assumption)
      refine KeepsQ.of (addResult_keeps ?_) (by assumption)
      assumption
theorem endMember_keeps {s0 : State} {r} {a0 a1 a2} (h : KeepsCm s0 r) : KeepsCm s0 (endMember a0 a1 a2 r) := by
  unfold endMember
  extract_lets v1
  split
  split
  extract_lets v2
  have hv2 : Keeps s0 v2 := by
    unfold v2
    apply updSeq_keeps
    refine KeepsQ.of (addResults_keeps ?_) (by assumption)
    refine KeepsQ.of (freeTable_keeps ?_) (by assumption)
    refine KeepsCm.st ?_
    assumption
  clear_value v2
  apply keepsCm_mk
  assumption
theorem commitTokens_keeps {s0 : State} {r} {a0 a1 a2 a3} (h : KeepsCm s0 r) : KeepsCm s0 (commitTokens a0 a1 a2 a3 r) := by
  unfold commitTokens
  extract_lets v1 v2 v3 v4 v5 v6 v7 v8 v9 v10 v11 v12
  have hv8 : Keeps s0 v8 := by
    unfold v8
    apply trimTab_keeps
    refine KeepsCm.st ?_
    assumption
  clear_value v8
  have hv9 : Keeps s0 v9 := by
    unfold v9
    apply updSeq_keeps
    assumption
  clear_value v9
  have hv10 : Keeps s0 v10 := by
    unfold v10
    split
    · assumption
    · apply ergCount_keeps
      assumption
  clear_value v10
  split
  · apply endMember_keeps
    unfold v11
    apply keepsCm_mk
    assumption
  · split
    apply keepsCm_mk
    refine KeepsQ.of (addResults_keeps ?_) (by assumption)
    assumption
theorem commitMember_keeps {s0 : State} {r} {a0 a2} (h : KeepsCm s0 r) : KeepsCm s0 (commitMember a0 r a2) := by
  unfold commitMember
  extract_lets v1
  split
  · apply endMember_keeps
    assumption
  · apply endMember_keeps
    assumption
  · split
    · apply endMember_keeps
      assumption
    · apply commitTokens_keeps
      assumption
  · apply commitTokens_keeps
    assumption
theorem sendDone_keeps {s0 s : State} {a0 a1} (h : Keeps s0 s) : Keeps s0 (sendDone a0 a1 s) := by
  unfold sendDone
  extract_lets v1
  apply journalAppend_keeps
  assumption
theorem startCommit_keeps {s0 s : State} {a0 a1} (h : Keeps s0 s) : Keeps s0 (startCommit a0 a1 s) := by
  unfold startCommit
  apply startPlan_keeps
  assumption
theorem commitHeat_keeps {s0 s : State} {a0 a1} (h : Keeps s0 s) : Keeps s0 (commitHeat a0 a1 s) := by
  unfold commitHeat
  extract_lets v1 v2 v3
  have hv3 : Keeps s0 v3 := by
    unfold v3
    apply updLoop_keeps
    apply updHSlot_keeps
    refine KeepsCm.st ?_
    unfold v2
    apply keepsCm_foldl
    · intro i1 i2 i3
      apply commitMember_keeps
      assumption
    · apply keepsCm_mk
      assumption
  clear_value v3
  apply startCommit_keeps
  apply heatTrace_keeps
  apply ergCount_keeps
  assumption
theorem releaseMembers_keeps {s0 s : State} {a0 a1} (h : Keeps s0 s) : Keeps s0 (releaseMembers a0 a1 s) := by
  unfold releaseMembers
  extract_lets v1 v2
  have hv2 : Keeps s0 v2 := by
    unfold v2
    apply each_keeps
    · apply each_keeps
      · assumption
      · intro i1 i2 i3
        apply unreserve_keeps
        assumption
    · intro i4 i5 i6
      apply updSeq_keeps
      assumption
  clear_value v2
  apply each_keeps
  · apply updHSlot_keeps
    assumption
  · intro i7 i8 i9
    apply retireDue_keeps
    apply updSeq_keeps
    assumption
theorem tryFill_keeps {s0 s : State} {a0} (h : Keeps s0 s) : Keeps s0 (tryFill a0 s) := by
  unfold tryFill
  extract_lets v1 v2 v3
  split
  · assumption
  · extract_lets v4
    apply startFill_keeps
    assumption
theorem spillStarved_keeps {s0 s : State} {a0} (h : Keeps s0 s) : Keeps s0 (spillStarved a0 s) := by
  unfold spillStarved
  extract_lets v1 v2 v3
  split
  · assumption
  · split
    · apply startSpill_keeps
      apply updLoop_keeps
      assumption
    · assumption
theorem kvSpillOp_keeps {s0 s : State} {a0} (h : Keeps s0 s) : Keeps s0 (kvSpillOp a0 s) := by
  unfold kvSpillOp
  extract_lets v1
  have hv1 : Keeps s0 v1 := by
    unfold v1
    apply settlePoison_keeps
    assumption
  clear_value v1
  split
  · assumption
  · apply tryFill_keeps
    apply spillStarved_keeps
    assumption
theorem execKvSpill_keeps {s0 s : State} {a0} (h : Keeps s0 s) : KeepsOut s0 (execKvSpill a0 s) := by
  unfold execKvSpill
  apply keepsOut_next
  apply kvSpillOp_keeps
  assumption
theorem heatCommitOp_keeps {s0 s : State} {a0 a1} (h : Keeps s0 s) : Keeps s0 (heatCommitOp a0 a1 s) := by
  unfold heatCommitOp
  extract_lets v1
  split
  · assumption
  · apply tryFill_keeps
    apply commitHeat_keeps
    assumption
theorem execHeatCommit_keeps {s0 s : State} {a0 a1} (h : Keeps s0 s) : KeepsOut s0 (execHeatCommit a0 a1 s) := by
  unfold execHeatCommit
  apply keepsOut_next
  apply heatCommitOp_keeps
  assumption
theorem commitWritten_keeps {s0 s : State} {a0 a1 a2 a3} (h : Keeps s0 s) : Keeps s0 (commitWritten a0 a1 a2 a3 s) := by
  unfold commitWritten
  extract_lets v1
  have hv1 : Keeps s0 v1 := by
    unfold v1
    apply releaseMembers_keeps
    assumption
  clear_value v1
  apply sendDone_keeps
  split
  · apply ringIrqs_keeps
    assumption
  · apply heatWriteError_keeps
    assumption
theorem heatTimeoutOp_keeps {s0 s : State} {a0 a1} (h : Keeps s0 s) : Keeps s0 (heatTimeoutOp a0 a1 s) := by
  unfold heatTimeoutOp
  extract_lets v1 v2 v3
  split
  · assumption
  · split
    · split
      · assumption
      · apply heatError_keeps
        assumption
    · assumption
theorem execHeatTimeout_keeps {s0 s : State} {a0 a1} (h : Keeps s0 s) : KeepsOut s0 (execHeatTimeout a0 a1 s) := by
  unfold execHeatTimeout
  apply keepsOut_next
  apply heatTimeoutOp_keeps
  assumption
theorem accountingItemOp_keeps {s0 s : State} (h : Keeps s0 s) : Keeps s0 (accountingItemOp s) := by
  unfold accountingItemOp
  extract_lets v1
  split
  · assumption
  · extract_lets v2
    have hv2 : Keeps s0 v2 := by
      unfold v2
      apply keeps_fab
      assumption
    clear_value v2
    split
    · assumption
    · split
      · apply charge_keeps
        assumption
      · split
        · apply updHSlot_keeps
          assumption
        · apply updLoop_keeps
          assumption
theorem execAccountingItem_keeps {s0 s : State} (h : Keeps s0 s) : KeepsOut s0 (execAccountingItem s) := by
  unfold execAccountingItem
  apply keepsOut_next
  apply accountingItemOp_keeps
  assumption
theorem accountingPeriodOp_keeps {s0 s : State} (h : Keeps s0 s) : Keeps s0 (accountingPeriodOp s) := by
  unfold accountingPeriodOp
  extract_lets v1 v2
  have hv2 : Keeps s0 v2 := by
    unfold v2
    apply each_keeps
    · apply updHeat_keeps
      assumption
    · intro i1 i2 i3
      apply updHeat_keeps
      assumption
  clear_value v2
  split
  · assumption
  · apply each_keeps
    · apply updHeat_keeps
      assumption
    · intro i1 i2 i3
      apply dueIrqs_keeps
      assumption
theorem execAccountingPeriod_keeps {s0 s : State} (h : Keeps s0 s) : KeepsOut s0 (execAccountingPeriod s) := by
  unfold execAccountingPeriod
  apply keepsOut_next
  apply accountingPeriodOp_keeps
  assumption
theorem refetchStartOp_keeps {s0 s : State} {a0} (h : Keeps s0 s) : Keeps s0 (refetchStartOp a0 s) := by
  unfold refetchStartOp
  extract_lets v1 v2
  have hv1 : Keeps s0 v1 := by
    unfold v1
    apply settlePoison_keeps
    assumption
  clear_value v1
  split
  · assumption
  · apply beginRefetch_keeps
    apply pauseLoops_keeps
    apply updMem_keeps
    assumption
theorem execRefetchStart_keeps {s0 s : State} {a0} (h : Keeps s0 s) : KeepsOut s0 (execRefetchStart a0 s) := by
  unfold execRefetchStart
  apply keepsOut_next
  apply refetchStartOp_keeps
  assumption
theorem crsStatus_keeps {s0 s : State} {a0 a1} (h : Keeps s0 s) : Keeps s0 (crsStatus a0 a1 s) := by
  unfold crsStatus
  extract_lets v1 v2
  apply updRack_keeps
  assumption
theorem crsInvalid_keeps {s0 s : State} {a0 a1} (h : Keeps s0 s) : Keeps s0 (crsInvalid a0 a1 s) := by
  unfold crsInvalid
  apply crsStatus_keeps
  apply updRack_keeps
  assumption
theorem writeDescriptor_keeps {s0 s : State} {a0 a1} (h : Keeps s0 s) : Keeps s0 (writeDescriptor a0 a1 s) := by
  unfold writeDescriptor
  extract_lets v1 v2
  apply startPlan_keeps
  apply keeps_rack
  assumption
theorem putVersion_keeps {s0 s : State} {a0 a1 a2 a3} (h : Keeps s0 s) : Keeps s0 (putVersion a0 a1 a2 a3 s) := by
  unfold putVersion
  extract_lets v1
  split
  · apply crsStatus_keeps
    assumption
  · extract_lets v2 v3
    have hv2 : Keeps s0 v2 := by
      unfold v2
      apply writeDescriptor_keeps
      apply dropLines_keeps
      refine KeepsE.of (refAddOp_keeps ?_) (by assumption)
      assumption
    clear_value v2
    have hv3 : Keeps s0 v3 := by
      unfold v3
      split
      · split
        · refine KeepsE.of (refSubOp_keeps ?_) (by assumption)
          assumption
        · assumption
      · assumption
    clear_value v3
    apply crsStatus_keeps
    assumption
theorem installBody_keeps {s0 s : State} {a0 a1 a2 a3} (h : Keeps s0 s) : Keeps s0 (installBody a0 a1 a2 a3 s) := by
  unfold installBody
  extract_lets v1 v2
  have hv2 : Keeps s0 v2 := by
    unfold v2
    apply ownRead_keeps
    assumption
  clear_value v2
  split
  · apply crsInvalid_keeps
    assumption
  · split
    · apply targetLost_keeps
      assumption
    · split
      · apply crsInvalid_keeps
        assumption
      · apply putVersion_keeps
        assumption
    · apply crsInvalid_keeps
      split
      · apply poisonMark_keeps
        assumption
      · assumption
theorem courseRecordOp_keeps {s0 s : State} {a0 a1} (h : Keeps s0 s) : Keeps s0 (courseRecordOp a0 a1 s) := by
  unfold courseRecordOp
  split
  · assumption
  · split
    · apply crsStatus_keeps
      assumption
    · split
      · apply crsStatus_keeps
        assumption
      · split
        · apply crsStatus_keeps
          assumption
        · split
          · apply crsStatus_keeps
            assumption
          · apply installBody_keeps
            assumption
theorem execCourseRecord_keeps {s0 s : State} {a0 a1} (h : Keeps s0 s) : KeepsOut s0 (execCourseRecord a0 a1 s) := by
  unfold execCourseRecord
  apply powered_keeps
  · assumption
  · apply courseRecordOp_keeps
    assumption
theorem coursePatchOp_keeps {s0 s : State} {a0 a1} (h : Keeps s0 s) : Keeps s0 (coursePatchOp a0 a1 s) := by
  unfold coursePatchOp
  extract_lets v1
  split
  · assumption
  · split
    · apply crsStatus_keeps
      assumption
    · split
      · apply crsStatus_keeps
        assumption
      · split
        · apply crsStatus_keeps
          assumption
        · split
          · apply crsStatus_keeps
            assumption
          · split
            · apply crsStatus_keeps
              assumption
            · split
              · apply crsStatus_keeps
                assumption
              · split
                · apply crsStatus_keeps
                  assumption
                · apply installBody_keeps
                  assumption
theorem execCoursePatch_keeps {s0 s : State} {a0 a1} (h : Keeps s0 s) : KeepsOut s0 (execCoursePatch a0 a1 s) := by
  unfold execCoursePatch
  apply powered_keeps
  · assumption
  · apply coursePatchOp_keeps
    assumption
theorem courseRetireOp_keeps {s0 s : State} {a0} (h : Keeps s0 s) : Keeps s0 (courseRetireOp a0 s) := by
  unfold courseRetireOp
  extract_lets v1 v2
  have hv2 : Keeps s0 v2 := by
    unfold v2
    apply writeDescriptor_keeps
    assumption
  clear_value v2
  split
  · apply crsStatus_keeps
    assumption
  · split
    · apply crsStatus_keeps
      assumption
    · split
      · apply crsStatus_keeps
        assumption
      · split
        · apply crsStatus_keeps
          assumption
        · apply crsStatus_keeps
          split
          · refine KeepsE.of (refSubOp_keeps ?_) (by assumption)
            assumption
          · assumption
theorem execCourseRetire_keeps {s0 s : State} {a0} (h : Keeps s0 s) : KeepsOut s0 (execCourseRetire a0 s) := by
  unfold execCourseRetire
  apply powered_keeps
  · assumption
  · apply courseRetireOp_keeps
    assumption
theorem courseQueryOp_keeps {s0 s : State} {a0} (h : Keeps s0 s) : Keeps s0 (courseQueryOp a0 s) := by
  unfold courseQueryOp
  split
  · apply crsStatus_keeps
    assumption
  · split
    · apply crsStatus_keeps
      assumption
    · split
      · apply crsStatus_keeps
        assumption
      · apply crsStatus_keeps
        assumption
theorem execCourseQuery_keeps {s0 s : State} {a0} (h : Keeps s0 s) : KeepsOut s0 (execCourseQuery a0 s) := by
  unfold execCourseQuery
  apply powered_keeps
  · assumption
  · apply courseQueryOp_keeps
    assumption
theorem crossHang_keeps {s0 s : State} {a0 a1} (h : Keeps s0 s) : Keeps s0 (crossHang a0 a1 s) := by
  unfold crossHang
  extract_lets v1
  apply hangEv_keeps
  assumption
theorem sendAnswer_keeps {s0 s : State} {a0 a1} (h : Keeps s0 s) : Keeps s0 (sendAnswer a0 a1 s) := by
  unfold sendAnswer
  split
  · apply crossHang_keeps
    apply updStb_keeps
    assumption
  · apply updStb_keeps
    assumption
theorem sendAck_keeps {s0 s : State} {a0} (h : Keeps s0 s) : Keeps s0 (sendAck a0 s) := by
  unfold sendAck
  apply sendAnswer_keeps
  apply updStb_keeps
  assumption
theorem sendReject_keeps {s0 s : State} {a0 a1 a2 a3} (h : Keeps s0 s) : Keeps s0 (sendReject a0 a1 a2 a3 s) := by
  unfold sendReject
  apply sendAnswer_keeps
  assumption
theorem performed_keeps {s0 s : State} {a0 a1 a2} (h : Keeps s0 s) : Keeps s0 (performed a0 a1 a2 s) := by
  unfold performed
  extract_lets v1
  split
  · unfold v1
    apply updStb_keeps
    assumption
  · extract_lets v2
    split
    · split
      · apply sendAck_keeps
        assumption
      · apply updStb_keeps
        assumption
    · unfold v1
      apply updStb_keeps
      apply sendAck_keeps
      assumption
theorem remoteDone_keeps {s0 s : State} {a0 a1 a2 a3 a4 a5 a6 a7} (h : Keeps s0 s) : Keeps s0 (remoteDone a0 a1 a2 a3 a4 a5 a6 a7 s) := by
  unfold remoteDone
  split
  · apply performed_keeps
    apply noteSignal_keeps
    assumption
  · apply sendReject_keeps
    assumption
theorem crossTake_keeps {s0 s : State} {a0 a1 a3} (h : Keeps s0 s) (hf : ∀ t, Keeps s0 t → Keeps s0 (a3 t)) : KeepsOut s0 (crossTake a0 a1 s a3) := by
  unfold crossTake
  split
  · trivial
  · split
    · trivial
    · split
      · apply keepsOut_next
        assumption
      · apply keepsOut_next
        apply hf
        apply crossHang_keeps
        assumption
theorem crossingSignalOp_keeps {s0 s : State} {a0 a1} (h : Keeps s0 s) : Keeps s0 (crossingSignalOp a0 a1 s) := by
  unfold crossingSignalOp
  extract_lets v1 v2 v3 v4 v5 v6 v7 v8
  have hv7 : Keeps s0 v7 := by
    unfold v7
    apply updStb_keeps
    assumption
  clear_value v7
  have hv8 : Keeps s0 v8 := by
    unfold v8
    apply wakeEv_keeps
    assumption
  clear_value v8
  split
  · apply sendReject_keeps
    assumption
  · apply issueAt_keeps
    assumption
theorem execCrossingSignal_keeps {s0 s : State} {a0 a1} (h : Keeps s0 s) : KeepsOut s0 (execCrossingSignal a0 a1 s) := by
  unfold execCrossingSignal
  apply crossTake_keeps
  · assumption
  · intro i1 i2
    apply crossingSignalOp_keeps
    assumption
theorem dropRecord_keeps {s0 s : State} {a0} (h : Keeps s0 s) : Keeps s0 (dropRecord a0 s) := by
  unfold dropRecord
  apply seatEvent_keeps
  apply lessReqs_keeps
  apply leaveOuts_keeps
  assumption
theorem crossingAckOp_keeps {s0 s : State} {a0 a1} (h : Keeps s0 s) : Keeps s0 (crossingAckOp a0 a1 s) := by
  unfold crossingAckOp
  extract_lets v1 v2
  split
  · assumption
  · apply each_keeps
    · assumption
    · intro i1 i2 i3
      apply dropRecord_keeps
      assumption
theorem execCrossingAck_keeps {s0 s : State} {a0 a1} (h : Keeps s0 s) : KeepsOut s0 (execCrossingAck a0 a1 s) := by
  unfold execCrossingAck
  apply crossTake_keeps
  · assumption
  · intro i1 i2
    apply crossingAckOp_keeps
    assumption
theorem failRecord_keeps {s0 s : State} {a0 a1 a2} (h : Keeps s0 s) : Keeps s0 (failRecord a0 a1 a2 s) := by
  unfold failRecord
  extract_lets v1 v2
  have hv1 : Keeps s0 v1 := by
    unfold v1
    apply leaveOuts_keeps
    assumption
  clear_value v1
  apply ownerError_keeps
  apply lessReqs_keeps
  assumption
theorem crossingRejectOp_keeps {s0 s : State} {a0 a1} (h : Keeps s0 s) : Keeps s0 (crossingRejectOp a0 a1 s) := by
  unfold crossingRejectOp
  extract_lets v1 v2
  have hv2 : Keeps s0 v2 := by
    unfold v2
    apply updStb_keeps
    assumption
  clear_value v2
  split
  · assumption
  · split
    · apply failRecord_keeps
      assumption
    · assumption
theorem execCrossingReject_keeps {s0 s : State} {a0 a1} (h : Keeps s0 s) : KeepsOut s0 (execCrossingReject a0 a1 s) := by
  unfold execCrossingReject
  apply crossTake_keeps
  · assumption
  · intro i1 i2
    apply crossingRejectOp_keeps
    assumption
theorem ackFlushOp_keeps {s0 s : State} {a0 a1} (h : Keeps s0 s) : Keeps s0 (ackFlushOp a0 a1 s) := by
  unfold ackFlushOp
  split
  · split
    · apply sendAck_keeps
      assumption
    · assumption
  · assumption
theorem execAckFlush_keeps {s0 s : State} {a0 a1} (h : Keeps s0 s) : KeepsOut s0 (execAckFlush a0 a1 s) := by
  unfold execAckFlush
  apply keepsOut_next
  apply ackFlushOp_keeps
  assumption
theorem resendOp_keeps {s0 s : State} {a0 a1} (h : Keeps s0 s) : Keeps s0 (resendOp a0 a1 s) := by
  unfold resendOp
  split
  · split
    · apply sendSignal_keeps
      assumption
    · assumption
  · assumption
theorem execResend_keeps {s0 s : State} {a0 a1} (h : Keeps s0 s) : KeepsOut s0 (execResend a0 a1 s) := by
  unfold execResend
  apply keepsOut_next
  apply resendOp_keeps
  assumption
theorem giveUpOp_keeps {s0 s : State} {a0 a1} (h : Keeps s0 s) : Keeps s0 (giveUpOp a0 a1 s) := by
  unfold giveUpOp
  split
  · split
    · apply failRecord_keeps
      assumption
    · assumption
  · assumption
theorem execGiveUp_keeps {s0 s : State} {a0 a1} (h : Keeps s0 s) : KeepsOut s0 (execGiveUp a0 a1 s) := by
  unfold execGiveUp
  apply keepsOut_next
  apply giveUpOp_keeps
  assumption
theorem linkDownOp_keeps {s0 s : State} (h : Keeps s0 s) : Keeps s0 (linkDownOp s) := by
  unfold linkDownOp
  extract_lets v1
  split
  · assumption
  · apply logRec_keeps
    apply updStb_keeps
    assumption
theorem execLinkDown_keeps {s0 s : State} (h : Keeps s0 s) : KeepsOut s0 (execLinkDown s) := by
  unfold execLinkDown
  split
  · apply keepsOut_next
    apply linkDownOp_keeps
    assumption
  · trivial
theorem linkResetOp_keeps {s0 s : State} (h : Keeps s0 s) : Keeps s0 (linkResetOp s) := by
  unfold linkResetOp
  extract_lets v1
  split
  · apply crossHang_keeps
    apply updStb_keeps
    assumption
  · assumption
theorem execLinkReset_keeps {s0 s : State} (h : Keeps s0 s) : KeepsOut s0 (execLinkReset s) := by
  unfold execLinkReset
  apply keepsOut_next
  apply linkResetOp_keeps
  assumption
theorem linkUpOp_keeps {s0 s : State} (h : Keeps s0 s) : Keeps s0 (linkUpOp s) := by
  unfold linkUpOp
  extract_lets v1 v2
  have hv1 : Keeps s0 v1 := by
    unfold v1
    apply updStb_keeps
    assumption
  clear_value v1
  have hv2 : Keeps s0 v2 := by
    unfold v2
    apply each_keeps
    · assumption
    · intro i1 i2 i3
      apply sendSignal_keeps
      assumption
  clear_value v2
  split
  · assumption
  · apply each_keeps
    · apply updStb_keeps
      assumption
    · intro i1 i2 i3
      apply sendAnswer_keeps
      assumption
theorem execLinkUp_keeps {s0 s : State} (h : Keeps s0 s) : KeepsOut s0 (execLinkUp s) := by
  unfold execLinkUp
  split
  · trivial
  · split
    · trivial
    · apply powered_keeps
      · assumption
      · split
        · assumption
        · apply linkUpOp_keeps
          assumption
theorem transferTx_keeps {s0 s : State} (h : Keeps s0 s) : Keeps s0 (transferTx s) := by
  unfold transferTx
  split
  · assumption
  · split
    · apply updStb_keeps
      apply State.nextFree_keeps
      assumption
    · apply State.nextFree_keeps
      assumption
theorem keepWfg_keeps {s0 s : State} {a0} (h : Keeps s0 s) : Keeps s0 (keepWfg a0 s) := by
  unfold keepWfg
  apply updUmp_keeps
  · assumption
  · exact fun hd => hd
  · exact fun hd => hd
  · exact fun hd => hd
theorem resolveDeadlock_keeps {s0 s : State} {a1 a2 a3 a4 a5 a6} (h : Keeps s0 s) : Keeps s0 (resolveDeadlock s a1 a2 a3 a4 a5 a6) := by
  unfold resolveDeadlock
  extract_lets v1 v2 v3 v4 v5 v6 v7 v8
  have hv6 : Keeps s0 v6 := by
    unfold v6
    apply keepWfg_keeps
    apply State.nextFree_keeps
    assumption
  clear_value v6
  have hv7 : Keeps s0 v7 := by
    unfold v7
    split
    · assumption
    · apply updWork_keeps
      assumption
  clear_value v7
  apply ownerError_keeps
  assumption
theorem entryTimeoutOp_keeps {s0 s : State} {a0 a1 a2} (h : Keeps s0 s) : Keeps s0 (entryTimeoutOp a0 a1 a2 s) := by
  unfold entryTimeoutOp
  extract_lets v1 v2 v3 v4
  have hv3 : Keeps s0 v3 := by
    unfold v3
    apply updWork_keeps
    assumption
  clear_value v3
  split
  · assumption
  · extract_lets v5
    split
    · split
      · assumption
      · split
        · apply resolveDeadlock_keeps
          assumption
        · apply failSeat_keeps
          apply logRec_keeps
          assumption
    · assumption
theorem execEntryTimeout_keeps {s0 s : State} {a0 a1 a2} (h : Keeps s0 s) : KeepsOut s0 (execEntryTimeout a0 a1 a2 s) := by
  unfold execEntryTimeout
  apply keepsOut_next
  apply entryTimeoutOp_keeps
  assumption
theorem stkEnter_keeps {s0 s : State} {a0} (h : Keeps s0 s) : Keeps s0 (stkEnter a0 s) := by
  unfold stkEnter
  extract_lets v1 v2 v3
  have hv1 : Keeps s0 v1 := by
    unfold v1
    apply updStk_keeps
    assumption
  clear_value v1
  apply State.nextFree_keeps
  apply updStk_keeps
  assumption
theorem stkAfterReset_keeps {s0 s : State} (h : Keeps s0 s) : Keeps s0 (stkAfterReset s) := by
  unfold stkAfterReset
  apply updStk_keeps
  assumption
theorem stkResume_keeps {s0 s : State} (h : Keeps s0 s) : Keeps s0 (stkResume s) := by
  unfold stkResume
  split
  · apply stkEnter_keeps
    assumption
  · assumption
theorem strokeEnableOp_keeps {s0 s : State} {a0} (h : Keeps s0 s) : Keeps s0 (strokeEnableOp a0 s) := by
  unfold strokeEnableOp
  extract_lets v1 v2
  have hv2 : Keeps s0 v2 := by
    unfold v2
    apply updStk_keeps
    split
    · apply settleBuckets_keeps
      assumption
    · assumption
  clear_value v2
  split
  · assumption
  · split
    · assumption
    · split
      · apply stkEnter_keeps
        assumption
      · apply updStk_keeps
        assumption
theorem execStrokeEnable_keeps {s0 s : State} {a0} (h : Keeps s0 s) : KeepsOut s0 (execStrokeEnable a0 s) := by
  unfold execStrokeEnable
  apply powered_keeps
  · assumption
  · apply strokeEnableOp_keeps
    assumption
theorem strokeDisableOp_keeps {s0 s : State} {a0} (h : Keeps s0 s) : Keeps s0 (strokeDisableOp a0 s) := by
  unfold strokeDisableOp
  extract_lets v1 v2
  have hv1 : Keeps s0 v1 := by
    unfold v1
    apply updStk_keeps
    assumption
  clear_value v1
  split
  · assumption
  · apply updStk_keeps
    assumption
theorem execStrokeDisable_keeps {s0 s : State} {a0} (h : Keeps s0 s) : KeepsOut s0 (execStrokeDisable a0 s) := by
  unfold execStrokeDisable
  apply powered_keeps
  · assumption
  · apply strokeDisableOp_keeps
    assumption
theorem strokePeriodOp_keeps {s0 s : State} (h : Keeps s0 s) : Keeps s0 (strokePeriodOp s) := by
  unfold strokePeriodOp
  extract_lets v1 v2 v3 v4 v5
  have hv2 : Keeps s0 v2 := by
    unfold v2
    apply updStk_keeps
    apply settleBuckets_keeps
    assumption
  clear_value v2
  have hv5 : Keeps s0 v5 := by
    unfold v5
    apply updStk_keeps
    assumption
  clear_value v5
  split
  · assumption
  · split
    · apply updStk_keeps
      assumption
    · apply State.nextFree_keeps
      apply updStk_keeps
      assumption
theorem execStrokePeriod_keeps {s0 s : State} (h : Keeps s0 s) : KeepsOut s0 (execStrokePeriod s) := by
  unfold execStrokePeriod
  apply keepsOut_next
  apply strokePeriodOp_keeps
  assumption
theorem telemetrySampleOp_keeps {s0 s : State} {a0 a1} (h : Keeps s0 s) : Keeps s0 (telemetrySampleOp a0 a1 s) := by
  unfold telemetrySampleOp
  split
  · assumption
  · apply updStk_keeps
    assumption
theorem execTelemetrySample_keeps {s0 s : State} {a0 a1} (h : Keeps s0 s) : KeepsOut s0 (execTelemetrySample a0 a1 s) := by
  unfold execTelemetrySample
  apply keepsOut_next
  apply telemetrySampleOp_keeps
  assumption
theorem telemetryStaleOp_keeps {s0 s : State} {a0} (h : Keeps s0 s) : Keeps s0 (telemetryStaleOp a0 s) := by
  unfold telemetryStaleOp
  extract_lets v1 v2 v3
  have hv2 : Keeps s0 v2 := by
    unfold v2
    apply updStk_keeps
    assumption
  clear_value v2
  split
  · assumption
  · split
    · apply logRec_keeps
      assumption
    · assumption
theorem execTelemetryStale_keeps {s0 s : State} {a0} (h : Keeps s0 s) : KeepsOut s0 (execTelemetryStale a0 s) := by
  unfold execTelemetryStale
  apply keepsOut_next
  apply telemetryStaleOp_keeps
  assumption
theorem alertBeginOp_keeps {s0 s : State} {a0} (h : Keeps s0 s) : Keeps s0 (alertBeginOp a0 s) := by
  unfold alertBeginOp
  extract_lets v1 v2
  have hv2 : Keeps s0 v2 := by
    unfold v2
    split
    · assumption
    · apply updStk_keeps
      apply settleBuckets_keeps
      assumption
  clear_value v2
  split
  · assumption
  · apply updStk_keeps
    assumption
theorem execAlertBegin_keeps {s0 s : State} {a0} (h : Keeps s0 s) : KeepsOut s0 (execAlertBegin a0 s) := by
  unfold execAlertBegin
  apply keepsOut_next
  apply alertBeginOp_keeps
  assumption
theorem alertEndOp_keeps {s0 s : State} {a0} (h : Keeps s0 s) : Keeps s0 (alertEndOp a0 s) := by
  unfold alertEndOp
  extract_lets v1
  split
  · assumption
  · apply updStk_keeps
    apply settleBuckets_keeps
    assumption
theorem execAlertEnd_keeps {s0 s : State} {a0} (h : Keeps s0 s) : KeepsOut s0 (execAlertEnd a0 s) := by
  unfold execAlertEnd
  apply keepsOut_next
  apply alertEndOp_keeps
  assumption
theorem stuckAlertOp_keeps {s0 s : State} {a0} (h : Keeps s0 s) : Keeps s0 (stuckAlertOp a0 s) := by
  unfold stuckAlertOp
  extract_lets v1 v2
  split
  · assumption
  · apply logRec_keeps
    apply updStk_keeps
    assumption
theorem execStuckAlert_keeps {s0 s : State} {a0} (h : Keeps s0 s) : KeepsOut s0 (execStuckAlert a0 s) := by
  unfold execStuckAlert
  apply keepsOut_next
  apply stuckAlertOp_keeps
  assumption
theorem alertUnstuckOp_keeps {s0 s : State} {a0} (h : Keeps s0 s) : Keeps s0 (alertUnstuckOp a0 s) := by
  unfold alertUnstuckOp
  extract_lets v1
  split
  · assumption
  · apply updStk_keeps
    assumption
theorem execAlertUnstuck_keeps {s0 s : State} {a0} (h : Keeps s0 s) : KeepsOut s0 (execAlertUnstuck a0 s) := by
  unfold execAlertUnstuck
  apply keepsOut_next
  apply alertUnstuckOp_keeps
  assumption
theorem timeRec_keeps {s0 s : State} {a0 a1} (h : Keeps s0 s) : Keeps s0 (timeRec a0 a1 s) := by
  unfold timeRec
  extract_lets v1 v2
  split
  · assumption
  · apply writeFull_keeps
    apply updStream_keeps
    assumption
theorem timeRecs_keeps {s0 s : State} {a0} (h : Keeps s0 s) : Keeps s0 (timeRecs a0 s) := by
  unfold timeRecs
  apply each_keeps
  · assumption
  · intro i1 i2 i3
    apply timeRec_keeps
    assumption
theorem timeRecordOp_keeps {s0 s : State} {a0} (h : Keeps s0 s) : Keeps s0 (timeRecordOp a0 s) := by
  unfold timeRecordOp
  split
  · assumption
  · apply timeRec_keeps
    assumption
theorem execTimeRecord_keeps {s0 s : State} {a0} (h : Keeps s0 s) : KeepsOut s0 (execTimeRecord a0 s) := by
  unfold execTimeRecord
  apply keepsOut_next
  apply timeRecordOp_keeps
  assumption
theorem execTimeLock_keeps {s0 s : State} (h : Keeps s0 s) : KeepsOut s0 (execTimeLock s) := by
  unfold execTimeLock
  apply keepsOut_next
  split
  · apply updTkp_keeps
    · assumption
    · rfl
  · assumption
theorem capture_keeps {s0 s : State} {a0} (h : Keeps s0 s) : Keeps s0 (capture a0 s) := by
  unfold capture
  apply updTkp_keeps
  · assumption
  · rfl
theorem tsPulseOp_keeps {s0 s : State} (h : Keeps s0 s) : Keeps s0 (tsPulseOp s) := by
  unfold tsPulseOp
  split
  · exact h
  · have h1 : Keeps s0 (updTkp (fun t => { t with lastPulse := some s.now }) s) := updTkp_keeps h (Nat.le_refl _)
    dsimp only
    split
    · exact h1
    · split
      · exact h1
      · have h2 : Keeps s0 (updTkp (fun k => { k with cfg := setFld k.cfg 0 2 1 })
            (updTkp (fun t => { t with lastPulse := some s.now }) s)) := updTkp_keeps h1 (Nat.le_refl _)
        split
        · next hl =>
          refine timeRecs_keeps (updTkp_keeps (capture_keeps h2) ?_)
          simp only [capture, updTkp, State.now] at hl ⊢
          omega
        · exact logRec_keeps (updTkp_keeps h2 (Nat.le_refl _))
      · exact capture_keeps h1
theorem execTsPulse_keeps {s0 s : State} (h : Keeps s0 s) : KeepsOut s0 (execTsPulse s) := by
  unfold execTsPulse
  apply keepsOut_next
  apply tsPulseOp_keeps
  assumption
theorem setInput_keeps {s0 s : State} {a0 a1 a2} (h : Keeps s0 s) : Keeps s0 (setInput a0 a1 a2 s) := by
  unfold setInput
  split
  · apply updTkp_keeps
    · assumption
    · rfl
  · apply updErg_keeps
    assumption
  · apply updErg_keeps
    assumption
theorem stuckInputOp_keeps {s0 s : State} {a0} (h : Keeps s0 s) : Keeps s0 (stuckInputOp a0 s) := by
  unfold stuckInputOp
  extract_lets v1
  split
  · assumption
  · split
    · assumption
    · split
      · assumption
      · apply logRec_keeps
        apply setInput_keeps
        assumption
theorem execStuckInput_keeps {s0 s : State} {a0} (h : Keeps s0 s) : KeepsOut s0 (execStuckInput a0 s) := by
  unfold execStuckInput
  apply keepsOut_next
  apply stuckInputOp_keeps
  assumption
theorem inputUnstuckOp_keeps {s0 s : State} {a0} (h : Keeps s0 s) : Keeps s0 (inputUnstuckOp a0 s) := by
  unfold inputUnstuckOp
  split
  · assumption
  · split
    · split
      · assumption
      · apply setInput_keeps
        assumption
    · apply setInput_keeps
      assumption
theorem execInputUnstuck_keeps {s0 s : State} {a0} (h : Keeps s0 s) : KeepsOut s0 (execInputUnstuck a0 s) := by
  unfold execInputUnstuck
  apply keepsOut_next
  apply inputUnstuckOp_keeps
  assumption
theorem streamEnableOp_keeps {s0 s : State} {a0} (h : Keeps s0 s) : Keeps s0 (streamEnableOp a0 s) := by
  unfold streamEnableOp
  extract_lets v1 v2
  have hv2 : Keeps s0 v2 := by
    unfold v2
    apply updStream_keeps
    assumption
  clear_value v2
  split
  · assumption
  · split
    · assumption
    · apply timeRec_keeps
      apply updStream_keeps
      assumption
theorem execStreamEnable_keeps {s0 s : State} {a0} (h : Keeps s0 s) : KeepsOut s0 (execStreamEnable a0 s) := by
  unfold execStreamEnable
  apply powered_keeps
  · assumption
  · apply streamEnableOp_keeps
    assumption
theorem flushAll_keeps {s0 s : State} {a0 a1} (h : Keeps s0 s) : Keeps s0 (flushAll a0 a1 s) := by
  induction a1 generalizing s a0
  · unfold flushAll
    assumption
  · rename_i n ih
    unfold flushAll
    split
    · assumption
    · apply ih
      apply writeBlock_keeps
      assumption
theorem streamDisableOp_keeps {s0 s : State} {a0} (h : Keeps s0 s) : Keeps s0 (streamDisableOp a0 s) := by
  unfold streamDisableOp
  extract_lets v1
  split
  · assumption
  · split
    · apply updStream_keeps
      apply flushAll_keeps
      assumption
    · apply updStream_keeps
      assumption
theorem streamConsumedOp_keeps {s0 s : State} {a0} (h : Keeps s0 s) : Keeps s0 (streamConsumedOp a0 s) := by
  unfold streamConsumedOp
  split
  · assumption
  · apply updStream_keeps
    assumption
theorem execStreamConsumed_keeps {s0 s : State} {a0} (h : Keeps s0 s) : KeepsOut s0 (execStreamConsumed a0 s) := by
  unfold execStreamConsumed
  apply powered_keeps
  · assumption
  · apply streamConsumedOp_keeps
    assumption
theorem traceFlushOp_keeps {s0 s : State} {a0} (h : Keeps s0 s) : Keeps s0 (traceFlushOp a0 s) := by
  unfold traceFlushOp
  split
  · assumption
  · split
    · assumption
    · split
      · assumption
      · apply writeBlock_keeps
        assumption
theorem execTraceFlush_keeps {s0 s : State} {a0} (h : Keeps s0 s) : KeepsOut s0 (execTraceFlush a0 s) := by
  unfold execTraceFlush
  apply keepsOut_next
  apply traceFlushOp_keeps
  assumption
theorem statusLinePublishOp_keeps {s0 s : State} {a0} (h : Keeps s0 s) : Keeps s0 (statusLinePublishOp a0 s) := by
  unfold statusLinePublishOp
  extract_lets v1
  split
  · assumption
  · apply updStream_keeps
    apply issueNm_keeps
    assumption
theorem execStatusLinePublish_keeps {s0 s : State} {a0} (h : Keeps s0 s) : KeepsOut s0 (execStatusLinePublish a0 s) := by
  unfold execStatusLinePublish
  apply keepsOut_next
  apply statusLinePublishOp_keeps
  assumption
theorem traceError_keeps {s0 s : State} {a0 a1 a2} (h : Keeps s0 s) : Keeps s0 (traceError a0 a1 a2 s) := by
  unfold traceError
  extract_lets v1
  apply logRec_keeps
  apply updStream_keeps
  assumption
theorem execWkResponse_keeps {s0 s : State} {a0 a1} (h : Keeps s0 s) : KeepsOut s0 (execWkResponse a0 a1 s) := by
  unfold execWkResponse
  extract_lets v1
  have hv1 : Keeps s0 v1 := by
    unfold v1
    apply rspEv_keeps
    assumption
  clear_value v1
  split
  · trivial
  · extract_lets v2 v3
    have hv3 : Keeps s0 v3 := by
      unfold v3
      apply updStream_keeps
      assumption
    clear_value v3
    split
    · trivial
    · split
      · apply keepsOut_next
        apply targetLost_keeps
        unfold v2
        apply updStream_keeps
        assumption
      · split
        · apply keepsOut_next
          unfold v2
          apply updStream_keeps
          assumption
        · split
          · apply keepsOut_next
            apply updStream_keeps
            unfold v2
            apply updStream_keeps
            assumption
          · split
            · apply keepsOut_next
              apply traceError_keeps
              unfold v2
              apply updStream_keeps
              assumption
            · apply keepsOut_next
              apply writeFull_keeps
              assumption
theorem wakeReset_keeps {s0 s : State} (h : Keeps s0 s) : Keeps s0 (wakeReset s) := by
  unfold wakeReset
  apply each_keeps
  · assumption
  · intro i1 i2 i3
    apply updStream_keeps
    assumption
theorem wakeResetEnd_keeps {s0 s : State} (h : Keeps s0 s) : Keeps s0 (wakeResetEnd s) := by
  unfold wakeResetEnd
  extract_lets v1
  apply timeRecs_keeps
  apply each_keeps
  · assumption
  · intro i1 i2 i3
    unfold v1
    extract_lets v2 v3
    split
    · assumption
    · apply writeFull_keeps
      apply updStream_keeps
      assumption
theorem sampleCounter_keeps {s0 s : State} {a1} (h : Keeps s0 s) : Keeps s0 (sampleCounter s a1) := by
  unfold sampleCounter
  extract_lets v1 v2
  split
  · split
    · assumption
    · extract_lets v3
      have hv3 : Keeps s0 v3 := by
        unfold v3
        apply ctrTake_keeps
        assumption
      clear_value v3
      apply updErg_keeps
      assumption
  · split
    · assumption
    · apply updErg_keeps
      assumption
theorem sampleHist_keeps {s0 s : State} {a1} (h : Keeps s0 s) : Keeps s0 (sampleHist s a1) := by
  unfold sampleHist
  extract_lets v1
  split
  · split
    · apply histOne_keeps
      assumption
    · assumption
  · assumption
theorem counterRecs_keeps {s0 s : State} {a0 a2} (h : Keeps s0 s) : Keeps s0 (counterRecs a0 s a2) := by
  unfold counterRecs
  extract_lets v1 v2 v3 v4
  split
  · assumption
  · apply each_keeps
    · assumption
    · intro i1 i2 i3
      unfold v4
      apply wakeOne_keeps
      assumption
theorem publishCounter_keeps {s0 s : State} {a1} (h : Keeps s0 s) : Keeps s0 (publishCounter s a1) := by
  unfold publishCounter
  extract_lets v1
  split
  · apply issueNm_keeps
    assumption
  · assumption
theorem sampleIntervalOp_keeps {s0 s : State} (h : Keeps s0 s) : Keeps s0 (sampleIntervalOp s) := by
  unfold sampleIntervalOp
  extract_lets v1 v2 v3
  have hv1 : Keeps s0 v1 := by
    unfold v1
    split
    · apply each_keeps
      · apply each_keeps
        · assumption
        · intro i1 i2 i3
          apply sampleCounter_keeps
          assumption
      · intro i4 i5 i6
        apply sampleHist_keeps
        assumption
    · assumption
  clear_value v1
  have hv2 : Keeps s0 v2 := by
    unfold v2
    apply updErg_keeps
    assumption
  clear_value v2
  have hv3 : Keeps s0 v3 := by
    unfold v3
    split
    · apply each_keeps
      · assumption
      · intro i4 i5 i6
        apply counterRecs_keeps
        assumption
    · assumption
  clear_value v3
  split
  · assumption
  · apply each_keeps
    · assumption
    · intro i7 i8 i9
      apply publishCounter_keeps
      assumption
theorem execSampleInterval_keeps {s0 s : State} (h : Keeps s0 s) : KeepsOut s0 (execSampleInterval s) := by
  unfold execSampleInterval
  apply keepsOut_next
  apply sampleIntervalOp_keeps
  assumption
theorem ctrCfgWrite_keeps {s0 s : State} {a0} (h : Keeps s0 s) : Keeps s0 (ctrCfgWrite a0 s) := by
  unfold ctrCfgWrite
  extract_lets v1 v2
  split
  · assumption
  · apply updErg_keeps
    assumption
theorem pubEnableOp_keeps {s0 s : State} {a0} (h : Keeps s0 s) : Keeps s0 (pubEnableOp a0 s) := by
  unfold pubEnableOp
  apply ctrCfgWrite_keeps
  assumption
theorem execPubEnable_keeps {s0 s : State} {a0} (h : Keeps s0 s) : KeepsOut s0 (execPubEnable a0 s) := by
  unfold execPubEnable
  apply powered_keeps
  · assumption
  · apply pubEnableOp_keeps
    assumption
theorem pubError_keeps {s0 s : State} {a0 a1} (h : Keeps s0 s) : Keeps s0 (pubError a0 a1 s) := by
  unfold pubError
  extract_lets v1
  apply logRec_keeps
  apply updErg_keeps
  assumption
theorem ctrValueWrite_keeps {s0 s : State} {a0} (h : Keeps s0 s) : Keeps s0 (ctrValueWrite a0 s) := by
  unfold ctrValueWrite
  extract_lets v1
  apply ctrTake_keeps
  apply updErg_keeps
  assumption
theorem freezeFields_keeps {s0 s : State} {a0} (h : Keeps s0 s) : Keeps s0 (freezeFields a0 s) := by
  unfold freezeFields
  apply updErg_keeps
  assumption
theorem freezeStartOp_keeps {s0 s : State} {a0} (h : Keeps s0 s) : Keeps s0 (freezeStartOp a0 s) := by
  unfold freezeStartOp
  split
  · assumption
  · apply freezeStart_keeps
    apply freezeFields_keeps
    assumption
theorem execFreezeStart_keeps {s0 s : State} {a0} (h : Keeps s0 s) : KeepsOut s0 (execFreezeStart a0 s) := by
  unfold execFreezeStart
  apply powered_keeps
  · assumption
  · apply freezeStartOp_keeps
    assumption
theorem freezeEndOp_keeps {s0 s : State} {a0} (h : Keeps s0 s) : Keeps s0 (freezeEndOp a0 s) := by
  unfold freezeEndOp
  extract_lets v1
  have hv1 : Keeps s0 v1 := by
    unfold v1
    apply freezeFields_keeps
    assumption
  clear_value v1
  split
  · assumption
  · split
    · apply updErg_keeps
      assumption
    · assumption
theorem execFreezeEnd_keeps {s0 s : State} {a0} (h : Keeps s0 s) : KeepsOut s0 (execFreezeEnd a0 s) := by
  unfold execFreezeEnd
  apply powered_keeps
  · assumption
  · apply freezeEndOp_keeps
    assumption
theorem freezeStreams_keeps {s0 s : State} {a0} (h : Keeps s0 s) : Keeps s0 (freezeStreams a0 s) := by
  unfold freezeStreams
  apply each_keeps
  · assumption
  · intro i1 i2 i3
    split
    · assumption
    · split
      · apply updStream_keeps
        apply flushAll_keeps
        assumption
      · apply timeRec_keeps
        apply updStream_keeps
        assumption
theorem freezeInstantOp_keeps {s0 s : State} (h : Keeps s0 s) : Keeps s0 (freezeInstantOp s) := by
  unfold freezeInstantOp
  extract_lets v1
  split
  · assumption
  · split
    · split
      · apply freezeStreams_keeps
        apply updErg_keeps
        assumption
      · assumption
    · split
      · assumption
      · apply freezeStreams_keeps
        apply updErg_keeps
        assumption
theorem execFreezeInstant_keeps {s0 s : State} (h : Keeps s0 s) : KeepsOut s0 (execFreezeInstant s) := by
  unfold execFreezeInstant
  apply keepsOut_next
  apply freezeInstantOp_keeps
  assumption
theorem trigInOp_keeps {s0 s : State} {a0} (h : Keeps s0 s) : Keeps s0 (trigInOp a0 s) := by
  unfold trigInOp
  extract_lets v1 v2
  have hv2 : Keeps s0 v2 := by
    unfold v2
    apply setInput_keeps
    assumption
  clear_value v2
  split
  · assumption
  · split
    · apply freezeStart_keeps
      assumption
    · assumption
theorem execTrigIn_keeps {s0 s : State} {a0} (h : Keeps s0 s) : KeepsOut s0 (execTrigIn a0 s) := by
  unfold execTrigIn
  apply keepsOut_next
  apply trigInOp_keeps
  assumption
theorem ergCfgWrite_keeps {s0 s : State} {a0} (h : Keeps s0 s) : Keeps s0 (ergCfgWrite a0 s) := by
  unfold ergCfgWrite
  split
  · assumption
  · apply updErg_keeps
    assumption
theorem trig1ClearOp_keeps {s0 s : State} {a0} (h : Keeps s0 s) : Keeps s0 (trig1ClearOp a0 s) := by
  unfold trig1ClearOp
  apply ergCfgWrite_keeps
  assumption
theorem execTrig1Clear_keeps {s0 s : State} {a0} (h : Keeps s0 s) : KeepsOut s0 (execTrig1Clear a0 s) := by
  unfold execTrig1Clear
  apply powered_keeps
  · assumption
  · apply trig1ClearOp_keeps
    assumption
theorem updJJob_keeps {s0 s : State} {a0 a1} (h : Keeps s0 s) : Keeps s0 (updJJob a0 a1 s) := by
  unfold updJJob
  apply updJudge_keeps
  assumption
theorem reportJob_keeps {s0 s : State} {a0} (h : Keeps s0 s) : Keeps s0 (reportJob a0 s) := by
  unfold reportJob
  split
  · apply seatEvent_keeps
    apply subGroup_keeps
    assumption
  · split
    · apply settleOwner_keeps
      assumption
    · apply updJudge_keeps
      assumption
theorem finishJob_keeps {s0 s : State} {a0} (h : Keeps s0 s) : Keeps s0 (finishJob a0 s) := by
  unfold finishJob
  split
  · assumption
  · split
    · assumption
    · apply reportJob_keeps
      apply updJudge_keeps
      assumption
theorem abandonJobs_keeps {s0 s : State} (h : Keeps s0 s) : Keeps s0 (abandonJobs s) := by
  unfold abandonJobs
  apply each_keeps
  · assumption
  · intro i1 i2 i3
    apply finishJob_keeps
    apply updJJob_keeps
    assumption
theorem judgeWord_keeps {s0 s : State} {a0 a1 a2 a3} (h : Keeps s0 s) : Keeps s0 (judgeWord a0 a1 a2 a3 s) := by
  unfold judgeWord
  extract_lets v1 v2 v3 v4
  split
  · apply wordFailAt_keeps
    assumption
  · split
    · apply stallCore_keeps
      assumption
    · apply stallCore_keeps
      apply newJob_keeps
      apply addGroup_keeps
      assumption
theorem execWJudge_keeps {s0 s : State} {a0} (h : Keeps s0 s) : KeepsOut s0 (execWJudge a0 s) := by
  unfold execWJudge
  apply keepsOut_next
  apply runWord_keeps
  · assumption
  · intro i1 i2 i3 i4 i5 i6
    apply judgeWord_keeps
    assumption
theorem judgeAccepted_keeps {s0 s : State} {a0} (h : Keeps s0 s) : Keeps s0 (judgeAccepted a0 s) := by
  unfold judgeAccepted
  split
  · assumption
  · split
    · split
      · apply advance_keeps
        apply runCore_keeps
        assumption
      · assumption
    · assumption
theorem dropSubmission_keeps {s0 s : State} {a1} (h : Keeps s0 s) : Keeps s0 (dropSubmission s a1) := by
  unfold dropSubmission
  apply reportJob_keeps
  apply updJudge_keeps
  assumption
theorem judgeJobAcceptOp_keeps {s0 s : State} (h : Keeps s0 s) : Keeps s0 (judgeJobAcceptOp s) := by
  unfold judgeJobAcceptOp
  extract_lets v1
  have hv1 : Keeps s0 v1 := by
    unfold v1
    apply foldl_keeps
    · intro i1 i2 i3
      apply dropSubmission_keeps
      assumption
    · assumption
  clear_value v1
  split
  · assumption
  · split
    · assumption
    · split
      · assumption
      · apply judgeAccepted_keeps
        apply updJudge_keeps
        assumption
theorem execJudgeJobAccept_keeps {s0 s : State} (h : Keeps s0 s) : KeepsOut s0 (execJudgeJobAccept s) := by
  unfold execJudgeJobAccept
  apply keepsOut_next
  apply judgeJobAcceptOp_keeps
  assumption
theorem issueWide_keeps {s0 s : State} {a0 a1} (h : Keeps s0 s) : Keeps s0 (issueWide a0 a1 s) := by
  refine each_keeps (updJJob_keeps h) fun t b ht => hangEv_keeps (updPorts_keeps ht fun ⟨a, b, c, d⟩ => ⟨a, b, c, nodup_snoc d ?_⟩)
  rfl
theorem endRequest_keeps {s0 s : State} {a0 a1 a2 a3 a4} (h : Keeps s0 s) : Keeps s0 (endRequest a0 a1 a2 a3 a4 s) := by
  unfold endRequest
  extract_lets v1 v2 v3
  have hv1 : Keeps s0 v1 := by
    unfold v1
    apply updJJob_keeps
    assumption
  clear_value v1
  have hv2 : Keeps s0 v2 := by
    unfold v2
    apply updJudge_keeps
    assumption
  clear_value v2
  have hv3 : Keeps s0 v3 := by
    unfold v3
    split
    · assumption
    · apply ergCount_keeps
      assumption
  clear_value v3
  apply startPlan_keeps
  assumption
theorem workRequest_keeps {s0 s : State} {a0} (h : Keeps s0 s) : Keeps s0 (workRequest a0 s) := by
  unfold workRequest
  split
  · apply startFetch_keeps
    apply updJJob_keeps
    assumption
  · apply issueWide_keeps
    assumption
  · apply endRequest_keeps
    assumption
  · apply endRequest_keeps
    assumption
theorem judgeRequestOp_keeps {s0 s : State} (h : Keeps s0 s) : Keeps s0 (judgeRequestOp s) := by
  unfold judgeRequestOp
  extract_lets v1
  have hv1 : Keeps s0 v1 := by
    unfold v1
    apply abandonJobs_keeps
    assumption
  clear_value v1
  split
  · assumption
  · split
    · assumption
    · extract_lets v2
      split
      · assumption
      · split
        · apply workRequest_keeps
          assumption
        · apply workRequest_keeps
          apply updJJob_keeps
          apply State.nextFree_keeps
          assumption
theorem execJudgeRequest_keeps {s0 s : State} (h : Keeps s0 s) : KeepsOut s0 (execJudgeRequest s) := by
  unfold execJudgeRequest
  apply keepsOut_next
  apply judgeRequestOp_keeps
  assumption
theorem judgeError_keeps {s0 s : State} {a0 a1 a2} (h : Keeps s0 s) : Keeps s0 (judgeError a0 a1 a2 s) := by
  unfold judgeError
  extract_lets v1 v2
  have hv1 : Keeps s0 v1 := by
    unfold v1
    apply updJJob_keeps
    assumption
  clear_value v1
  split
  · assumption
  · extract_lets v3
    have hv3 : Keeps s0 v3 := by
      unfold v3
      split
      · assumption
      · apply ownerError_keeps
        assumption
    clear_value v3
    apply finishJob_keeps
    assumption
theorem judgeRead_keeps {s0 s : State} {a0 a1} (h : Keeps s0 s) : Keeps s0 (judgeRead a0 a1 s) := by
  unfold judgeRead
  extract_lets v1
  have hv1 : Keeps s0 v1 := by
    unfold v1
    apply updJJob_keeps
    assumption
  clear_value v1
  split
  · apply finishJob_keeps
    assumption
  · apply judgeError_keeps
    assumption
theorem judgeWide_keeps {s0 s : State} {a0} (h : Keeps s0 s) : Keeps s0 (judgeWide a0 s) := by
  unfold judgeWide
  extract_lets v1
  have hv1 : Keeps s0 v1 := by
    unfold v1
    apply updJJob_keeps
    assumption
  clear_value v1
  split
  · apply finishJob_keeps
    assumption
  · apply judgeError_keeps
    assumption
theorem judgeResultDone_keeps {s0 s : State} {a0 a1 a2} (h : Keeps s0 s) : Keeps s0 (judgeResultDone a0 a1 a2 s) := by
  unfold judgeResultDone
  extract_lets v1
  have hv1 : Keeps s0 v1 := by
    unfold v1
    apply updJJob_keeps
    assumption
  clear_value v1
  split
  · apply finishJob_keeps
    assumption
  · apply judgeError_keeps
    assumption

end Sys2Proof.Machine
end

