-- ==== Sys2Proof/Laws/KeepsChip.lean ====
section
/-! SUPPORT. What `Keeps` says, operation by operation: dumps, watchdogs, resets, Rigger, registers and responses. -/
namespace Sys2Proof.Machine

theorem dumpWritten_keeps {s0 s : State} {a0 a1 a2} (h : Keeps s0 s) : Keeps s0 (dumpWritten a0 a1 a2 s) := by
  unfold dumpWritten
  extract_lets v1
  split
  · assumption
  · split
    · apply logRec_keeps
      apply nextDump_keeps
      assumption
    · split
      · apply startPlan_keeps
        assumption
      · split
        · apply startPlan_keeps
          assumption
        · apply nextDump_keeps
          assumption
theorem dumpRequestOp_keeps {s0 s : State} (h : Keeps s0 s) : Keeps s0 (dumpRequestOp s) := by
  unfold dumpRequestOp
  split
  · assumption
  · apply startDump_keeps
    assumption
theorem execDumpRequest_keeps {s0 s : State} (h : Keeps s0 s) : KeepsOut s0 (execDumpRequest s) := by
  unfold execDumpRequest
  apply keepsOut_next
  apply dumpRequestOp_keeps
  assumption
theorem logFreeOp_keeps {s0 s : State} {a0} (h : Keeps s0 s) : Keeps s0 (logFreeOp a0 s) := by
  refine each_keeps h fun t i ht => updUmp_keeps ht id id fun hl => ?_
  unfold LastSlotFive
  simp only [tab_get_upd]
  split
  · intro hv; cases hv
  · exact hl
theorem execLogFree_keeps {s0 s : State} {a0} (h : Keeps s0 s) : KeepsOut s0 (execLogFree a0 s) := by
  unfold execLogFree
  apply powered_keeps
  · assumption
  · apply logFreeOp_keeps
    assumption
theorem logStatusReadOp_keeps {s0 s : State} (h : Keeps s0 s) : Keeps s0 (logStatusReadOp s) := by
  unfold logStatusReadOp
  apply updPorts_keeps
  · apply updUmp_keeps
    · assumption
    · exact fun hd => hd
    · exact fun hd => hd
    · exact fun hd => hd
  · exact fun hd => hd
theorem execLogStatusRead_keeps {s0 s : State} (h : Keeps s0 s) : KeepsOut s0 (execLogStatusRead s) := by
  unfold execLogStatusRead
  apply powered_keeps
  · assumption
  · apply logStatusReadOp_keeps
    assumption
theorem engineWatchdogOp_keeps {s0 s : State} {a0 a1} (h : Keeps s0 s) : Keeps s0 (engineWatchdogOp a0 a1 s) := by
  unfold engineWatchdogOp
  extract_lets v1 v2 v3
  split
  · assumption
  · apply raise4_keeps
    assumption
theorem execEngineWatchdog_keeps {s0 s : State} {a0 a1} (h : Keeps s0 s) : KeepsOut s0 (execEngineWatchdog a0 a1 s) := by
  unfold execEngineWatchdog
  apply keepsOut_next
  apply engineWatchdogOp_keeps
  assumption
theorem unitWatchdogOp_keeps {s0 s : State} {a0} (h : Keeps s0 s) : Keeps s0 (unitWatchdogOp a0 s) := by
  unfold unitWatchdogOp
  extract_lets v1
  split
  · assumption
  · apply raise4_keeps
    assumption
theorem execUnitWatchdog_keeps {s0 s : State} {a0} (h : Keeps s0 s) : KeepsOut s0 (execUnitWatchdog a0 s) := by
  unfold execUnitWatchdog
  apply keepsOut_next
  apply unitWatchdogOp_keeps
  assumption
theorem firmwareHeartbeatOp_keeps {s0 s : State} (h : Keeps s0 s) : Keeps s0 (firmwareHeartbeatOp s) := by
  unfold firmwareHeartbeatOp
  split
  · apply updUmp_keeps
    · assumption
    · exact fun hd => hd
    · exact fun hd => hd
    · exact fun hd => hd
  · assumption
theorem execFirmwareHeartbeat_keeps {s0 s : State} (h : Keeps s0 s) : KeepsOut s0 (execFirmwareHeartbeat s) := by
  unfold execFirmwareHeartbeat
  apply keepsOut_next
  apply firmwareHeartbeatOp_keeps
  assumption
theorem firmwareWatchdogOp_keeps {s0 s : State} (h : Keeps s0 s) : Keeps s0 (firmwareWatchdogOp s) := by
  unfold firmwareWatchdogOp
  extract_lets v1
  split
  · assumption
  · apply raise5_keeps
    assumption
theorem execFirmwareWatchdog_keeps {s0 s : State} (h : Keeps s0 s) : KeepsOut s0 (execFirmwareWatchdog s) := by
  unfold execFirmwareWatchdog
  apply keepsOut_next
  apply firmwareWatchdogOp_keeps
  assumption
theorem markLate_keeps {s0 s : State} {a0 a1 a2} (h : Keeps s0 s) : Keeps s0 (markLate a0 a1 a2 s) := by
  unfold markLate
  split
  · exact updPorts_keeps h fun ⟨a, b⟩ => ⟨nodup_map a fun q => by split <;> rfl, b⟩
  · exact updPorts_keeps h fun ⟨a, b, c, d⟩ => ⟨a, b, nodup_map c fun q => by split <;> rfl, d⟩
  · exact updPorts_keeps h fun ⟨a, b, c⟩ => ⟨a, nodup_map b fun q => by split <;> rfl, c⟩
  · exact updPorts_keeps h fun ⟨a, b, c, d⟩ => ⟨a, b, c, nodup_map d fun q => by split <;> rfl⟩
  · exact each_keeps h fun t i ht => updStream_keeps ht
  · exact updRow_keeps h
  · exact updWatch_keeps h
theorem responseWatchdogOp_keeps {s0 s : State} {a0 a1 a2} (h : Keeps s0 s) : Keeps s0 (responseWatchdogOp a0 a1 a2 s) := by
  unfold responseWatchdogOp
  extract_lets v1
  split
  · assumption
  · extract_lets v2
    split
    · assumption
    · split
      · split
        · apply raise5_keeps
          assumption
        · assumption
      · split
        · assumption
        · split
          · apply raise5_keeps
            assumption
          · apply raise4_keeps
            apply markLate_keeps
            assumption
theorem execResponseWatchdog_keeps {s0 s : State} {a0 a1 a2} (h : Keeps s0 s) : KeepsOut s0 (execResponseWatchdog a0 a1 a2 s) := by
  unfold execResponseWatchdog
  apply keepsOut_next
  apply responseWatchdogOp_keeps
  assumption
theorem driverResetOp_keeps {s0 s : State} (h : Keeps s0 s) : Keeps s0 (driverResetOp s) := by
  unfold driverResetOp
  extract_lets v1
  split
  · assumption
  · apply raise4_keeps
    assumption
theorem execDriverReset_keeps {s0 s : State} (h : Keeps s0 s) : KeepsOut s0 (execDriverReset s) := by
  unfold execDriverReset
  apply keepsOut_next
  apply driverResetOp_keeps
  assumption
theorem requestResets_keeps {s0 s : State} (h : Keeps s0 s) : Keeps s0 (requestResets s) := by
  unfold requestResets
  apply each_keeps
  · assumption
  · intro i1 i2 i3
    apply updRow_keeps
    assumption
theorem porNReleaseOp_keeps {s0 s : State} (h : Keeps s0 s) : Keeps s0 (porNReleaseOp s) := by
  unfold porNReleaseOp
  split
  · assumption
  · apply requestResets_keeps
    apply updUmp_keeps
    · assumption
    · exact fun hd => hd
    · exact fun hd => hd
    · exact fun hd => hd
theorem execPorNRelease_keeps {s0 s : State} (h : Keeps s0 s) : KeepsOut s0 (execPorNRelease s) := by
  unfold execPorNRelease
  apply keepsOut_next
  apply porNReleaseOp_keeps
  assumption
theorem selftestDoneOp_keeps {s0 s : State} {a0} (h : Keeps s0 s) : Keeps s0 (selftestDoneOp a0 s) := by
  unfold selftestDoneOp
  extract_lets v1
  split
  · assumption
  · apply updRig_keeps
    · assumption
    · rfl
    · rfl
theorem execSelftestDone_keeps {s0 s : State} {a0} (h : Keeps s0 s) : KeepsOut s0 (execSelftestDone a0 s) := by
  unfold execSelftestDone
  apply keepsOut_next
  apply selftestDoneOp_keeps
  assumption
theorem collectOne_keeps {s0 s : State} {a1} (h : Keeps s0 s) : Keeps s0 (collectOne s a1) := by
  unfold collectOne
  split
  · assumption
  · apply reportError_keeps
    apply updWork_keeps
    assumption
theorem quiesceDoneOp_keeps {s0 s : State} (h : Keeps s0 s) : Keeps s0 (quiesceDoneOp s) := by
  unfold quiesceDoneOp
  split
  · exact h
  · have h1 : Keeps s0 (each ((List.range s.build.clusters).flatMap fun c => rowReports (s.row c)) collectOne s) :=
      each_keeps h fun t r ht => collectOne_keeps ht
    extract_lets s1
    split
    · exact h1
    · next hr =>
      exact startDump_keeps (updUmp_keeps h1 (fun hd => absurd hd (fun hd => by
        rw [show s1 = each ((List.range s.build.clusters).flatMap fun c => rowReports (s.row c)) collectOne s from rfl, hd] at hr
        exact hr rfl)) id id)
theorem execQuiesceDone_keeps {s0 s : State} (h : Keeps s0 s) : KeepsOut s0 (execQuiesceDone s) := by
  unfold execQuiesceDone
  apply keepsOut_next
  apply quiesceDoneOp_keeps
  assumption
theorem rowlockReportTimeoutOp_keeps {s0 s : State} {a0} (h : Keeps s0 s) : Keeps s0 (rowlockReportTimeoutOp a0 s) := by
  unfold rowlockReportTimeoutOp
  split
  · apply updUmp_keeps
    · assumption
    · exact fun hd => hd
    · exact fun hd => hd
    · exact fun hd => hd
  · assumption
theorem execRowlockReportTimeout_keeps {s0 s : State} {a0} (h : Keeps s0 s) : KeepsOut s0 (execRowlockReportTimeout a0 s) := by
  unfold execRowlockReportTimeout
  split
  · trivial
  · apply keepsOut_next
    apply rowlockReportTimeoutOp_keeps
    assumption
theorem captureDoneOp_keeps {s0 s : State} (h : Keeps s0 s) : Keeps s0 (captureDoneOp s) := by
  unfold captureDoneOp
  split
  · next hc => exact requestResets_keeps (updUmp_keeps h (fun hd => by simp [hd] at hc) id id)
  · exact h
theorem execCaptureDone_keeps {s0 s : State} (h : Keeps s0 s) : KeepsOut s0 (execCaptureDone s) := by
  unfold execCaptureDone
  apply keepsOut_next
  apply captureDoneOp_keeps
  assumption
theorem resetUnits_keeps {s0 s : State} (h : Keeps s0 s) : Keeps s0 (resetUnits s) := by
  have h1 : Keeps s0 (each (List.range s.build.partitions) (fun s p => refillPart p s) (wakeReset (dropWaiters s))) :=
    each_keeps (wakeReset_keeps (dropWaiters_keeps h)) fun t p ht => refillPart_keeps ht
  unfold resetUnits
  refine ⟨h1.1, h1.2, h1.3, h1.4, h1.5, h1.6, fun i => ?_, fun i isl => ?_, h1.9⟩
  · obtain ⟨a, b⟩ := h1.7 i
    exact ⟨nodup_map a fun q => by unfold dropImage; split <;> rfl, b⟩
  · exact Nat.le_trans (keelRings_length isl _ _) (h1.8 i isl)
theorem settleSwap_keeps {s0 s : State} (h : Keeps s0 s) : Keeps s0 (settleSwap s) := by
  unfold settleSwap
  extract_lets v1 v2 v3
  have hv3 : Keeps s0 v3 := by
    unfold v3
    apply keeps_heat
    assumption
  clear_value v3
  split
  · apply updRig_keeps
    · assumption
    · rfl
    · rfl
  · apply updRig_keeps
    · assumption
    · rfl
    · rfl
  · apply updRig_keeps
    · assumption
    · rfl
    · rfl
  · assumption
theorem readImage_keeps {s0 s : State} {a0 a1} (h : Keeps s0 s) : Keeps s0 (readImage a0 a1 s) := by
  unfold readImage
  extract_lets v1
  apply ownRead_keeps
  assumption
theorem reapply_keeps {s0 s : State} {a0} (h : Keeps s0 s) : Keeps s0 (reapply a0 s) := by
  unfold reapply
  extract_lets v1 v2
  have hv1 : Keeps s0 v1 := by
    unfold v1
    apply readImage_keeps
    assumption
  clear_value v1
  split
  · apply stkAfterReset_keeps
    assumption
  · split
    · apply targetLost_keeps
      assumption
    · split
      · apply raise5_keeps
        assumption
      · apply stkAfterReset_keeps
        apply updRig_keeps
        · assumption
        · rfl
        · rfl
theorem failByReset_keeps {s0 s : State} {a0 a1} (h : Keeps s0 s) : Keeps s0 (failByReset a0 a1 s) := by
  unfold failByReset
  apply updBhs_keeps
  apply updWork_keeps
  assumption
theorem resetWork_keeps {s0 s : State} {a1} (h : Keeps s0 s) : Keeps s0 (resetWork s a1) := by
  unfold resetWork
  split
  · assumption
  · split
    · assumption
    · split
      · apply updWork_keeps
        assumption
      · split
        · assumption
        · split
          · apply updWork_keeps
            assumption
          · split
            · apply failByReset_keeps
              assumption
            · split
              · apply updBhs_keeps
                apply updWork_keeps
                assumption
              · apply failByReset_keeps
                assumption
theorem issueOwed_keeps {s0 s : State} (h : Keeps s0 s) : Keeps s0 (issueOwed s) := by
  unfold issueOwed
  apply each_keeps
  · apply updPorts_keeps
    · assumption
    · exact fun hd => hd
  · intro i1 i2 i3
    apply failFenceStart_keeps
    assumption
theorem engResetDone_keeps {s0 s : State} {a0} (h : Keeps s0 s) : Keeps s0 (engResetDone a0 s) := by
  have h1 : Keeps s0 (reapply a0 (settleSwap (resetUnits s))) := reapply_keeps (settleSwap_keeps (resetUnits_keeps h))
  unfold engResetDone
  extract_lets s1 s2 s3
  split
  · exact h1
  · next hr =>
    have h2 : Keeps s0 s2 := each_keeps h1 fun t w ht => resetWork_keeps ht
    have h3 : Keeps s0 s3 := by
      refine ⟨h2.1, h2.2, h2.3, fun hd => ?_, h2.5, h2.6, h2.7, h2.8, h2.9⟩
      rw [show s1 = reapply a0 (settleSwap (resetUnits s)) from rfl, h1.4 hd] at hr
      exact absurd rfl hr
    exact each_keeps (issueOwed_keeps h3) fun t r ht => settle_keeps ht
theorem clusterResetDoneOp_keeps {s0 s : State} {a0 a1} (h : Keeps s0 s) : Keeps s0 (clusterResetDoneOp a0 a1 s) := by
  unfold clusterResetDoneOp
  extract_lets v1
  have hv1 : Keeps s0 v1 := by
    unfold v1
    apply updRow_keeps
    assumption
  clear_value v1
  split
  · assumption
  · apply engResetDone_keeps
    assumption
theorem execClusterResetDone_keeps {s0 s : State} {a0 a1} (h : Keeps s0 s) : KeepsOut s0 (execClusterResetDone a0 a1 s) := by
  unfold execClusterResetDone
  split
  · trivial
  · split
    · trivial
    · split
      · apply keepsOut_next
        assumption
      · apply keepsOut_next
        apply clusterResetDoneOp_keeps
        assumption
theorem clusterResetLateOp_keeps {s0 s : State} {a0} (h : Keeps s0 s) : Keeps s0 (clusterResetLateOp a0 s) := by
  unfold clusterResetLateOp
  extract_lets v1
  split
  · apply raise5_keeps
    assumption
  · assumption
theorem execClusterResetLate_keeps {s0 s : State} {a0} (h : Keeps s0 s) : KeepsOut s0 (execClusterResetLate a0 s) := by
  unfold execClusterResetLate
  split
  · trivial
  · apply keepsOut_next
    apply clusterResetLateOp_keeps
    assumption
theorem countFailed_keeps {s0 s : State} (h : Keeps s0 s) : Keeps s0 (countFailed s) := by
  unfold countFailed
  apply updBhs_keeps
  assumption
theorem countRedone_keeps {s0 s : State} (h : Keeps s0 s) : Keeps s0 (countRedone s) := by
  unfold countRedone
  apply updBhs_keeps
  assumption
theorem dropHeat_keeps {s0 s : State} {a0 a1} (h : Keeps s0 s) : Keeps s0 (dropHeat a0 a1 s) := by
  unfold dropHeat
  extract_lets v1 v2
  apply freeHeatSlot_keeps
  apply countFailed_keeps
  split
  · apply journalAppend_keeps
    assumption
  · assumption
theorem finishPartly_keeps {s0 s : State} {a0 a1} (h : Keeps s0 s) : Keeps s0 (finishPartly a0 a1 s) := by
  unfold finishPartly
  extract_lets v1 v2 v3 v4 v5
  have hv3 : Keeps s0 v3 := by
    unfold v3
    apply each_keeps
    · assumption
    · intro i1 i2 i3
      apply updSeq_keeps
      assumption
  clear_value v3
  apply freeHeatSlot_keeps
  apply countFailed_keeps
  apply addIntent_keeps
  refine KeepsRb.st ?_
  unfold v4
  apply keepsRb_foldl
  · intro i4 i5 i6
    apply rollMember_keeps
    assumption
  · apply keepsRb_mk
    assumption
theorem keepForRerun_keeps {s0 s : State} {a0 a1} (h : Keeps s0 s) : Keeps s0 (keepForRerun a0 a1 s) := by
  unfold keepForRerun
  extract_lets v1
  apply letGoSlot_keeps
  apply updBhs_keeps
  assumption
theorem rollAfterReset_keeps {s0 s : State} {a0 a1 a2} (h : Keeps s0 s) : Keeps s0 (rollAfterReset a0 a1 a2 s) := by
  unfold rollAfterReset
  apply rollback_keeps
  apply updHSlot_keeps
  assumption
theorem resetSlot_keeps {s0 s : State} {a0 a2} (h : Keeps s0 s) : Keeps s0 (resetSlot a0 s a2) := by
  unfold resetSlot
  extract_lets v1
  have hv1 : Keeps s0 v1 := by
    unfold v1
    apply updHSlot_keeps
    assumption
  clear_value v1
  split
  · assumption
  · split
    · apply rollAfterReset_keeps
      assumption
    · split
      · apply countFailed_keeps
        apply rollAfterReset_keeps
        assumption
      · split
        · apply keepForRerun_keeps
          assumption
        · apply dropHeat_keeps
          assumption
theorem recoverBegin_keeps {s0 s : State} {a1} (h : Keeps s0 s) : Keeps s0 (recoverBegin s a1) := by
  unfold recoverBegin
  extract_lets v1 v2 v3 v4 v5 v6
  have hv1 : Keeps s0 v1 := by
    unfold v1
    apply updLoop_keeps
    assumption
  clear_value v1
  have hv2 : Keeps s0 v2 := by
    unfold v2
    apply each_keeps
    · apply updBhs_keeps
      assumption
    · intro i1 i2 i3
      apply updWork_keeps
      assumption
  clear_value v2
  split
  · apply startIntent_keeps
    assumption
  · unfold v5
    apply startFetch_keeps
    apply startFetch_keeps
    apply startFetch_keeps
    apply startFetch_keeps
    apply updBhs_keeps
    assumption
theorem takeReads_keeps {s0 s : State} {a0 a1 a2} (h : Keeps s0 s) : Keeps s0 (takeReads a0 a1 a2 s) := by
  unfold takeReads
  extract_lets v1 v2
  have hv2 : Keeps s0 v2 := by
    unfold v2
    apply updLoop_keeps
    assumption
  clear_value v2
  split
  · assumption
  · split
    · assumption
    · apply each_keeps
      · assumption
      · intro i1 i2 i3
        extract_lets v3
        split
        · assumption
        · apply updHSlot_keeps
          assumption
theorem recoverAt_keeps {s0 s : State} {a0 a1} (h : Keeps s0 s) : Keeps s0 (recoverAt a0 a1 s) := by
  unfold recoverAt
  apply updBhs_keeps
  assumption
theorem recovered_keeps {s0 s : State} {a0} (h : Keeps s0 s) : Keeps s0 (recovered a0 s) := by
  unfold recovered
  apply updBhs_keeps
  assumption
theorem recoverError_keeps {s0 s : State} {a0 a1} (h : Keeps s0 s) : Keeps s0 (recoverError a0 a1 s) := by
  unfold recoverError
  extract_lets v1 v2
  have hv2 : Keeps s0 v2 := by
    unfold v2
    apply recovered_keeps
    apply failLoop_keeps
    apply logRec_keeps
    assumption
  clear_value v2
  apply checkLoop_keeps
  apply startIntent_keeps
  apply each_keeps
  · assumption
  · intro i1 i2 i3
    split
    · assumption
    · apply rollAfterReset_keeps
      apply updHSlot_keeps
      assumption
theorem recoverRead_keeps {s0 s : State} {a0 a1 a2} (h : Keeps s0 s) : Keeps s0 (recoverRead a0 a1 a2 s) := by
  unfold recoverRead
  split
  · assumption
  · split
    · apply takeReads_keeps
      assumption
    · apply recoverError_keeps
      assumption
theorem recoverMove_keeps {s0 s : State} {a1} (h : Keeps s0 s) : Keeps s0 (recoverMove s a1) := by
  unfold recoverMove
  split
  · assumption
  · apply endMove_keeps
    assumption
  · split
    · apply endMove_keeps
      assumption
    · apply movePages_keeps
      apply updMem_keeps
      assumption
theorem trimLoop_keeps {s0 s : State} {a0} (h : Keeps s0 s) : Keeps s0 (trimLoop a0 s) := by
  unfold trimLoop
  extract_lets v1 v2 v3 v4 v5
  have hv1 : Keeps s0 v1 := by
    unfold v1
    apply each_keeps
    · assumption
    · intro i1 i2 i3
      apply recoverMove_keeps
      assumption
  clear_value v1
  have hv3 : Keeps s0 v3 := by
    unfold v3
    apply each_keeps
    · assumption
    · intro i1 i2 i3
      apply updSeq_keeps
      apply trimTab_keeps
      assumption
  clear_value v3
  have hv4 : Keeps s0 v4 := by
    unfold v4
    apply addIntent_keeps
    assumption
  clear_value v4
  apply each_keeps
  · assumption
  · intro i4 i5 i6
    apply retireDue_keeps
    assumption
theorem recoverSlots_keeps {s0 s : State} {a0} (h : Keeps s0 s) : Keeps s0 (recoverSlots a0 s) := by
  unfold recoverSlots
  apply checkLoop_keeps
  apply each_keeps
  · apply recovered_keeps
    assumption
  · intro i1 i2 i3
    apply resetSlot_keeps
    assumption
theorem recoverTrims_keeps {s0 s : State} {a0} (h : Keeps s0 s) : Keeps s0 (recoverTrims a0 s) := by
  unfold recoverTrims
  extract_lets v1
  have hv1 : Keeps s0 v1 := by
    unfold v1
    apply trimLoop_keeps
    apply recoverAt_keeps
    assumption
  clear_value v1
  split
  · apply recoverSlots_keeps
    assumption
  · assumption
theorem redoCommit_keeps {s0 s : State} {a0 a2} (h : Keeps s0 s) : Keeps s0 (redoCommit a0 s a2) := by
  unfold redoCommit
  split
  · apply commitHeat_keeps
    apply countRedone_keeps
    assumption
  · split
    · apply startCommit_keeps
      apply countRedone_keeps
      assumption
    · apply finishPartly_keeps
      assumption
theorem recoverCommits_keeps {s0 s : State} {a0} (h : Keeps s0 s) : Keeps s0 (recoverCommits a0 s) := by
  unfold recoverCommits
  extract_lets v1
  have hv1 : Keeps s0 v1 := by
    unfold v1
    apply foldl_keeps
    · intro i1 i2 i3
      apply redoCommit_keeps
      assumption
    · apply recoverAt_keeps
      assumption
  clear_value v1
  split
  · assumption
  · apply recoverTrims_keeps
    assumption
theorem recoverLoop_keeps {s0 s : State} {a1} (h : Keeps s0 s) : Keeps s0 (recoverLoop s a1) := by
  unfold recoverLoop
  extract_lets v1 v2 v3
  have hv3 : Keeps s0 v3 := by
    unfold v3
    apply startIntent_keeps
    apply recoverAt_keeps
    assumption
  clear_value v3
  split
  · split
    · assumption
    · split
      · apply recoverCommits_keeps
        assumption
      · assumption
  · split
    · apply recoverCommits_keeps
      assumption
    · assumption
  · split
    · assumption
    · apply recoverTrims_keeps
      assumption
  · split
    · apply recoverSlots_keeps
      assumption
    · assumption
theorem pumpRecovery_keeps {s0 s : State} (h : Keeps s0 s) : Keeps s0 (pumpRecovery s) := by
  unfold pumpRecovery
  split
  · apply each_keeps
    · assumption
    · intro i1 i2 i3
      apply recoverLoop_keeps
      assumption
  · assumption
theorem restartRefetch_keeps {s0 s : State} {a1} (h : Keeps s0 s) : Keeps s0 (restartRefetch s a1) := by
  unfold restartRefetch
  extract_lets v1
  apply addMoves_keeps
  apply updMem_keeps
  assumption
theorem clearDoneOp_keeps {s0 s : State} (h : Keeps s0 s) : Keeps s0 (clearDoneOp s) := by
  unfold clearDoneOp
  split
  · exact h
  · next hc =>
    refine policy_keeps (each_keeps (pumpRecovery_keeps (each_keeps (each_keeps (updBhs_keeps (kickPlans_keeps
      (settleWatches_keeps (wakeResetEnd_keeps (stkResume_keeps (keeps_fab (updUmp_keeps h (fun hd => ?_) id id))))))) ?_) ?_)) ?_)
    · simp [hd] at hc
    · exact fun t l ht => recoverBegin_keeps ht
    · exact fun t m ht => restartRefetch_keeps ht
    · exact fun t r ht => settle_keeps ht
theorem execClearDone_keeps {s0 s : State} (h : Keeps s0 s) : KeepsOut s0 (execClearDone s) := by
  unfold execClearDone
  apply keepsOut_next
  apply clearDoneOp_keeps
  assumption
theorem recoverDoneOp_keeps {s0 s : State} (h : Keeps s0 s) : Keeps s0 (recoverDoneOp s) := by
  unfold recoverDoneOp
  split
  · exact h
  · next hc => exact updUmp_keeps h (fun hd => by simp [hd] at hc) id id
theorem execRecoverDone_keeps {s0 s : State} (h : Keeps s0 s) : KeepsOut s0 (execRecoverDone s) := by
  unfold execRecoverDone
  apply keepsOut_next
  apply recoverDoneOp_keeps
  assumption
theorem rigRefuse_keeps {s0 s : State} {a0} (h : Keeps s0 s) : Keeps s0 (rigRefuse a0 s) := by
  unfold rigRefuse
  apply updRig_keeps
  · assumption
  · rfl
  · rfl
theorem rigBad_keeps {s0 s : State} {a0} (h : Keeps s0 s) : Keeps s0 (rigBad a0 s) := by
  unfold rigBad
  apply updRig_keeps
  · assumption
  · rfl
  · rfl
theorem applyImage_keeps {s0 s : State} {a0 a1} (h : Keeps s0 s) : Keeps s0 (applyImage a0 a1 s) := by
  unfold applyImage
  apply updUmp_keeps
  · apply updRig_keeps
    · assumption
    · rfl
    · rfl
  · exact fun hd => hd
  · exact fun hd => hd
  · exact fun hd => hd
theorem loadOp_keeps {s0 s : State} {a0} (h : Keeps s0 s) : Keeps s0 (loadOp a0 s) := by
  unfold loadOp
  extract_lets v1
  have hv1 : Keeps s0 v1 := by
    unfold v1
    apply readImage_keeps
    assumption
  clear_value v1
  split
  · assumption
  · split
    · apply rigRefuse_keeps
      assumption
    · split
      · apply rigRefuse_keeps
        assumption
      · split
        · apply targetLost_keeps
          assumption
        · split
          · apply rigBad_keeps
            assumption
          · apply applyImage_keeps
            apply updMem_keeps
            apply updRack_keeps
            assumption
theorem execLoad_keeps {s0 s : State} {a0} (h : Keeps s0 s) : KeepsOut s0 (execLoad a0 s) := by
  unfold execLoad
  apply keepsOut_next
  apply loadOp_keeps
  assumption
theorem stageOp_keeps {s0 s : State} {a0} (h : Keeps s0 s) : Keeps s0 (stageOp a0 s) := by
  unfold stageOp
  extract_lets v1 v2
  have hv1 : Keeps s0 v1 := by
    unfold v1
    apply readImage_keeps
    assumption
  clear_value v1
  split
  · assumption
  · split
    · apply rigRefuse_keeps
      assumption
    · split
      · apply rigRefuse_keeps
        assumption
      · split
        · apply targetLost_keeps
          assumption
        · split
          · apply rigBad_keeps
            assumption
          · split
            · apply rigRefuse_keeps
              assumption
            · split
              · apply rigBad_keeps
                assumption
              · apply updRig_keeps
                · assumption
                · rfl
                · rfl
theorem execStage_keeps {s0 s : State} {a0} (h : Keeps s0 s) : KeepsOut s0 (execStage a0 s) := by
  unfold execStage
  apply keepsOut_next
  apply stageOp_keeps
  assumption
theorem endResidencies_keeps {s0 s : State} {a0 a1} (h : Keeps s0 s) : Keeps s0 (endResidencies a0 a1 s) := by
  unfold endResidencies
  apply each_keeps
  · assumption
  · intro i1 i2 i3
    split
    · apply endModel_keeps
      assumption
    · assumption
theorem swapOp_keeps {s0 s : State} (h : Keeps s0 s) : Keeps s0 (swapOp s) := by
  unfold swapOp
  split
  · assumption
  · split
    · split
      · apply rigRefuse_keeps
        assumption
      · apply endResidencies_keeps
        apply updRig_keeps
        · assumption
        · rfl
        · rfl
    · apply rigRefuse_keeps
      assumption
theorem execSwap_keeps {s0 s : State} (h : Keeps s0 s) : KeepsOut s0 (execSwap s) := by
  unfold execSwap
  apply keepsOut_next
  apply swapOp_keeps
  assumption
theorem rigCancelOp_keeps {s0 s : State} (h : Keeps s0 s) : Keeps s0 (rigCancelOp s) := by
  unfold rigCancelOp
  split
  · assumption
  · split
    · apply updRig_keeps
      · assumption
      · rfl
      · rfl
    · apply rigRefuse_keeps
      assumption
theorem execRigCancel_keeps {s0 s : State} (h : Keeps s0 s) : KeepsOut s0 (execRigCancel s) := by
  unfold execRigCancel
  apply keepsOut_next
  apply rigCancelOp_keeps
  assumption
theorem swapOldDrainedOp_keeps {s0 s : State} (h : Keeps s0 s) : Keeps s0 (swapOldDrainedOp s) := by
  unfold swapOldDrainedOp
  split
  · apply updRig_keeps
    · assumption
    · rfl
    · rfl
  · assumption
theorem execSwapOldDrained_keeps {s0 s : State} (h : Keeps s0 s) : KeepsOut s0 (execSwapOldDrained s) := by
  unfold execSwapOldDrained
  apply keepsOut_next
  apply swapOldDrainedOp_keeps
  assumption
theorem swapRetiredOp_keeps {s0 s : State} (h : Keeps s0 s) : Keeps s0 (swapRetiredOp s) := by
  unfold swapRetiredOp
  split
  · apply updRig_keeps
    · assumption
    · rfl
    · rfl
  · assumption
theorem execSwapRetired_keeps {s0 s : State} (h : Keeps s0 s) : KeepsOut s0 (execSwapRetired s) := by
  unfold execSwapRetired
  apply keepsOut_next
  apply swapRetiredOp_keeps
  assumption
theorem discardMaps_keeps {s0 s : State} (h : Keeps s0 s) : Keeps s0 (discardMaps s) := by
  unfold discardMaps
  apply each_keeps
  · assumption
  · intro i1 i2 i3
    apply unregisterMap_keeps
    assumption
theorem applyQuiescedOp_keeps {s0 s : State} {a0} (h : Keeps s0 s) : Keeps s0 (applyQuiescedOp a0 s) := by
  unfold applyQuiescedOp
  extract_lets v1 v2
  have hv1 : Keeps s0 v1 := by
    unfold v1
    apply readImage_keeps
    apply updMar_keeps
    · assumption
    · rfl
  clear_value v1
  have hv2 : Keeps s0 v2 := by
    unfold v2
    apply applyImage_keeps
    apply endResidencies_keeps
    assumption
  clear_value v2
  split
  · assumption
  · split
    · apply rigRefuse_keeps
      assumption
    · split
      · apply rigRefuse_keeps
        assumption
      · split
        · apply rigRefuse_keeps
          assumption
        · split
          · apply targetLost_keeps
            assumption
          · split
            · apply rigBad_keeps
              assumption
            · split
              · assumption
              · apply discardMaps_keeps
                assumption
theorem execApplyQuiesced_keeps {s0 s : State} {a0} (h : Keeps s0 s) : KeepsOut s0 (execApplyQuiesced a0 s) := by
  unfold execApplyQuiesced
  apply keepsOut_next
  apply applyQuiescedOp_keeps
  assumption
theorem lockOp_keeps {s0 s : State} {a0} (h : Keeps s0 s) : Keeps s0 (lockOp a0 s) := by
  unfold lockOp
  split
  · exact h
  · refine ⟨h.1, h.2, fun hl => ?_, h.4, h.5, h.6, h.7, h.8, h.9⟩
    have := h.3 hl
    simp [updRig, this.1, this.2]
theorem execLock_keeps {s0 s : State} {a0} (h : Keeps s0 s) : KeepsOut s0 (execLock a0 s) := by
  unfold execLock
  apply keepsOut_next
  apply lockOp_keeps
  assumption
theorem seatEnableOp_keeps {s0 s : State} {a0} (h : Keeps s0 s) : Keeps s0 (seatEnableOp a0 s) := by
  unfold seatEnableOp
  extract_lets v1 v2 v3 v4
  have hv4 : Keeps s0 v4 := by
    unfold v4
    apply updMar_keeps
    · assumption
    · rfl
  clear_value v4
  split
  · assumption
  · apply policy_keeps
    apply each_keeps
    · assumption
    · intro i1 i2 i3
      split
      · apply drainRing_keeps
        assumption
      · assumption
theorem execSeatEnable_keeps {s0 s : State} {a0} (h : Keeps s0 s) : KeepsOut s0 (execSeatEnable a0 s) := by
  unfold execSeatEnable
  apply keepsOut_next
  apply seatEnableOp_keeps
  assumption
theorem ctxCmd_keeps {s0 s : State} {a0} (h : Keeps s0 s) : Keeps s0 (ctxCmd a0 s) := by
  unfold ctxCmd
  split
  · apply createOp_keeps
    assumption
  · apply stopOp_keeps
    assumption
  · apply resumeOp_keeps
    assumption
  · apply killOp_keeps
    assumption
  · apply teardownOp_keeps
    assumption
  · apply setWeightOp_keeps
    assumption
  · assumption
theorem ringCmdWrite_keeps {s0 s : State} {a0} (h : Keeps s0 s) : Keeps s0 (ringCmdWrite a0 s) := by
  unfold ringCmdWrite
  split
  · apply bindOp_keeps
    assumption
  · apply unbindOp_keeps
    assumption
  · apply restartOp_keeps
    assumption
  · apply abandonOp_keeps
    assumption
  · apply pinOp_keeps
    assumption
  · apply unpinOp_keeps
    assumption
  · apply updateOp_keeps
    assumption
  · assumption
theorem seatCfgWrite_keeps {s0 s : State} {a0} (h : Keeps s0 s) : Keeps s0 (seatCfgWrite a0 s) := by
  unfold seatCfgWrite
  extract_lets v1
  apply updMar_keeps
  · assumption
  · rfl
theorem writeMar_keeps {s0 s : State} {a0 a1} (h : Keeps s0 s) : Keeps s0 (writeMar a0 a1 s) := by
  unfold writeMar
  extract_lets v1
  split
  · apply updMar_keeps
    · assumption
    · rfl
  · refine updSlot_same ?_ rfl rfl
    assumption
  · apply ctxCmd_keeps
    assumption
  · apply updMar_keeps
    · assumption
    · rfl
  · apply updRing_keeps
    assumption
  · apply updRing_keeps
    assumption
  · apply updRing_keeps
    assumption
  · apply updRing_keeps
    assumption
  · apply ringCmdWrite_keeps
    assumption
  · apply updRing_keeps
    assumption
  · apply seatCfgWrite_keeps
    assumption
  · apply updMar_keeps
    · assumption
    · rfl
  · apply seatEnableOp_keeps
    assumption
  · assumption
theorem hsigValueWrite_keeps {s0 s : State} {a0} (h : Keeps s0 s) : Keeps s0 (hsigValueWrite a0 s) := by
  unfold hsigValueWrite
  split
  · apply hostFailOp_keeps
    assumption
  · apply hostSignalOp_keeps
    assumption
theorem writeStb_keeps {s0 s : State} {a0 a1} (h : Keeps s0 s) : Keeps s0 (writeStb a0 a1 s) := by
  unfold writeStb
  split
  · apply updStb_keeps
    assumption
  · split
    · assumption
    · apply updStb_keeps
      assumption
  · apply updPorts_keeps
    · assumption
    · exact fun hd => hd
  · apply updPorts_keeps
    · assumption
    · exact fun hd => hd
  · apply hsigValueWrite_keeps
    assumption
  · assumption
theorem loopCmdWrite_keeps {s0 s : State} {a0} (h : Keeps s0 s) : Keeps s0 (loopCmdWrite a0 s) := by
  unfold loopCmdWrite
  extract_lets v1
  split
  · apply startLoop_keeps
    apply State.nextFree_keeps
    assumption
  · apply stopLoopOp_keeps
    assumption
  · apply drainLoopOp_keeps
    assumption
  · apply reloadOp_keeps
    apply State.nextFree_keeps
    assumption
  · assumption
theorem writeHea_keeps {s0 s : State} {a0 a1} (h : Keeps s0 s) : Keeps s0 (writeHea a0 a1 s) := by
  unfold writeHea
  split
  · apply updHeat_keeps
    assumption
  · apply updHeat_keeps
    assumption
  · apply updLoop_keeps
    assumption
  · apply loopCmdWrite_keeps
    assumption
  · apply rqDoorbellOp_keeps
    assumption
  · apply resultConsumedOp_keeps
    assumption
  · apply rqRingRestartOp_keeps
    assumption
  · apply updHeat_keeps
    assumption
  · assumption
theorem writeSld_keeps {s0 s : State} {a0 a1} (h : Keeps s0 s) : Keeps s0 (writeSld a0 a1 s) := by
  unfold writeSld
  split
  · apply updSld_keeps
    assumption
  · apply updSld_keeps
    assumption
  · apply updMap_keeps
    assumption
  · split
    · apply mapRegisterOp_keeps
      apply State.nextFree_keeps
      assumption
    · apply unregisterOp_keeps
      assumption
    · assumption
  · apply updMap_keeps
    assumption
  · apply updSld_keeps
    assumption
  · assumption
theorem objCmdWrite_keeps {s0 s : State} {a0} (h : Keeps s0 s) : Keeps s0 (objCmdWrite a0 s) := by
  unfold objCmdWrite
  extract_lets v1
  split
  · apply objectRegisterOp_keeps
    assumption
  · apply objCommand_keeps
    · assumption
    · apply refAddOp_keeps
      assumption
  · apply objCommand_keeps
    · assumption
    · apply refSubOp_keeps
      assumption
  · apply objCommand_keeps
    · assumption
    · apply freeOp_keeps
      assumption
  · apply objCommand_keeps
    · assumption
    · apply forceFreeOp_keeps
      assumption
  · apply objCommand_keeps
    · assumption
    · split
      · trivial
      · apply keepsE_ok
        assumption
  · apply objStatus_keeps
    assumption
theorem crsCmdWrite_keeps {s0 s : State} {a0} (h : Keeps s0 s) : Keeps s0 (crsCmdWrite a0 s) := by
  unfold crsCmdWrite
  extract_lets v1 v2
  split
  · apply courseRecordOp_keeps
    apply State.nextFree_keeps
    assumption
  · apply coursePatchOp_keeps
    apply State.nextFree_keeps
    assumption
  · apply courseRetireOp_keeps
    assumption
  · apply courseQueryOp_keeps
    assumption
  · apply crsStatus_keeps
    assumption
theorem updSelPart_keeps {s0 s : State} {a0} (h : Keeps s0 s) : Keeps s0 (updSelPart a0 s) := by
  unfold updSelPart
  extract_lets v1
  split
  · apply updMem_keeps
    assumption
  · assumption
theorem writeRck_keeps {s0 s : State} {a0 a1} (h : Keeps s0 s) : Keeps s0 (writeRck a0 a1 s) := by
  unfold writeRck
  split
  · apply updRack_keeps
    assumption
  · apply updRack_keeps
    assumption
  · apply updRack_keeps
    assumption
  · apply updRack_keeps
    assumption
  · apply objCmdWrite_keeps
    assumption
  · apply updRack_keeps
    assumption
  · apply crsCmdWrite_keeps
    assumption
  · apply updMem_keeps
    assumption
  · apply updSelPart_keeps
    assumption
  · apply updSelPart_keeps
    apply refillPart_keeps
    assumption
  · apply updMem_keeps
    assumption
  · split
    · apply poolEnableOp_keeps
      assumption
    · apply poolDisableOp_keeps
      assumption
  · apply updMem_keeps
    assumption
  · apply updMem_keeps
    assumption
  · split
    · apply updMem_keeps
      assumption
    · assumption
theorem rigCmdWrite_keeps {s0 s : State} {a0} (h : Keeps s0 s) : Keeps s0 (rigCmdWrite a0 s) := by
  unfold rigCmdWrite
  extract_lets v1
  split
  · apply loadOp_keeps
    apply State.nextFree_keeps
    assumption
  · apply stageOp_keeps
    apply State.nextFree_keeps
    assumption
  · apply swapOp_keeps
    assumption
  · apply rigCancelOp_keeps
    assumption
  · apply applyQuiescedOp_keeps
    apply State.nextFree_keeps
    assumption
  · assumption
theorem writeRig_keeps {s0 s : State} {a0 a1} (h : Keeps s0 s) : Keeps s0 (writeRig a0 a1 s) := by
  unfold writeRig
  split
  · apply updRig_keeps
    · assumption
    · rfl
    · rfl
  · apply rigCmdWrite_keeps
    assumption
  · apply lockOp_keeps
    assumption
  · assumption
theorem writeTkp_keeps {s0 s : State} {a0 a1} (h : Keeps s0 s) : Keeps s0 (writeTkp a0 a1 s) := by
  unfold writeTkp
  split
  · apply updTkp_keeps
    · assumption
    · rfl
  · apply updTkp_keeps
    · assumption
    · rfl
  · apply updTkp_keeps
    · assumption
    · rfl
  · assumption
theorem updSelCtr_keeps {s0 s : State} {a0} (h : Keeps s0 s) : Keeps s0 (updSelCtr a0 s) := by
  unfold updSelCtr
  apply updErg_keeps
  assumption
theorem writeErg_keeps {s0 s : State} {a0 a1} (h : Keeps s0 s) : Keeps s0 (writeErg a0 a1 s) := by
  unfold writeErg
  split
  · apply ergCfgWrite_keeps
    assumption
  · split
    · apply freezeStartOp_keeps
      assumption
    · apply freezeEndOp_keeps
      assumption
  · apply updErg_keeps
    assumption
  · apply ctrCfgWrite_keeps
    assumption
  · apply updSelCtr_keeps
    assumption
  · apply ctrValueWrite_keeps
    assumption
  · apply updSelCtr_keeps
    assumption
  · apply updSelCtr_keeps
    assumption
  · split
    · apply updErg_keeps
      assumption
    · assumption
theorem writeWak_keeps {s0 s : State} {a0 a1} (h : Keeps s0 s) : Keeps s0 (writeWak a0 a1 s) := by
  unfold writeWak
  extract_lets v1 v2 v3
  split
  · apply keeps_wake
    assumption
  · apply keeps_wake
    assumption
  · unfold v2
    apply updStream_keeps
    assumption
  · split
    · apply streamEnableOp_keeps
      assumption
    · apply streamDisableOp_keeps
      assumption
  · unfold v2
    apply updStream_keeps
    assumption
  · apply updStream_keeps
    assumption
  · apply streamConsumedOp_keeps
    assumption
  · assumption
theorem writeUmp_keeps {s0 s : State} {a0 a1} (h : Keeps s0 s) : Keeps s0 (writeUmp a0 a1 s) := by
  unfold writeUmp
  extract_lets v1
  have hv1 : Keeps s0 v1 := by
    unfold v1
    apply updUmp_keeps
    · assumption
    · exact fun hd => hd
    · exact fun hd => hd
    · exact fun hd => hd
  clear_value v1
  split
  · apply updUmp_keeps
    · assumption
    · exact fun hd => hd
    · exact fun hd => hd
    · exact fun hd => hd
  · apply updUmp_keeps
    · assumption
    · exact fun hd => hd
    · exact fun hd => hd
    · exact fun hd => hd
  · apply logFreeOp_keeps
    assumption
  · split
    · apply driverResetOp_keeps
      assumption
    · assumption
  · apply updUmp_keeps
    · assumption
    · exact fun hd => hd
    · exact fun hd => hd
    · exact fun hd => hd
  · split
    · apply dumpRequestOp_keeps
      assumption
    · assumption
  · assumption
theorem writeBhs_keeps {s0 s : State} {a0 a1} (h : Keeps s0 s) : Keeps s0 (writeBhs a0 a1 s) := by
  unfold writeBhs
  extract_lets v1
  split
  · apply updBhs_keeps
    assumption
  · assumption
theorem writeReg_keeps {s0 s : State} {a0 a1} (h : Keeps s0 s) : Keeps s0 (writeReg a0 a1 s) := by
  unfold writeReg
  extract_lets v1 v2
  split
  · apply writeMar_keeps
    assumption
  · split
    · apply keeps_cox
      assumption
    · assumption
  · apply writeStb_keeps
    assumption
  · apply writeHea_keeps
    assumption
  · apply writeSld_keeps
    assumption
  · apply writeRck_keeps
    assumption
  · apply writeRig_keeps
    assumption
  · split
    · split
      · apply strokeEnableOp_keeps
        assumption
      · apply strokeDisableOp_keeps
        assumption
    · assumption
  · apply writeTkp_keeps
    assumption
  · apply writeErg_keeps
    assumption
  · apply writeWak_keeps
    assumption
  · apply writeUmp_keeps
    assumption
  · apply writeBhs_keeps
    assumption
  · assumption
theorem writeDoorbell_keeps {s0 s : State} {a0 a1 a2} (h : Keeps s0 s) : Keeps s0 (writeDoorbell a0 a1 a2 s) := by
  unfold writeDoorbell
  split
  · apply doorbellOp_keeps
    assumption
  · apply doorbellOp_keeps
    assumption
  · apply invalidateOp_keeps
    assumption
  · apply dbReleaseOp_keeps
    assumption
  · assumption
theorem write32_keeps {s0 s : State} {a0 a1} (h : Keeps s0 s) : Keeps s0 (write32 a0 a1 s) := by
  unfold write32
  split
  · apply writeReg_keeps
    assumption
  · split
    · assumption
    · apply writeReg_keeps
      assumption
  · split
    · split
      · assumption
      · apply writeReg_keeps
        assumption
    · assumption
theorem write64_keeps {s0 s : State} {a0 a1} (h : Keeps s0 s) : Keeps s0 (write64 a0 a1 s) := by
  unfold write64
  split
  · apply writeReg_keeps
    assumption
  · apply write32_keeps
    apply write32_keeps
    assumption
theorem winWrite_keeps {s0 s : State} {a0 a1 a2} (h : Keeps s0 s) : Keeps s0 (winWrite a0 a1 a2 s) := by
  unfold winWrite
  split
  · assumption
  · split
    · split
      · apply writeDoorbell_keeps
        assumption
      · assumption
    · split
      · apply write64_keeps
        assumption
      · apply write32_keeps
        assumption
theorem execRegisterWrite_keeps {s0 s : State} {a0 a1 a2} (h : Keeps s0 s) : KeepsOut s0 (execRegisterWrite a0 a1 a2 s) := by
  unfold execRegisterWrite
  extract_lets v1
  split
  · trivial
  · apply keepsOut_next
    apply winWrite_keeps
    assumption
theorem clearErg_keeps {s0 s : State} {a0} (h : Keeps s0 s) : Keeps s0 (clearErg a0 s) := by
  unfold clearErg
  split
  · assumption
  · split
    · apply updSelCtr_keeps
      assumption
    · split
      · apply updErg_keeps
        assumption
      · assumption
theorem clearStb_keeps {s0 s : State} {a0} (h : Keeps s0 s) : Keeps s0 (clearStb a0 s) := by
  unfold clearStb
  split
  · apply updStb_keeps
    assumption
  · apply updStb_keeps
    assumption
  · apply updStb_keeps
    assumption
  · apply updStb_keeps
    assumption
  · apply updStb_keeps
    assumption
  · apply updStb_keeps
    assumption
  · apply updStb_keeps
    assumption
  · apply updPorts_keeps
    · assumption
    · exact fun hd => hd
  · apply updPorts_keeps
    · assumption
    · exact fun hd => hd
  · assumption
theorem clearJdg_keeps {s0 s : State} {a0} (h : Keeps s0 s) : Keeps s0 (clearJdg a0 s) := by
  unfold clearJdg
  extract_lets v1
  split
  · unfold v1
    apply keeps_judge
    assumption
  · unfold v1
    apply keeps_judge
    assumption
  · unfold v1
    apply keeps_judge
    assumption
  · unfold v1
    apply keeps_judge
    assumption
  · unfold v1
    apply keeps_judge
    assumption
  · unfold v1
    apply keeps_judge
    assumption
  · unfold v1
    apply keeps_judge
    assumption
  · assumption
theorem clearStk_keeps {s0 s : State} {a0} (h : Keeps s0 s) : Keeps s0 (clearStk a0 s) := by
  unfold clearStk
  split
  · apply updStk_keeps
    assumption
  · apply updStk_keeps
    assumption
  · apply updStk_keeps
    assumption
  · apply updStk_keeps
    assumption
  · apply updStk_keeps
    assumption
  · apply updStk_keeps
    assumption
  · apply updStk_keeps
    assumption
  · assumption
theorem clearBhs_keeps {s0 s : State} {a0} (h : Keeps s0 s) : Keeps s0 (clearBhs a0 s) := by
  unfold clearBhs
  split
  · apply updBhs_keeps
    assumption
  · apply updBhs_keeps
    assumption
  · apply updBhs_keeps
    assumption
  · assumption
theorem clearReg_keeps {s0 s : State} {a0} (h : Keeps s0 s) : Keeps s0 (clearReg a0 s) := by
  unfold clearReg
  extract_lets v1 v2
  split
  · split
    · split
      · assumption
      · apply updRow_keeps
        assumption
    · split
      · assumption
      · apply updRow_keeps
        assumption
    · assumption
  · split
    · split
      · apply updMar_keeps
        · assumption
        · rfl
      · assumption
    · split
      · split
        · assumption
        · apply updTree_keeps
          assumption
      · assumption
    · split
      · assumption
      · apply clearStb_keeps
        assumption
    · split
      · assumption
      · apply clearJdg_keeps
        assumption
    · split
      · apply updSld_keeps
        assumption
      · assumption
    · split
      · assumption
      · apply clearStk_keeps
        assumption
    · apply clearErg_keeps
      assumption
    · split
      · apply updStream_keeps
        assumption
      · assumption
    · split
      · apply updUmp_keeps
        · assumption
        · exact fun hd => hd
        · exact fun hd => hd
        · exact fun hd => hd
      · assumption
    · apply clearBhs_keeps
      assumption
    · assumption
theorem readOp_keeps {s0 s : State} {a0 a1} (h : Keeps s0 s) : Keeps s0 (readOp a0 a1 s) := by
  unfold readOp
  extract_lets v1 v2 v3
  have hv2 : Keeps s0 v2 := by
    unfold v2
    split
    · apply clearReg_keeps
      assumption
    · assumption
  clear_value v2
  have hv3 : Keeps s0 v3 := by
    unfold v3
    split
    · apply updUmp_keeps
      · assumption
      · exact fun hd => hd
      · exact fun hd => hd
      · exact fun hd => hd
    · assumption
  clear_value v3
  split
  · apply updPorts_keeps
    · assumption
    · exact fun hd => hd
  · apply updPorts_keeps
    · assumption
    · exact fun hd => hd
theorem execReadClear_keeps {s0 s : State} {a0 a1} (h : Keeps s0 s) : KeepsOut s0 (execReadClear a0 a1 s) := by
  unfold execReadClear
  apply keepsOut_next
  apply readOp_keeps
  assumption
theorem requestError_keeps {s0 s : State} {a0 a1 a2 a3 a4 a5} (h : Keeps s0 s) : Keeps s0 (requestError a0 a1 a2 a3 a4 a5 s) := by
  unfold requestError
  extract_lets v1
  split
  · assumption
  · split
    · assumption
    · apply ownerError_keeps
      assumption
theorem updOwn_keeps {s0 s : State} {a0 a1 a2} (h : Keeps s0 s) : Keeps s0 (updOwn a0 a1 a2 s) := by
  unfold updOwn
  apply updProg_keeps
  assumption
theorem entryRead_keeps {s0 s : State} {a0 a1 a2 a3 a4} (h : Keeps s0 s) : Keeps s0 (entryRead a0 a1 a2 a3 a4 s) := by
  unfold entryRead
  split
  · apply updRing_keeps
    assumption
  · assumption
theorem firstLineRead_keeps {s0 s : State} {a0 a1 a2 a3 a4} (h : Keeps s0 s) : Keeps s0 (firstLineRead a0 a1 a2 a3 a4 s) := by
  unfold firstLineRead
  extract_lets v1
  apply updRing_keeps
  assumption
theorem progLineRead_keeps {s0 s : State} {a0 a1 a2 a3 a4} (h : Keeps s0 s) : Keeps s0 (progLineRead a0 a1 a2 a3 a4 s) := by
  unfold progLineRead
  extract_lets v1
  have hv1 : Keeps s0 v1 := by
    unfold v1
    apply pushLine_keeps
    assumption
  clear_value v1
  split
  · split
    · split
      · apply runCore_keeps
        assumption
      · assumption
    · assumption
  · assumption
theorem loadcDone_keeps {s0 s : State} {a0 a1 a2 a3 a4 a5 a6 a7} (h : Keeps s0 s) : Keeps s0 (loadcDone a0 a1 a2 a3 a4 a5 a6 a7 s) := by
  unfold loadcDone
  extract_lets v1 v2
  have hv1 : Keeps s0 v1 := by
    unfold v1
    apply lessReqs_keeps
    assumption
  clear_value v1
  split
  · apply seatEvent_keeps
    apply updOwn_keeps
    assumption
  · apply seatEvent_keeps
    apply requestError_keeps
    assumption
theorem storecDone_keeps {s0 s : State} {a0 a1 a2 a3 a4} (h : Keeps s0 s) : Keeps s0 (storecDone a0 a1 a2 a3 a4 s) := by
  unfold storecDone
  extract_lets v1
  have hv1 : Keeps s0 v1 := by
    unfold v1
    apply lessReqs_keeps
    assumption
  clear_value v1
  apply seatEvent_keeps
  split
  · assumption
  · apply requestError_keeps
    assumption
theorem callHdrRead_keeps {s0 s : State} {a0 a1 a2 a3 a4 a5} (h : Keeps s0 s) : Keeps s0 (callHdrRead a0 a1 a2 a3 a4 a5 s) := by
  unfold callHdrRead
  extract_lets v1 v2
  have hv1 : Keeps s0 v1 := by
    unfold v1
    apply lessReqs_keeps
    assumption
  clear_value v1
  have hv2 : Keeps s0 v2 := by
    unfold v2
    apply runCore_keeps
    assumption
  clear_value v2
  split
  · apply settleOwner_keeps
    assumption
  · split
    · apply wordFailAt_keeps
      assumption
    · split
      · apply wordFail_keeps
        assumption
      · apply enterCourse_keeps
        assumption
theorem heatHdrRead_keeps {s0 s : State} {a0 a1 a2 a3 a4 a5} (h : Keeps s0 s) : Keeps s0 (heatHdrRead a0 a1 a2 a3 a4 a5 s) := by
  unfold heatHdrRead
  extract_lets v1 v2
  have hv1 : Keeps s0 v1 := by
    unfold v1
    apply lessReqs_keeps
    assumption
  clear_value v1
  have hv2 : Keeps s0 v2 := by
    unfold v2
    apply runCore_keeps
    assumption
  clear_value v2
  split
  · apply settleOwner_keeps
    assumption
  · split
    · apply settleOwner_keeps
      assumption
    · split
      · apply wordFailAt_keeps
        assumption
      · split
        · apply wordFail_keeps
          assumption
        · apply prefetch_keeps
          assumption
theorem pubGoesOn_keeps {s0 s : State} {a0} (h : Keeps s0 s) : Keeps s0 (pubGoesOn a0 s) := by
  unfold pubGoesOn
  apply settle_keeps
  apply pumpPub_keeps
  apply updRing_keeps
  assumption
theorem recordError_keeps {s0 s : State} {a0 a1} (h : Keeps s0 s) : Keeps s0 (recordError a0 a1 s) := by
  unfold recordError
  extract_lets v1 v2 v3
  have hv3 : Keeps s0 v3 := by
    unfold v3
    apply logRec_keeps
    assumption
  clear_value v3
  split
  · assumption
  · split
    · assumption
    · apply stopRing_keeps
      assumption
theorem kvResultDone_keeps {s0 s : State} {a0 a1} (h : Keeps s0 s) : Keeps s0 (kvResultDone a0 a1 s) := by
  unfold kvResultDone
  split
  · assumption
  · apply kvFinish_keeps
    assumption
theorem kvTableDone_keeps {s0 s : State} {a0 a1 a2} (h : Keeps s0 s) : Keeps s0 (kvTableDone a0 a1 a2 s) := by
  unfold kvTableDone
  split
  · apply blockAccess_keeps
    assumption
  · split
    · assumption
    · apply kvResults_keeps
      assumption
theorem planDone_keeps {s0 s : State} {a0} (h : Keeps s0 s) : Keeps s0 (planDone a0 s) := by
  unfold planDone
  split
  · assumption
  · apply kvTableDone_keeps
    assumption
  · apply kvResultDone_keeps
    assumption
  · apply tableWritten_keeps
    assumption
  · apply handlesDone_keeps
    assumption
  · apply pieceWritten_keeps
    assumption
  · apply saveHeadDone_keeps
    assumption
  · apply saveBlockDone_keeps
    assumption
  · apply saveFinalDone_keeps
    assumption
  · apply paramsWritten_keeps
    assumption
  · apply requestsWritten_keeps
    assumption
  · apply commitWritten_keeps
    assumption
  · apply intentWritten_keeps
    assumption
  · apply journalDone_keeps
    assumption
  · apply judgeResultDone_keeps
    assumption
  · apply tableWritten_keeps
    assumption
  · apply dumpWritten_keeps
    assumption
theorem planWrite_keeps {s0 s : State} {a0 a1 a2} (h : Keeps s0 s) : Keeps s0 (planWrite a0 a1 a2 s) := by
  unfold planWrite
  split
  · apply planDone_keeps
    refine KeepsP.of (planAnswer_keeps ?_) (by assumption)
    assumption
  · refine KeepsP.of (planAnswer_keeps ?_) (by assumption)
    assumption
theorem fetchRead_keeps {s0 s : State} {a0 a1 a2 a3} (h : Keeps s0 s) : Keeps s0 (fetchRead a0 a1 a2 a3 s) := by
  unfold fetchRead
  split
  · refine KeepsP.of (fetchAnswer_keeps ?_) (by assumption)
    assumption
  · split
    · apply judgeRead_keeps
      refine KeepsP.of (fetchAnswer_keeps ?_) (by assumption)
      assumption
    · apply restoreRead_keeps
      refine KeepsP.of (fetchAnswer_keeps ?_) (by assumption)
      assumption
    · apply restoreHeadRead_keeps
      refine KeepsP.of (fetchAnswer_keeps ?_) (by assumption)
      assumption
    · apply requestRead_keeps
      refine KeepsP.of (fetchAnswer_keeps ?_) (by assumption)
      assumption
    · apply recoverRead_keeps
      refine KeepsP.of (fetchAnswer_keeps ?_) (by assumption)
      assumption
theorem memDone_keeps {s0 s : State} {a0 a1 a2} (h : Keeps s0 s) : Keeps s0 (memDone a0 a1 a2 s) := by
  unfold memDone
  split
  · apply entryRead_keeps
    assumption
  · apply firstLineRead_keeps
    assumption
  · apply progLineRead_keeps
    assumption
  · apply loadcDone_keeps
    assumption
  · apply storecDone_keeps
    assumption
  · apply callHdrRead_keeps
    assumption
  · apply heatHdrRead_keeps
    assumption
  · apply pubGoesOn_keeps
    assumption
  · apply pubGoesOn_keeps
    split
    · assumption
    · apply recordError_keeps
      assumption
  · split
    · apply enqImageDone_keeps
      assumption
    · assumption
  · apply enqWriteDone_keeps
    assumption
  · apply planWrite_keeps
    assumption
  · apply fetchRead_keeps
    assumption
  · split
    · assumption
    · apply pubError_keeps
      assumption
  · split
    · assumption
    · apply traceError_keeps
      assumption
  · split
    · assumption
    · apply blockAccess_keeps
      assumption
theorem memAnswer_keeps {s0 s : State} {a0 a1 a2 a3} (h : Keeps s0 s) : Keeps s0 (memAnswer a0 a1 a2 a3 s) := by
  unfold memAnswer
  split
  · split
    · apply memDone_keeps
      assumption
    · assumption
  · split
    · apply targetLost_keeps
      assumption
    · split
      · assumption
      · apply pumpRecovery_keeps
        apply memDone_keeps
        split
        · apply poisonMark_keeps
          assumption
        · assumption
theorem execNmResponse_keeps {s0 s : State} {a0 a1 a2} (h : Keeps s0 s) : KeepsOut s0 (execNmResponse a0 a1 a2 s) := by
  unfold execNmResponse
  split
  · trivial
  · refine memAnswer_keeps ?_
    have h1 : ∀ isl, Keeps s0 (rspEv isl 0 a0 a2 (updPorts (fun p => { p with nm := dropMem s.now a0 p.nm }) s)) := fun isl =>
      rspEv_keeps (updPorts_keeps h fun ⟨a, b⟩ => ⟨nodup_drop (fun _ => rfl) a, b⟩)
    split
    · exact recheckCores_keeps (h1 _)
    · exact h1 _
theorem execHmResponse_keeps {s0 s : State} {a0 a1 a2} (h : Keeps s0 s) : KeepsOut s0 (execHmResponse a0 a1 a2 s) := by
  unfold execHmResponse
  split
  · trivial
  · exact memAnswer_keeps (rspEv_keeps (updPorts_keeps h fun ⟨a, b, c⟩ => ⟨a, nodup_drop (fun _ => rfl) b, c⟩))
theorem atomcDone_keeps {s0 s : State} {a0 a1 a2 a3 a4 a5 a6 a7} (h : Keeps s0 s) : Keeps s0 (atomcDone a0 a1 a2 a3 a4 a5 a6 a7 s) := by
  unfold atomcDone
  extract_lets v1
  have hv1 : Keeps s0 v1 := by
    unfold v1
    apply lessReqs_keeps
    assumption
  clear_value v1
  split
  · apply seatEvent_keeps
    apply updOwn_keeps
    assumption
  · apply seatEvent_keeps
    apply requestError_keeps
    assumption
theorem signalDone_keeps {s0 s : State} {a0 a1 a2 a3 a4 a5 a6} (h : Keeps s0 s) : Keeps s0 (signalDone a0 a1 a2 a3 a4 a5 a6 s) := by
  unfold signalDone
  extract_lets v1
  have hv1 : Keeps s0 v1 := by
    unfold v1
    apply lessReqs_keeps
    assumption
  clear_value v1
  apply seatEvent_keeps
  split
  · apply noteSignal_keeps
    assumption
  · apply requestError_keeps
    assumption
theorem hostSignalDone_keeps {s0 s : State} {a0 a1 a2 a3} (h : Keeps s0 s) : Keeps s0 (hostSignalDone a0 a1 a2 a3 s) := by
  unfold hostSignalDone
  split
  · apply noteSignal_keeps
    apply updPorts_keeps
    · assumption
    · exact fun hd => hd
  · apply updPorts_keeps
    · assumption
    · exact fun hd => hd
theorem fenceLost_keeps {s0 s : State} {a0 a1 a2} (h : Keeps s0 s) : Keeps s0 (fenceLost a0 a1 a2 s) := by
  unfold fenceLost
  extract_lets v1
  apply updWork_keeps
  apply logRec_keeps
  assumption
theorem fenceWritten_keeps {s0 s : State} {a0} (h : Keeps s0 s) : Keeps s0 (fenceWritten a0 s) := by
  unfold fenceWritten
  apply updWork_keeps
  assumption
theorem fenceDone_keeps {s0 s : State} {a0 a1 a2 a3 a4} (h : Keeps s0 s) : Keeps s0 (fenceDone a0 a1 a2 a3 a4 s) := by
  unfold fenceDone
  apply settleOwner_keeps
  split
  · apply fenceWritten_keeps
    apply noteSignal_keeps
    assumption
  · apply fenceLost_keeps
    assumption
theorem failReturned_keeps {s0 s : State} {a0 a1 a2 a3} (h : Keeps s0 s) : Keeps s0 (failReturned a0 a1 a2 a3 s) := by
  unfold failReturned
  extract_lets v1
  split
  · apply settleOwner_keeps
    split
    · apply fenceWritten_keeps
      assumption
    · apply fenceLost_keeps
      assumption
  · split
    · assumption
    · apply logRec_keeps
      assumption
  · split
    · apply updPorts_keeps
      · assumption
      · exact fun hd => hd
    · apply updPorts_keeps
      · assumption
      · exact fun hd => hd
  · assumption
theorem failDone_keeps {s0 s : State} {a0 a1 a2 a3 a4 a5 a6} (h : Keeps s0 s) : Keeps s0 (failDone a0 a1 a2 a3 a4 a5 a6 s) := by
  unfold failDone
  split
  · apply failReturned_keeps
    assumption
  · split
    · apply failReturned_keeps
      refine KeepsP.of (failFenceStep_keeps ?_) (by assumption)
      assumption
    · refine KeepsP.of (failFenceStep_keeps ?_) (by assumption)
      assumption
theorem atDone_keeps {s0 s : State} {a0 a1 a2} (h : Keeps s0 s) : Keeps s0 (atDone a0 a1 a2 s) := by
  unfold atDone
  split
  · apply atomcDone_keeps
    assumption
  · apply waitReadDone_keeps
    assumption
  · apply watchReadDone_keeps
    assumption
  · apply signalDone_keeps
    assumption
  · apply hostSignalDone_keeps
    assumption
  · apply fenceDone_keeps
    assumption
  · apply failDone_keeps
    assumption
  · apply remoteDone_keeps
    assumption
theorem atAnswer_keeps {s0 s : State} {a0 a1 a2} (h : Keeps s0 s) : Keeps s0 (atAnswer a0 a1 a2 s) := by
  unfold atAnswer
  split
  · split
    · apply failDone_keeps
      assumption
    · assumption
  · split
    · apply targetLost_keeps
      assumption
    · split
      · assumption
      · apply pumpRecovery_keeps
        apply atDone_keeps
        split
        · apply poisonMark_keeps
          assumption
        · assumption
theorem execAtResponse_keeps {s0 s : State} {a0 a1 a2} (h : Keeps s0 s) : KeepsOut s0 (execAtResponse a0 a1 a2 s) := by
  unfold execAtResponse
  split
  · trivial
  · refine atAnswer_keeps ?_
    have h1 : ∀ isl, Keeps s0 (rspEv isl 1 a0 a2 (updPorts (fun p => { p with at_ := dropAt s.now a0 p.at_ }) s)) := fun isl =>
      rspEv_keeps (updPorts_keeps h fun ⟨a, b, c, d⟩ => ⟨a, b, nodup_drop (fun _ => rfl) c, d⟩)
    split
    · exact recheckCores_keeps (h1 _)
    · exact h1 _
theorem execWdResponse_keeps {s0 s : State} {a0 a1 a2 a3} (h : Keeps s0 s) : KeepsOut s0 (execWdResponse a0 a1 a2 a3 s) := by
  unfold execWdResponse
  split
  · trivial
  · next q0 hq =>
    have ht : q0.tag = a0 := by simpa using List.find?_some hq
    extract_lets q s1
    have h1 : Keeps s0 s1 := by
      refine rspEv_keeps (updPorts_keeps h fun ⟨a, b, c, d⟩ => ⟨a, b, c, ?_⟩)
      dsimp only
      split
      · exact nodup_filter d
      · refine nodup_map d fun x => ?_
        split
        · next hx => simp only [wideBeat, q, ht]; simpa using (beq_iff_eq.1 hx).symm
        · rfl
    clear_value s1 q
    split
    · exact h1
    · split
      · exact targetLost_keeps h1
      · split
        · exact h1
        · refine pumpRecovery_keeps (judgeWide_keeps ?_)
          split
          · exact poisonMark_keeps h1
          · exact h1
theorem countRefusals_keeps {s0 s : State} {a0} (h : Keeps s0 s) : Keeps s0 (countRefusals a0 s) := by
  unfold countRefusals
  apply each_keeps
  · assumption
  · intro i1 i2 i3
    split
    · apply updTree_keeps
      assumption
    · split
      · apply updTree_keeps
        assumption
      · assumption
theorem noteRefusals_keeps {s0 s : State} (h : Keeps s0 s) : Keeps s0 (noteRefusals s) := by
  unfold noteRefusals
  extract_lets v1 v2 v3
  apply each_keeps
  · apply each_keeps
    · assumption
    · intro i1 i2 i3
      unfold v1
      extract_lets v4
      split
      · assumption
      · apply refuseEv_keeps
        apply updTree_keeps
        assumption
  · intro i4 i5 i6
    apply each_keeps
    · assumption
    · intro i7 i8 i9
      unfold v2
      extract_lets v5 v6
      split
      · assumption
      · apply refuseEv_keeps
        apply updRow_keeps
        assumption
theorem tick_keeps (s : State) : Keeps s (tick s) := by
  unfold tick
  split
  · exact Keeps.refl s
  · have h := lazyWriteBack_keeps (transferTx_keeps (settleVacated_keeps (countRefusals_keeps
      (a0 := (s.tkp.frac + (40 * (1000000000 + trimPpb s.tkp.cfg)).toNat) / 1000000000) (noteRefusals_keeps (Keeps.refl s)))))
    exact ⟨h.1, h.2, h.3, h.4, Nat.le_add_right _ _, h.6, h.7, h.8, h.9⟩

end Sys2Proof.Machine
end

