-- ==== Sys2Proof/Laws/State.lean ====
section
/-! SUPPORT. What each update of State leaves as it was: one lemma for each field, and the reading of a table after a write. -/
namespace Sys2Proof.Machine

variable {s : State}

@[simp] theorem updMar_mar (f : Mar → Mar) : (updMar f s).mar = f s.mar := rfl
@[simp] theorem updMar_build (f : Mar → Mar) : (updMar f s).build = s.build := rfl
@[simp] theorem updMar_tkp (f : Mar → Mar) : (updMar f s).tkp = s.tkp := rfl
@[simp] theorem updMar_ump (f : Mar → Mar) : (updMar f s).ump = s.ump := rfl
@[simp] theorem updMar_rig (f : Mar → Mar) : (updMar f s).rig = s.rig := rfl
@[simp] theorem updMar_cox (f : Mar → Mar) : (updMar f s).cox = s.cox := rfl
@[simp] theorem updMar_rack (f : Mar → Mar) : (updMar f s).rack = s.rack := rfl
@[simp] theorem updMar_mem (f : Mar → Mar) : (updMar f s).mem = s.mem := rfl
@[simp] theorem updMar_sld (f : Mar → Mar) : (updMar f s).sld = s.sld := rfl
@[simp] theorem updMar_heat (f : Mar → Mar) : (updMar f s).heat = s.heat := rfl
@[simp] theorem updMar_judge (f : Mar → Mar) : (updMar f s).judge = s.judge := rfl
@[simp] theorem updMar_stk (f : Mar → Mar) : (updMar f s).stk = s.stk := rfl
@[simp] theorem updMar_bhs (f : Mar → Mar) : (updMar f s).bhs = s.bhs := rfl
@[simp] theorem updMar_fab (f : Mar → Mar) : (updMar f s).fab = s.fab := rfl
@[simp] theorem updMar_stb (f : Mar → Mar) : (updMar f s).stb = s.stb := rfl
@[simp] theorem updMar_ports (f : Mar → Mar) : (updMar f s).ports = s.ports := rfl
@[simp] theorem updMar_wake (f : Mar → Mar) : (updMar f s).wake = s.wake := rfl
@[simp] theorem updMar_erg (f : Mar → Mar) : (updMar f s).erg = s.erg := rfl
@[simp] theorem updMar_fresh (f : Mar → Mar) : (updMar f s).fresh = s.fresh := rfl
@[simp] theorem updMar_pending (f : Mar → Mar) : (updMar f s).pending = s.pending := rfl
@[simp] theorem updUmp_ump (f : Ump → Ump) : (updUmp f s).ump = f s.ump := rfl
@[simp] theorem updUmp_build (f : Ump → Ump) : (updUmp f s).build = s.build := rfl
@[simp] theorem updUmp_tkp (f : Ump → Ump) : (updUmp f s).tkp = s.tkp := rfl
@[simp] theorem updUmp_rig (f : Ump → Ump) : (updUmp f s).rig = s.rig := rfl
@[simp] theorem updUmp_mar (f : Ump → Ump) : (updUmp f s).mar = s.mar := rfl
@[simp] theorem updUmp_cox (f : Ump → Ump) : (updUmp f s).cox = s.cox := rfl
@[simp] theorem updUmp_rack (f : Ump → Ump) : (updUmp f s).rack = s.rack := rfl
@[simp] theorem updUmp_mem (f : Ump → Ump) : (updUmp f s).mem = s.mem := rfl
@[simp] theorem updUmp_sld (f : Ump → Ump) : (updUmp f s).sld = s.sld := rfl
@[simp] theorem updUmp_heat (f : Ump → Ump) : (updUmp f s).heat = s.heat := rfl
@[simp] theorem updUmp_judge (f : Ump → Ump) : (updUmp f s).judge = s.judge := rfl
@[simp] theorem updUmp_stk (f : Ump → Ump) : (updUmp f s).stk = s.stk := rfl
@[simp] theorem updUmp_bhs (f : Ump → Ump) : (updUmp f s).bhs = s.bhs := rfl
@[simp] theorem updUmp_fab (f : Ump → Ump) : (updUmp f s).fab = s.fab := rfl
@[simp] theorem updUmp_stb (f : Ump → Ump) : (updUmp f s).stb = s.stb := rfl
@[simp] theorem updUmp_ports (f : Ump → Ump) : (updUmp f s).ports = s.ports := rfl
@[simp] theorem updUmp_wake (f : Ump → Ump) : (updUmp f s).wake = s.wake := rfl
@[simp] theorem updUmp_erg (f : Ump → Ump) : (updUmp f s).erg = s.erg := rfl
@[simp] theorem updUmp_fresh (f : Ump → Ump) : (updUmp f s).fresh = s.fresh := rfl
@[simp] theorem updUmp_pending (f : Ump → Ump) : (updUmp f s).pending = s.pending := rfl
@[simp] theorem updRig_rig (f : Rig → Rig) : (updRig f s).rig = f s.rig := rfl
@[simp] theorem updRig_build (f : Rig → Rig) : (updRig f s).build = s.build := rfl
@[simp] theorem updRig_tkp (f : Rig → Rig) : (updRig f s).tkp = s.tkp := rfl
@[simp] theorem updRig_ump (f : Rig → Rig) : (updRig f s).ump = s.ump := rfl
@[simp] theorem updRig_mar (f : Rig → Rig) : (updRig f s).mar = s.mar := rfl
@[simp] theorem updRig_cox (f : Rig → Rig) : (updRig f s).cox = s.cox := rfl
@[simp] theorem updRig_rack (f : Rig → Rig) : (updRig f s).rack = s.rack := rfl
@[simp] theorem updRig_mem (f : Rig → Rig) : (updRig f s).mem = s.mem := rfl
@[simp] theorem updRig_sld (f : Rig → Rig) : (updRig f s).sld = s.sld := rfl
@[simp] theorem updRig_heat (f : Rig → Rig) : (updRig f s).heat = s.heat := rfl
@[simp] theorem updRig_judge (f : Rig → Rig) : (updRig f s).judge = s.judge := rfl
@[simp] theorem updRig_stk (f : Rig → Rig) : (updRig f s).stk = s.stk := rfl
@[simp] theorem updRig_bhs (f : Rig → Rig) : (updRig f s).bhs = s.bhs := rfl
@[simp] theorem updRig_fab (f : Rig → Rig) : (updRig f s).fab = s.fab := rfl
@[simp] theorem updRig_stb (f : Rig → Rig) : (updRig f s).stb = s.stb := rfl
@[simp] theorem updRig_ports (f : Rig → Rig) : (updRig f s).ports = s.ports := rfl
@[simp] theorem updRig_wake (f : Rig → Rig) : (updRig f s).wake = s.wake := rfl
@[simp] theorem updRig_erg (f : Rig → Rig) : (updRig f s).erg = s.erg := rfl
@[simp] theorem updRig_fresh (f : Rig → Rig) : (updRig f s).fresh = s.fresh := rfl
@[simp] theorem updRig_pending (f : Rig → Rig) : (updRig f s).pending = s.pending := rfl
@[simp] theorem updTkp_tkp (f : Tkp → Tkp) : (updTkp f s).tkp = f s.tkp := rfl
@[simp] theorem updTkp_build (f : Tkp → Tkp) : (updTkp f s).build = s.build := rfl
@[simp] theorem updTkp_ump (f : Tkp → Tkp) : (updTkp f s).ump = s.ump := rfl
@[simp] theorem updTkp_rig (f : Tkp → Tkp) : (updTkp f s).rig = s.rig := rfl
@[simp] theorem updTkp_mar (f : Tkp → Tkp) : (updTkp f s).mar = s.mar := rfl
@[simp] theorem updTkp_cox (f : Tkp → Tkp) : (updTkp f s).cox = s.cox := rfl
@[simp] theorem updTkp_rack (f : Tkp → Tkp) : (updTkp f s).rack = s.rack := rfl
@[simp] theorem updTkp_mem (f : Tkp → Tkp) : (updTkp f s).mem = s.mem := rfl
@[simp] theorem updTkp_sld (f : Tkp → Tkp) : (updTkp f s).sld = s.sld := rfl
@[simp] theorem updTkp_heat (f : Tkp → Tkp) : (updTkp f s).heat = s.heat := rfl
@[simp] theorem updTkp_judge (f : Tkp → Tkp) : (updTkp f s).judge = s.judge := rfl
@[simp] theorem updTkp_stk (f : Tkp → Tkp) : (updTkp f s).stk = s.stk := rfl
@[simp] theorem updTkp_bhs (f : Tkp → Tkp) : (updTkp f s).bhs = s.bhs := rfl
@[simp] theorem updTkp_fab (f : Tkp → Tkp) : (updTkp f s).fab = s.fab := rfl
@[simp] theorem updTkp_stb (f : Tkp → Tkp) : (updTkp f s).stb = s.stb := rfl
@[simp] theorem updTkp_ports (f : Tkp → Tkp) : (updTkp f s).ports = s.ports := rfl
@[simp] theorem updTkp_wake (f : Tkp → Tkp) : (updTkp f s).wake = s.wake := rfl
@[simp] theorem updTkp_erg (f : Tkp → Tkp) : (updTkp f s).erg = s.erg := rfl
@[simp] theorem updTkp_fresh (f : Tkp → Tkp) : (updTkp f s).fresh = s.fresh := rfl
@[simp] theorem updTkp_pending (f : Tkp → Tkp) : (updTkp f s).pending = s.pending := rfl
@[simp] theorem updRack_rack (f : Rack → Rack) : (updRack f s).rack = f s.rack := rfl
@[simp] theorem updRack_build (f : Rack → Rack) : (updRack f s).build = s.build := rfl
@[simp] theorem updRack_tkp (f : Rack → Rack) : (updRack f s).tkp = s.tkp := rfl
@[simp] theorem updRack_ump (f : Rack → Rack) : (updRack f s).ump = s.ump := rfl
@[simp] theorem updRack_rig (f : Rack → Rack) : (updRack f s).rig = s.rig := rfl
@[simp] theorem updRack_mar (f : Rack → Rack) : (updRack f s).mar = s.mar := rfl
@[simp] theorem updRack_cox (f : Rack → Rack) : (updRack f s).cox = s.cox := rfl
@[simp] theorem updRack_mem (f : Rack → Rack) : (updRack f s).mem = s.mem := rfl
@[simp] theorem updRack_sld (f : Rack → Rack) : (updRack f s).sld = s.sld := rfl
@[simp] theorem updRack_heat (f : Rack → Rack) : (updRack f s).heat = s.heat := rfl
@[simp] theorem updRack_judge (f : Rack → Rack) : (updRack f s).judge = s.judge := rfl
@[simp] theorem updRack_stk (f : Rack → Rack) : (updRack f s).stk = s.stk := rfl
@[simp] theorem updRack_bhs (f : Rack → Rack) : (updRack f s).bhs = s.bhs := rfl
@[simp] theorem updRack_fab (f : Rack → Rack) : (updRack f s).fab = s.fab := rfl
@[simp] theorem updRack_stb (f : Rack → Rack) : (updRack f s).stb = s.stb := rfl
@[simp] theorem updRack_ports (f : Rack → Rack) : (updRack f s).ports = s.ports := rfl
@[simp] theorem updRack_wake (f : Rack → Rack) : (updRack f s).wake = s.wake := rfl
@[simp] theorem updRack_erg (f : Rack → Rack) : (updRack f s).erg = s.erg := rfl
@[simp] theorem updRack_fresh (f : Rack → Rack) : (updRack f s).fresh = s.fresh := rfl
@[simp] theorem updRack_pending (f : Rack → Rack) : (updRack f s).pending = s.pending := rfl
@[simp] theorem updMem_mem (f : Mem → Mem) : (updMem f s).mem = f s.mem := rfl
@[simp] theorem updMem_build (f : Mem → Mem) : (updMem f s).build = s.build := rfl
@[simp] theorem updMem_tkp (f : Mem → Mem) : (updMem f s).tkp = s.tkp := rfl
@[simp] theorem updMem_ump (f : Mem → Mem) : (updMem f s).ump = s.ump := rfl
@[simp] theorem updMem_rig (f : Mem → Mem) : (updMem f s).rig = s.rig := rfl
@[simp] theorem updMem_mar (f : Mem → Mem) : (updMem f s).mar = s.mar := rfl
@[simp] theorem updMem_cox (f : Mem → Mem) : (updMem f s).cox = s.cox := rfl
@[simp] theorem updMem_rack (f : Mem → Mem) : (updMem f s).rack = s.rack := rfl
@[simp] theorem updMem_sld (f : Mem → Mem) : (updMem f s).sld = s.sld := rfl
@[simp] theorem updMem_heat (f : Mem → Mem) : (updMem f s).heat = s.heat := rfl
@[simp] theorem updMem_judge (f : Mem → Mem) : (updMem f s).judge = s.judge := rfl
@[simp] theorem updMem_stk (f : Mem → Mem) : (updMem f s).stk = s.stk := rfl
@[simp] theorem updMem_bhs (f : Mem → Mem) : (updMem f s).bhs = s.bhs := rfl
@[simp] theorem updMem_fab (f : Mem → Mem) : (updMem f s).fab = s.fab := rfl
@[simp] theorem updMem_stb (f : Mem → Mem) : (updMem f s).stb = s.stb := rfl
@[simp] theorem updMem_ports (f : Mem → Mem) : (updMem f s).ports = s.ports := rfl
@[simp] theorem updMem_wake (f : Mem → Mem) : (updMem f s).wake = s.wake := rfl
@[simp] theorem updMem_erg (f : Mem → Mem) : (updMem f s).erg = s.erg := rfl
@[simp] theorem updMem_fresh (f : Mem → Mem) : (updMem f s).fresh = s.fresh := rfl
@[simp] theorem updMem_pending (f : Mem → Mem) : (updMem f s).pending = s.pending := rfl
@[simp] theorem updSld_sld (f : Sld → Sld) : (updSld f s).sld = f s.sld := rfl
@[simp] theorem updSld_build (f : Sld → Sld) : (updSld f s).build = s.build := rfl
@[simp] theorem updSld_tkp (f : Sld → Sld) : (updSld f s).tkp = s.tkp := rfl
@[simp] theorem updSld_ump (f : Sld → Sld) : (updSld f s).ump = s.ump := rfl
@[simp] theorem updSld_rig (f : Sld → Sld) : (updSld f s).rig = s.rig := rfl
@[simp] theorem updSld_mar (f : Sld → Sld) : (updSld f s).mar = s.mar := rfl
@[simp] theorem updSld_cox (f : Sld → Sld) : (updSld f s).cox = s.cox := rfl
@[simp] theorem updSld_rack (f : Sld → Sld) : (updSld f s).rack = s.rack := rfl
@[simp] theorem updSld_mem (f : Sld → Sld) : (updSld f s).mem = s.mem := rfl
@[simp] theorem updSld_heat (f : Sld → Sld) : (updSld f s).heat = s.heat := rfl
@[simp] theorem updSld_judge (f : Sld → Sld) : (updSld f s).judge = s.judge := rfl
@[simp] theorem updSld_stk (f : Sld → Sld) : (updSld f s).stk = s.stk := rfl
@[simp] theorem updSld_bhs (f : Sld → Sld) : (updSld f s).bhs = s.bhs := rfl
@[simp] theorem updSld_fab (f : Sld → Sld) : (updSld f s).fab = s.fab := rfl
@[simp] theorem updSld_stb (f : Sld → Sld) : (updSld f s).stb = s.stb := rfl
@[simp] theorem updSld_ports (f : Sld → Sld) : (updSld f s).ports = s.ports := rfl
@[simp] theorem updSld_wake (f : Sld → Sld) : (updSld f s).wake = s.wake := rfl
@[simp] theorem updSld_erg (f : Sld → Sld) : (updSld f s).erg = s.erg := rfl
@[simp] theorem updSld_fresh (f : Sld → Sld) : (updSld f s).fresh = s.fresh := rfl
@[simp] theorem updSld_pending (f : Sld → Sld) : (updSld f s).pending = s.pending := rfl
@[simp] theorem updHeat_heat (f : Heat → Heat) : (updHeat f s).heat = f s.heat := rfl
@[simp] theorem updHeat_build (f : Heat → Heat) : (updHeat f s).build = s.build := rfl
@[simp] theorem updHeat_tkp (f : Heat → Heat) : (updHeat f s).tkp = s.tkp := rfl
@[simp] theorem updHeat_ump (f : Heat → Heat) : (updHeat f s).ump = s.ump := rfl
@[simp] theorem updHeat_rig (f : Heat → Heat) : (updHeat f s).rig = s.rig := rfl
@[simp] theorem updHeat_mar (f : Heat → Heat) : (updHeat f s).mar = s.mar := rfl
@[simp] theorem updHeat_cox (f : Heat → Heat) : (updHeat f s).cox = s.cox := rfl
@[simp] theorem updHeat_rack (f : Heat → Heat) : (updHeat f s).rack = s.rack := rfl
@[simp] theorem updHeat_mem (f : Heat → Heat) : (updHeat f s).mem = s.mem := rfl
@[simp] theorem updHeat_sld (f : Heat → Heat) : (updHeat f s).sld = s.sld := rfl
@[simp] theorem updHeat_judge (f : Heat → Heat) : (updHeat f s).judge = s.judge := rfl
@[simp] theorem updHeat_stk (f : Heat → Heat) : (updHeat f s).stk = s.stk := rfl
@[simp] theorem updHeat_bhs (f : Heat → Heat) : (updHeat f s).bhs = s.bhs := rfl
@[simp] theorem updHeat_fab (f : Heat → Heat) : (updHeat f s).fab = s.fab := rfl
@[simp] theorem updHeat_stb (f : Heat → Heat) : (updHeat f s).stb = s.stb := rfl
@[simp] theorem updHeat_ports (f : Heat → Heat) : (updHeat f s).ports = s.ports := rfl
@[simp] theorem updHeat_wake (f : Heat → Heat) : (updHeat f s).wake = s.wake := rfl
@[simp] theorem updHeat_erg (f : Heat → Heat) : (updHeat f s).erg = s.erg := rfl
@[simp] theorem updHeat_fresh (f : Heat → Heat) : (updHeat f s).fresh = s.fresh := rfl
@[simp] theorem updHeat_pending (f : Heat → Heat) : (updHeat f s).pending = s.pending := rfl
@[simp] theorem updJudge_judge (f : Judge → Judge) : (updJudge f s).judge = f s.judge := rfl
@[simp] theorem updJudge_build (f : Judge → Judge) : (updJudge f s).build = s.build := rfl
@[simp] theorem updJudge_tkp (f : Judge → Judge) : (updJudge f s).tkp = s.tkp := rfl
@[simp] theorem updJudge_ump (f : Judge → Judge) : (updJudge f s).ump = s.ump := rfl
@[simp] theorem updJudge_rig (f : Judge → Judge) : (updJudge f s).rig = s.rig := rfl
@[simp] theorem updJudge_mar (f : Judge → Judge) : (updJudge f s).mar = s.mar := rfl
@[simp] theorem updJudge_cox (f : Judge → Judge) : (updJudge f s).cox = s.cox := rfl
@[simp] theorem updJudge_rack (f : Judge → Judge) : (updJudge f s).rack = s.rack := rfl
@[simp] theorem updJudge_mem (f : Judge → Judge) : (updJudge f s).mem = s.mem := rfl
@[simp] theorem updJudge_sld (f : Judge → Judge) : (updJudge f s).sld = s.sld := rfl
@[simp] theorem updJudge_heat (f : Judge → Judge) : (updJudge f s).heat = s.heat := rfl
@[simp] theorem updJudge_stk (f : Judge → Judge) : (updJudge f s).stk = s.stk := rfl
@[simp] theorem updJudge_bhs (f : Judge → Judge) : (updJudge f s).bhs = s.bhs := rfl
@[simp] theorem updJudge_fab (f : Judge → Judge) : (updJudge f s).fab = s.fab := rfl
@[simp] theorem updJudge_stb (f : Judge → Judge) : (updJudge f s).stb = s.stb := rfl
@[simp] theorem updJudge_ports (f : Judge → Judge) : (updJudge f s).ports = s.ports := rfl
@[simp] theorem updJudge_wake (f : Judge → Judge) : (updJudge f s).wake = s.wake := rfl
@[simp] theorem updJudge_erg (f : Judge → Judge) : (updJudge f s).erg = s.erg := rfl
@[simp] theorem updJudge_fresh (f : Judge → Judge) : (updJudge f s).fresh = s.fresh := rfl
@[simp] theorem updJudge_pending (f : Judge → Judge) : (updJudge f s).pending = s.pending := rfl
@[simp] theorem updStk_stk (f : Stk → Stk) : (updStk f s).stk = f s.stk := rfl
@[simp] theorem updStk_build (f : Stk → Stk) : (updStk f s).build = s.build := rfl
@[simp] theorem updStk_tkp (f : Stk → Stk) : (updStk f s).tkp = s.tkp := rfl
@[simp] theorem updStk_ump (f : Stk → Stk) : (updStk f s).ump = s.ump := rfl
@[simp] theorem updStk_rig (f : Stk → Stk) : (updStk f s).rig = s.rig := rfl
@[simp] theorem updStk_mar (f : Stk → Stk) : (updStk f s).mar = s.mar := rfl
@[simp] theorem updStk_cox (f : Stk → Stk) : (updStk f s).cox = s.cox := rfl
@[simp] theorem updStk_rack (f : Stk → Stk) : (updStk f s).rack = s.rack := rfl
@[simp] theorem updStk_mem (f : Stk → Stk) : (updStk f s).mem = s.mem := rfl
@[simp] theorem updStk_sld (f : Stk → Stk) : (updStk f s).sld = s.sld := rfl
@[simp] theorem updStk_heat (f : Stk → Stk) : (updStk f s).heat = s.heat := rfl
@[simp] theorem updStk_judge (f : Stk → Stk) : (updStk f s).judge = s.judge := rfl
@[simp] theorem updStk_bhs (f : Stk → Stk) : (updStk f s).bhs = s.bhs := rfl
@[simp] theorem updStk_fab (f : Stk → Stk) : (updStk f s).fab = s.fab := rfl
@[simp] theorem updStk_stb (f : Stk → Stk) : (updStk f s).stb = s.stb := rfl
@[simp] theorem updStk_ports (f : Stk → Stk) : (updStk f s).ports = s.ports := rfl
@[simp] theorem updStk_wake (f : Stk → Stk) : (updStk f s).wake = s.wake := rfl
@[simp] theorem updStk_erg (f : Stk → Stk) : (updStk f s).erg = s.erg := rfl
@[simp] theorem updStk_fresh (f : Stk → Stk) : (updStk f s).fresh = s.fresh := rfl
@[simp] theorem updStk_pending (f : Stk → Stk) : (updStk f s).pending = s.pending := rfl
@[simp] theorem updBhs_bhs (f : Bhs → Bhs) : (updBhs f s).bhs = f s.bhs := rfl
@[simp] theorem updBhs_build (f : Bhs → Bhs) : (updBhs f s).build = s.build := rfl
@[simp] theorem updBhs_tkp (f : Bhs → Bhs) : (updBhs f s).tkp = s.tkp := rfl
@[simp] theorem updBhs_ump (f : Bhs → Bhs) : (updBhs f s).ump = s.ump := rfl
@[simp] theorem updBhs_rig (f : Bhs → Bhs) : (updBhs f s).rig = s.rig := rfl
@[simp] theorem updBhs_mar (f : Bhs → Bhs) : (updBhs f s).mar = s.mar := rfl
@[simp] theorem updBhs_cox (f : Bhs → Bhs) : (updBhs f s).cox = s.cox := rfl
@[simp] theorem updBhs_rack (f : Bhs → Bhs) : (updBhs f s).rack = s.rack := rfl
@[simp] theorem updBhs_mem (f : Bhs → Bhs) : (updBhs f s).mem = s.mem := rfl
@[simp] theorem updBhs_sld (f : Bhs → Bhs) : (updBhs f s).sld = s.sld := rfl
@[simp] theorem updBhs_heat (f : Bhs → Bhs) : (updBhs f s).heat = s.heat := rfl
@[simp] theorem updBhs_judge (f : Bhs → Bhs) : (updBhs f s).judge = s.judge := rfl
@[simp] theorem updBhs_stk (f : Bhs → Bhs) : (updBhs f s).stk = s.stk := rfl
@[simp] theorem updBhs_fab (f : Bhs → Bhs) : (updBhs f s).fab = s.fab := rfl
@[simp] theorem updBhs_stb (f : Bhs → Bhs) : (updBhs f s).stb = s.stb := rfl
@[simp] theorem updBhs_ports (f : Bhs → Bhs) : (updBhs f s).ports = s.ports := rfl
@[simp] theorem updBhs_wake (f : Bhs → Bhs) : (updBhs f s).wake = s.wake := rfl
@[simp] theorem updBhs_erg (f : Bhs → Bhs) : (updBhs f s).erg = s.erg := rfl
@[simp] theorem updBhs_fresh (f : Bhs → Bhs) : (updBhs f s).fresh = s.fresh := rfl
@[simp] theorem updBhs_pending (f : Bhs → Bhs) : (updBhs f s).pending = s.pending := rfl
@[simp] theorem updStb_stb (f : Stb → Stb) : (updStb f s).stb = f s.stb := rfl
@[simp] theorem updStb_build (f : Stb → Stb) : (updStb f s).build = s.build := rfl
@[simp] theorem updStb_tkp (f : Stb → Stb) : (updStb f s).tkp = s.tkp := rfl
@[simp] theorem updStb_ump (f : Stb → Stb) : (updStb f s).ump = s.ump := rfl
@[simp] theorem updStb_rig (f : Stb → Stb) : (updStb f s).rig = s.rig := rfl
@[simp] theorem updStb_mar (f : Stb → Stb) : (updStb f s).mar = s.mar := rfl
@[simp] theorem updStb_cox (f : Stb → Stb) : (updStb f s).cox = s.cox := rfl
@[simp] theorem updStb_rack (f : Stb → Stb) : (updStb f s).rack = s.rack := rfl
@[simp] theorem updStb_mem (f : Stb → Stb) : (updStb f s).mem = s.mem := rfl
@[simp] theorem updStb_sld (f : Stb → Stb) : (updStb f s).sld = s.sld := rfl
@[simp] theorem updStb_heat (f : Stb → Stb) : (updStb f s).heat = s.heat := rfl
@[simp] theorem updStb_judge (f : Stb → Stb) : (updStb f s).judge = s.judge := rfl
@[simp] theorem updStb_stk (f : Stb → Stb) : (updStb f s).stk = s.stk := rfl
@[simp] theorem updStb_bhs (f : Stb → Stb) : (updStb f s).bhs = s.bhs := rfl
@[simp] theorem updStb_fab (f : Stb → Stb) : (updStb f s).fab = s.fab := rfl
@[simp] theorem updStb_ports (f : Stb → Stb) : (updStb f s).ports = s.ports := rfl
@[simp] theorem updStb_wake (f : Stb → Stb) : (updStb f s).wake = s.wake := rfl
@[simp] theorem updStb_erg (f : Stb → Stb) : (updStb f s).erg = s.erg := rfl
@[simp] theorem updStb_fresh (f : Stb → Stb) : (updStb f s).fresh = s.fresh := rfl
@[simp] theorem updStb_pending (f : Stb → Stb) : (updStb f s).pending = s.pending := rfl
@[simp] theorem updPorts_ports (f : Ports → Ports) : (updPorts f s).ports = f s.ports := rfl
@[simp] theorem updPorts_build (f : Ports → Ports) : (updPorts f s).build = s.build := rfl
@[simp] theorem updPorts_tkp (f : Ports → Ports) : (updPorts f s).tkp = s.tkp := rfl
@[simp] theorem updPorts_ump (f : Ports → Ports) : (updPorts f s).ump = s.ump := rfl
@[simp] theorem updPorts_rig (f : Ports → Ports) : (updPorts f s).rig = s.rig := rfl
@[simp] theorem updPorts_mar (f : Ports → Ports) : (updPorts f s).mar = s.mar := rfl
@[simp] theorem updPorts_cox (f : Ports → Ports) : (updPorts f s).cox = s.cox := rfl
@[simp] theorem updPorts_rack (f : Ports → Ports) : (updPorts f s).rack = s.rack := rfl
@[simp] theorem updPorts_mem (f : Ports → Ports) : (updPorts f s).mem = s.mem := rfl
@[simp] theorem updPorts_sld (f : Ports → Ports) : (updPorts f s).sld = s.sld := rfl
@[simp] theorem updPorts_heat (f : Ports → Ports) : (updPorts f s).heat = s.heat := rfl
@[simp] theorem updPorts_judge (f : Ports → Ports) : (updPorts f s).judge = s.judge := rfl
@[simp] theorem updPorts_stk (f : Ports → Ports) : (updPorts f s).stk = s.stk := rfl
@[simp] theorem updPorts_bhs (f : Ports → Ports) : (updPorts f s).bhs = s.bhs := rfl
@[simp] theorem updPorts_fab (f : Ports → Ports) : (updPorts f s).fab = s.fab := rfl
@[simp] theorem updPorts_stb (f : Ports → Ports) : (updPorts f s).stb = s.stb := rfl
@[simp] theorem updPorts_wake (f : Ports → Ports) : (updPorts f s).wake = s.wake := rfl
@[simp] theorem updPorts_erg (f : Ports → Ports) : (updPorts f s).erg = s.erg := rfl
@[simp] theorem updPorts_fresh (f : Ports → Ports) : (updPorts f s).fresh = s.fresh := rfl
@[simp] theorem updPorts_pending (f : Ports → Ports) : (updPorts f s).pending = s.pending := rfl
@[simp] theorem updErg_erg (f : Erg → Erg) : (updErg f s).erg = f s.erg := rfl
@[simp] theorem updErg_build (f : Erg → Erg) : (updErg f s).build = s.build := rfl
@[simp] theorem updErg_tkp (f : Erg → Erg) : (updErg f s).tkp = s.tkp := rfl
@[simp] theorem updErg_ump (f : Erg → Erg) : (updErg f s).ump = s.ump := rfl
@[simp] theorem updErg_rig (f : Erg → Erg) : (updErg f s).rig = s.rig := rfl
@[simp] theorem updErg_mar (f : Erg → Erg) : (updErg f s).mar = s.mar := rfl
@[simp] theorem updErg_cox (f : Erg → Erg) : (updErg f s).cox = s.cox := rfl
@[simp] theorem updErg_rack (f : Erg → Erg) : (updErg f s).rack = s.rack := rfl
@[simp] theorem updErg_mem (f : Erg → Erg) : (updErg f s).mem = s.mem := rfl
@[simp] theorem updErg_sld (f : Erg → Erg) : (updErg f s).sld = s.sld := rfl
@[simp] theorem updErg_heat (f : Erg → Erg) : (updErg f s).heat = s.heat := rfl
@[simp] theorem updErg_judge (f : Erg → Erg) : (updErg f s).judge = s.judge := rfl
@[simp] theorem updErg_stk (f : Erg → Erg) : (updErg f s).stk = s.stk := rfl
@[simp] theorem updErg_bhs (f : Erg → Erg) : (updErg f s).bhs = s.bhs := rfl
@[simp] theorem updErg_fab (f : Erg → Erg) : (updErg f s).fab = s.fab := rfl
@[simp] theorem updErg_stb (f : Erg → Erg) : (updErg f s).stb = s.stb := rfl
@[simp] theorem updErg_ports (f : Erg → Erg) : (updErg f s).ports = s.ports := rfl
@[simp] theorem updErg_wake (f : Erg → Erg) : (updErg f s).wake = s.wake := rfl
@[simp] theorem updErg_fresh (f : Erg → Erg) : (updErg f s).fresh = s.fresh := rfl
@[simp] theorem updErg_pending (f : Erg → Erg) : (updErg f s).pending = s.pending := rfl
@[simp] theorem updRing_build (i : Nat) (f : Ring → Ring) : (updRing i f s).build = s.build := rfl
@[simp] theorem updRing_tkp (i : Nat) (f : Ring → Ring) : (updRing i f s).tkp = s.tkp := rfl
@[simp] theorem updRing_ump (i : Nat) (f : Ring → Ring) : (updRing i f s).ump = s.ump := rfl
@[simp] theorem updRing_rig (i : Nat) (f : Ring → Ring) : (updRing i f s).rig = s.rig := rfl
@[simp] theorem updRing_cox (i : Nat) (f : Ring → Ring) : (updRing i f s).cox = s.cox := rfl
@[simp] theorem updRing_rack (i : Nat) (f : Ring → Ring) : (updRing i f s).rack = s.rack := rfl
@[simp] theorem updRing_mem (i : Nat) (f : Ring → Ring) : (updRing i f s).mem = s.mem := rfl
@[simp] theorem updRing_sld (i : Nat) (f : Ring → Ring) : (updRing i f s).sld = s.sld := rfl
@[simp] theorem updRing_heat (i : Nat) (f : Ring → Ring) : (updRing i f s).heat = s.heat := rfl
@[simp] theorem updRing_judge (i : Nat) (f : Ring → Ring) : (updRing i f s).judge = s.judge := rfl
@[simp] theorem updRing_stk (i : Nat) (f : Ring → Ring) : (updRing i f s).stk = s.stk := rfl
@[simp] theorem updRing_bhs (i : Nat) (f : Ring → Ring) : (updRing i f s).bhs = s.bhs := rfl
@[simp] theorem updRing_fab (i : Nat) (f : Ring → Ring) : (updRing i f s).fab = s.fab := rfl
@[simp] theorem updRing_stb (i : Nat) (f : Ring → Ring) : (updRing i f s).stb = s.stb := rfl
@[simp] theorem updRing_ports (i : Nat) (f : Ring → Ring) : (updRing i f s).ports = s.ports := rfl
@[simp] theorem updRing_wake (i : Nat) (f : Ring → Ring) : (updRing i f s).wake = s.wake := rfl
@[simp] theorem updRing_erg (i : Nat) (f : Ring → Ring) : (updRing i f s).erg = s.erg := rfl
@[simp] theorem updRing_fresh (i : Nat) (f : Ring → Ring) : (updRing i f s).fresh = s.fresh := rfl
@[simp] theorem updRing_pending (i : Nat) (f : Ring → Ring) : (updRing i f s).pending = s.pending := rfl
@[simp] theorem updSeat_build (i : Nat) (f : Seat → Seat) : (updSeat i f s).build = s.build := rfl
@[simp] theorem updSeat_tkp (i : Nat) (f : Seat → Seat) : (updSeat i f s).tkp = s.tkp := rfl
@[simp] theorem updSeat_ump (i : Nat) (f : Seat → Seat) : (updSeat i f s).ump = s.ump := rfl
@[simp] theorem updSeat_rig (i : Nat) (f : Seat → Seat) : (updSeat i f s).rig = s.rig := rfl
@[simp] theorem updSeat_cox (i : Nat) (f : Seat → Seat) : (updSeat i f s).cox = s.cox := rfl
@[simp] theorem updSeat_rack (i : Nat) (f : Seat → Seat) : (updSeat i f s).rack = s.rack := rfl
@[simp] theorem updSeat_mem (i : Nat) (f : Seat → Seat) : (updSeat i f s).mem = s.mem := rfl
@[simp] theorem updSeat_sld (i : Nat) (f : Seat → Seat) : (updSeat i f s).sld = s.sld := rfl
@[simp] theorem updSeat_heat (i : Nat) (f : Seat → Seat) : (updSeat i f s).heat = s.heat := rfl
@[simp] theorem updSeat_judge (i : Nat) (f : Seat → Seat) : (updSeat i f s).judge = s.judge := rfl
@[simp] theorem updSeat_stk (i : Nat) (f : Seat → Seat) : (updSeat i f s).stk = s.stk := rfl
@[simp] theorem updSeat_bhs (i : Nat) (f : Seat → Seat) : (updSeat i f s).bhs = s.bhs := rfl
@[simp] theorem updSeat_fab (i : Nat) (f : Seat → Seat) : (updSeat i f s).fab = s.fab := rfl
@[simp] theorem updSeat_stb (i : Nat) (f : Seat → Seat) : (updSeat i f s).stb = s.stb := rfl
@[simp] theorem updSeat_ports (i : Nat) (f : Seat → Seat) : (updSeat i f s).ports = s.ports := rfl
@[simp] theorem updSeat_wake (i : Nat) (f : Seat → Seat) : (updSeat i f s).wake = s.wake := rfl
@[simp] theorem updSeat_erg (i : Nat) (f : Seat → Seat) : (updSeat i f s).erg = s.erg := rfl
@[simp] theorem updSeat_fresh (i : Nat) (f : Seat → Seat) : (updSeat i f s).fresh = s.fresh := rfl
@[simp] theorem updSeat_pending (i : Nat) (f : Seat → Seat) : (updSeat i f s).pending = s.pending := rfl
@[simp] theorem updSlot_build (i : Nat) (f : Slot → Slot) : (updSlot i f s).build = s.build := rfl
@[simp] theorem updSlot_tkp (i : Nat) (f : Slot → Slot) : (updSlot i f s).tkp = s.tkp := rfl
@[simp] theorem updSlot_ump (i : Nat) (f : Slot → Slot) : (updSlot i f s).ump = s.ump := rfl
@[simp] theorem updSlot_rig (i : Nat) (f : Slot → Slot) : (updSlot i f s).rig = s.rig := rfl
@[simp] theorem updSlot_cox (i : Nat) (f : Slot → Slot) : (updSlot i f s).cox = s.cox := rfl
@[simp] theorem updSlot_rack (i : Nat) (f : Slot → Slot) : (updSlot i f s).rack = s.rack := rfl
@[simp] theorem updSlot_mem (i : Nat) (f : Slot → Slot) : (updSlot i f s).mem = s.mem := rfl
@[simp] theorem updSlot_sld (i : Nat) (f : Slot → Slot) : (updSlot i f s).sld = s.sld := rfl
@[simp] theorem updSlot_heat (i : Nat) (f : Slot → Slot) : (updSlot i f s).heat = s.heat := rfl
@[simp] theorem updSlot_judge (i : Nat) (f : Slot → Slot) : (updSlot i f s).judge = s.judge := rfl
@[simp] theorem updSlot_stk (i : Nat) (f : Slot → Slot) : (updSlot i f s).stk = s.stk := rfl
@[simp] theorem updSlot_bhs (i : Nat) (f : Slot → Slot) : (updSlot i f s).bhs = s.bhs := rfl
@[simp] theorem updSlot_fab (i : Nat) (f : Slot → Slot) : (updSlot i f s).fab = s.fab := rfl
@[simp] theorem updSlot_stb (i : Nat) (f : Slot → Slot) : (updSlot i f s).stb = s.stb := rfl
@[simp] theorem updSlot_ports (i : Nat) (f : Slot → Slot) : (updSlot i f s).ports = s.ports := rfl
@[simp] theorem updSlot_wake (i : Nat) (f : Slot → Slot) : (updSlot i f s).wake = s.wake := rfl
@[simp] theorem updSlot_erg (i : Nat) (f : Slot → Slot) : (updSlot i f s).erg = s.erg := rfl
@[simp] theorem updSlot_fresh (i : Nat) (f : Slot → Slot) : (updSlot i f s).fresh = s.fresh := rfl
@[simp] theorem updSlot_pending (i : Nat) (f : Slot → Slot) : (updSlot i f s).pending = s.pending := rfl
@[simp] theorem updProg_build (i : Nat) (f : Prog → Prog) : (updProg i f s).build = s.build := rfl
@[simp] theorem updProg_tkp (i : Nat) (f : Prog → Prog) : (updProg i f s).tkp = s.tkp := rfl
@[simp] theorem updProg_ump (i : Nat) (f : Prog → Prog) : (updProg i f s).ump = s.ump := rfl
@[simp] theorem updProg_rig (i : Nat) (f : Prog → Prog) : (updProg i f s).rig = s.rig := rfl
@[simp] theorem updProg_cox (i : Nat) (f : Prog → Prog) : (updProg i f s).cox = s.cox := rfl
@[simp] theorem updProg_rack (i : Nat) (f : Prog → Prog) : (updProg i f s).rack = s.rack := rfl
@[simp] theorem updProg_mem (i : Nat) (f : Prog → Prog) : (updProg i f s).mem = s.mem := rfl
@[simp] theorem updProg_sld (i : Nat) (f : Prog → Prog) : (updProg i f s).sld = s.sld := rfl
@[simp] theorem updProg_heat (i : Nat) (f : Prog → Prog) : (updProg i f s).heat = s.heat := rfl
@[simp] theorem updProg_judge (i : Nat) (f : Prog → Prog) : (updProg i f s).judge = s.judge := rfl
@[simp] theorem updProg_stk (i : Nat) (f : Prog → Prog) : (updProg i f s).stk = s.stk := rfl
@[simp] theorem updProg_bhs (i : Nat) (f : Prog → Prog) : (updProg i f s).bhs = s.bhs := rfl
@[simp] theorem updProg_fab (i : Nat) (f : Prog → Prog) : (updProg i f s).fab = s.fab := rfl
@[simp] theorem updProg_stb (i : Nat) (f : Prog → Prog) : (updProg i f s).stb = s.stb := rfl
@[simp] theorem updProg_ports (i : Nat) (f : Prog → Prog) : (updProg i f s).ports = s.ports := rfl
@[simp] theorem updProg_wake (i : Nat) (f : Prog → Prog) : (updProg i f s).wake = s.wake := rfl
@[simp] theorem updProg_erg (i : Nat) (f : Prog → Prog) : (updProg i f s).erg = s.erg := rfl
@[simp] theorem updProg_fresh (i : Nat) (f : Prog → Prog) : (updProg i f s).fresh = s.fresh := rfl
@[simp] theorem updProg_pending (i : Nat) (f : Prog → Prog) : (updProg i f s).pending = s.pending := rfl
@[simp] theorem updCore_build (i : Nat) (f : Core → Core) : (updCore i f s).build = s.build := rfl
@[simp] theorem updCore_tkp (i : Nat) (f : Core → Core) : (updCore i f s).tkp = s.tkp := rfl
@[simp] theorem updCore_ump (i : Nat) (f : Core → Core) : (updCore i f s).ump = s.ump := rfl
@[simp] theorem updCore_rig (i : Nat) (f : Core → Core) : (updCore i f s).rig = s.rig := rfl
@[simp] theorem updCore_mar (i : Nat) (f : Core → Core) : (updCore i f s).mar = s.mar := rfl
@[simp] theorem updCore_rack (i : Nat) (f : Core → Core) : (updCore i f s).rack = s.rack := rfl
@[simp] theorem updCore_mem (i : Nat) (f : Core → Core) : (updCore i f s).mem = s.mem := rfl
@[simp] theorem updCore_sld (i : Nat) (f : Core → Core) : (updCore i f s).sld = s.sld := rfl
@[simp] theorem updCore_heat (i : Nat) (f : Core → Core) : (updCore i f s).heat = s.heat := rfl
@[simp] theorem updCore_judge (i : Nat) (f : Core → Core) : (updCore i f s).judge = s.judge := rfl
@[simp] theorem updCore_stk (i : Nat) (f : Core → Core) : (updCore i f s).stk = s.stk := rfl
@[simp] theorem updCore_bhs (i : Nat) (f : Core → Core) : (updCore i f s).bhs = s.bhs := rfl
@[simp] theorem updCore_fab (i : Nat) (f : Core → Core) : (updCore i f s).fab = s.fab := rfl
@[simp] theorem updCore_stb (i : Nat) (f : Core → Core) : (updCore i f s).stb = s.stb := rfl
@[simp] theorem updCore_ports (i : Nat) (f : Core → Core) : (updCore i f s).ports = s.ports := rfl
@[simp] theorem updCore_wake (i : Nat) (f : Core → Core) : (updCore i f s).wake = s.wake := rfl
@[simp] theorem updCore_erg (i : Nat) (f : Core → Core) : (updCore i f s).erg = s.erg := rfl
@[simp] theorem updCore_fresh (i : Nat) (f : Core → Core) : (updCore i f s).fresh = s.fresh := rfl
@[simp] theorem updCore_pending (i : Nat) (f : Core → Core) : (updCore i f s).pending = s.pending := rfl
@[simp] theorem updRow_build (i : Nat) (f : Rowlock → Rowlock) : (updRow i f s).build = s.build := rfl
@[simp] theorem updRow_tkp (i : Nat) (f : Rowlock → Rowlock) : (updRow i f s).tkp = s.tkp := rfl
@[simp] theorem updRow_ump (i : Nat) (f : Rowlock → Rowlock) : (updRow i f s).ump = s.ump := rfl
@[simp] theorem updRow_rig (i : Nat) (f : Rowlock → Rowlock) : (updRow i f s).rig = s.rig := rfl
@[simp] theorem updRow_mar (i : Nat) (f : Rowlock → Rowlock) : (updRow i f s).mar = s.mar := rfl
@[simp] theorem updRow_cox (i : Nat) (f : Rowlock → Rowlock) : (updRow i f s).cox = s.cox := rfl
@[simp] theorem updRow_rack (i : Nat) (f : Rowlock → Rowlock) : (updRow i f s).rack = s.rack := rfl
@[simp] theorem updRow_mem (i : Nat) (f : Rowlock → Rowlock) : (updRow i f s).mem = s.mem := rfl
@[simp] theorem updRow_sld (i : Nat) (f : Rowlock → Rowlock) : (updRow i f s).sld = s.sld := rfl
@[simp] theorem updRow_heat (i : Nat) (f : Rowlock → Rowlock) : (updRow i f s).heat = s.heat := rfl
@[simp] theorem updRow_judge (i : Nat) (f : Rowlock → Rowlock) : (updRow i f s).judge = s.judge := rfl
@[simp] theorem updRow_stk (i : Nat) (f : Rowlock → Rowlock) : (updRow i f s).stk = s.stk := rfl
@[simp] theorem updRow_bhs (i : Nat) (f : Rowlock → Rowlock) : (updRow i f s).bhs = s.bhs := rfl
@[simp] theorem updRow_stb (i : Nat) (f : Rowlock → Rowlock) : (updRow i f s).stb = s.stb := rfl
@[simp] theorem updRow_ports (i : Nat) (f : Rowlock → Rowlock) : (updRow i f s).ports = s.ports := rfl
@[simp] theorem updRow_wake (i : Nat) (f : Rowlock → Rowlock) : (updRow i f s).wake = s.wake := rfl
@[simp] theorem updRow_erg (i : Nat) (f : Rowlock → Rowlock) : (updRow i f s).erg = s.erg := rfl
@[simp] theorem updRow_fresh (i : Nat) (f : Rowlock → Rowlock) : (updRow i f s).fresh = s.fresh := rfl
@[simp] theorem updRow_pending (i : Nat) (f : Rowlock → Rowlock) : (updRow i f s).pending = s.pending := rfl
@[simp] theorem updTree_build (i : Nat) (f : Tree → Tree) : (updTree i f s).build = s.build := rfl
@[simp] theorem updTree_tkp (i : Nat) (f : Tree → Tree) : (updTree i f s).tkp = s.tkp := rfl
@[simp] theorem updTree_ump (i : Nat) (f : Tree → Tree) : (updTree i f s).ump = s.ump := rfl
@[simp] theorem updTree_rig (i : Nat) (f : Tree → Tree) : (updTree i f s).rig = s.rig := rfl
@[simp] theorem updTree_mar (i : Nat) (f : Tree → Tree) : (updTree i f s).mar = s.mar := rfl
@[simp] theorem updTree_cox (i : Nat) (f : Tree → Tree) : (updTree i f s).cox = s.cox := rfl
@[simp] theorem updTree_rack (i : Nat) (f : Tree → Tree) : (updTree i f s).rack = s.rack := rfl
@[simp] theorem updTree_mem (i : Nat) (f : Tree → Tree) : (updTree i f s).mem = s.mem := rfl
@[simp] theorem updTree_sld (i : Nat) (f : Tree → Tree) : (updTree i f s).sld = s.sld := rfl
@[simp] theorem updTree_heat (i : Nat) (f : Tree → Tree) : (updTree i f s).heat = s.heat := rfl
@[simp] theorem updTree_judge (i : Nat) (f : Tree → Tree) : (updTree i f s).judge = s.judge := rfl
@[simp] theorem updTree_stk (i : Nat) (f : Tree → Tree) : (updTree i f s).stk = s.stk := rfl
@[simp] theorem updTree_bhs (i : Nat) (f : Tree → Tree) : (updTree i f s).bhs = s.bhs := rfl
@[simp] theorem updTree_stb (i : Nat) (f : Tree → Tree) : (updTree i f s).stb = s.stb := rfl
@[simp] theorem updTree_ports (i : Nat) (f : Tree → Tree) : (updTree i f s).ports = s.ports := rfl
@[simp] theorem updTree_wake (i : Nat) (f : Tree → Tree) : (updTree i f s).wake = s.wake := rfl
@[simp] theorem updTree_erg (i : Nat) (f : Tree → Tree) : (updTree i f s).erg = s.erg := rfl
@[simp] theorem updTree_fresh (i : Nat) (f : Tree → Tree) : (updTree i f s).fresh = s.fresh := rfl
@[simp] theorem updTree_pending (i : Nat) (f : Tree → Tree) : (updTree i f s).pending = s.pending := rfl
@[simp] theorem updObj_build (i : Nat) (f : Obj → Obj) : (updObj i f s).build = s.build := rfl
@[simp] theorem updObj_tkp (i : Nat) (f : Obj → Obj) : (updObj i f s).tkp = s.tkp := rfl
@[simp] theorem updObj_ump (i : Nat) (f : Obj → Obj) : (updObj i f s).ump = s.ump := rfl
@[simp] theorem updObj_rig (i : Nat) (f : Obj → Obj) : (updObj i f s).rig = s.rig := rfl
@[simp] theorem updObj_mar (i : Nat) (f : Obj → Obj) : (updObj i f s).mar = s.mar := rfl
@[simp] theorem updObj_cox (i : Nat) (f : Obj → Obj) : (updObj i f s).cox = s.cox := rfl
@[simp] theorem updObj_mem (i : Nat) (f : Obj → Obj) : (updObj i f s).mem = s.mem := rfl
@[simp] theorem updObj_sld (i : Nat) (f : Obj → Obj) : (updObj i f s).sld = s.sld := rfl
@[simp] theorem updObj_heat (i : Nat) (f : Obj → Obj) : (updObj i f s).heat = s.heat := rfl
@[simp] theorem updObj_judge (i : Nat) (f : Obj → Obj) : (updObj i f s).judge = s.judge := rfl
@[simp] theorem updObj_stk (i : Nat) (f : Obj → Obj) : (updObj i f s).stk = s.stk := rfl
@[simp] theorem updObj_bhs (i : Nat) (f : Obj → Obj) : (updObj i f s).bhs = s.bhs := rfl
@[simp] theorem updObj_fab (i : Nat) (f : Obj → Obj) : (updObj i f s).fab = s.fab := rfl
@[simp] theorem updObj_stb (i : Nat) (f : Obj → Obj) : (updObj i f s).stb = s.stb := rfl
@[simp] theorem updObj_ports (i : Nat) (f : Obj → Obj) : (updObj i f s).ports = s.ports := rfl
@[simp] theorem updObj_wake (i : Nat) (f : Obj → Obj) : (updObj i f s).wake = s.wake := rfl
@[simp] theorem updObj_erg (i : Nat) (f : Obj → Obj) : (updObj i f s).erg = s.erg := rfl
@[simp] theorem updObj_fresh (i : Nat) (f : Obj → Obj) : (updObj i f s).fresh = s.fresh := rfl
@[simp] theorem updObj_pending (i : Nat) (f : Obj → Obj) : (updObj i f s).pending = s.pending := rfl
@[simp] theorem updLoop_build (i : Nat) (f : Loop → Loop) : (updLoop i f s).build = s.build := rfl
@[simp] theorem updLoop_tkp (i : Nat) (f : Loop → Loop) : (updLoop i f s).tkp = s.tkp := rfl
@[simp] theorem updLoop_ump (i : Nat) (f : Loop → Loop) : (updLoop i f s).ump = s.ump := rfl
@[simp] theorem updLoop_rig (i : Nat) (f : Loop → Loop) : (updLoop i f s).rig = s.rig := rfl
@[simp] theorem updLoop_mar (i : Nat) (f : Loop → Loop) : (updLoop i f s).mar = s.mar := rfl
@[simp] theorem updLoop_cox (i : Nat) (f : Loop → Loop) : (updLoop i f s).cox = s.cox := rfl
@[simp] theorem updLoop_rack (i : Nat) (f : Loop → Loop) : (updLoop i f s).rack = s.rack := rfl
@[simp] theorem updLoop_mem (i : Nat) (f : Loop → Loop) : (updLoop i f s).mem = s.mem := rfl
@[simp] theorem updLoop_sld (i : Nat) (f : Loop → Loop) : (updLoop i f s).sld = s.sld := rfl
@[simp] theorem updLoop_judge (i : Nat) (f : Loop → Loop) : (updLoop i f s).judge = s.judge := rfl
@[simp] theorem updLoop_stk (i : Nat) (f : Loop → Loop) : (updLoop i f s).stk = s.stk := rfl
@[simp] theorem updLoop_bhs (i : Nat) (f : Loop → Loop) : (updLoop i f s).bhs = s.bhs := rfl
@[simp] theorem updLoop_fab (i : Nat) (f : Loop → Loop) : (updLoop i f s).fab = s.fab := rfl
@[simp] theorem updLoop_stb (i : Nat) (f : Loop → Loop) : (updLoop i f s).stb = s.stb := rfl
@[simp] theorem updLoop_ports (i : Nat) (f : Loop → Loop) : (updLoop i f s).ports = s.ports := rfl
@[simp] theorem updLoop_wake (i : Nat) (f : Loop → Loop) : (updLoop i f s).wake = s.wake := rfl
@[simp] theorem updLoop_erg (i : Nat) (f : Loop → Loop) : (updLoop i f s).erg = s.erg := rfl
@[simp] theorem updLoop_fresh (i : Nat) (f : Loop → Loop) : (updLoop i f s).fresh = s.fresh := rfl
@[simp] theorem updLoop_pending (i : Nat) (f : Loop → Loop) : (updLoop i f s).pending = s.pending := rfl
@[simp] theorem updMap_build (i : Nat) (f : SldCtx → SldCtx) : (updMap i f s).build = s.build := rfl
@[simp] theorem updMap_tkp (i : Nat) (f : SldCtx → SldCtx) : (updMap i f s).tkp = s.tkp := rfl
@[simp] theorem updMap_ump (i : Nat) (f : SldCtx → SldCtx) : (updMap i f s).ump = s.ump := rfl
@[simp] theorem updMap_rig (i : Nat) (f : SldCtx → SldCtx) : (updMap i f s).rig = s.rig := rfl
@[simp] theorem updMap_mar (i : Nat) (f : SldCtx → SldCtx) : (updMap i f s).mar = s.mar := rfl
@[simp] theorem updMap_cox (i : Nat) (f : SldCtx → SldCtx) : (updMap i f s).cox = s.cox := rfl
@[simp] theorem updMap_rack (i : Nat) (f : SldCtx → SldCtx) : (updMap i f s).rack = s.rack := rfl
@[simp] theorem updMap_mem (i : Nat) (f : SldCtx → SldCtx) : (updMap i f s).mem = s.mem := rfl
@[simp] theorem updMap_heat (i : Nat) (f : SldCtx → SldCtx) : (updMap i f s).heat = s.heat := rfl
@[simp] theorem updMap_judge (i : Nat) (f : SldCtx → SldCtx) : (updMap i f s).judge = s.judge := rfl
@[simp] theorem updMap_stk (i : Nat) (f : SldCtx → SldCtx) : (updMap i f s).stk = s.stk := rfl
@[simp] theorem updMap_bhs (i : Nat) (f : SldCtx → SldCtx) : (updMap i f s).bhs = s.bhs := rfl
@[simp] theorem updMap_fab (i : Nat) (f : SldCtx → SldCtx) : (updMap i f s).fab = s.fab := rfl
@[simp] theorem updMap_stb (i : Nat) (f : SldCtx → SldCtx) : (updMap i f s).stb = s.stb := rfl
@[simp] theorem updMap_ports (i : Nat) (f : SldCtx → SldCtx) : (updMap i f s).ports = s.ports := rfl
@[simp] theorem updMap_wake (i : Nat) (f : SldCtx → SldCtx) : (updMap i f s).wake = s.wake := rfl
@[simp] theorem updMap_erg (i : Nat) (f : SldCtx → SldCtx) : (updMap i f s).erg = s.erg := rfl
@[simp] theorem updMap_fresh (i : Nat) (f : SldCtx → SldCtx) : (updMap i f s).fresh = s.fresh := rfl
@[simp] theorem updMap_pending (i : Nat) (f : SldCtx → SldCtx) : (updMap i f s).pending = s.pending := rfl
@[simp] theorem updTab_build (i : Nat) (f : PageTab → PageTab) : (updTab i f s).build = s.build := rfl
@[simp] theorem updTab_tkp (i : Nat) (f : PageTab → PageTab) : (updTab i f s).tkp = s.tkp := rfl
@[simp] theorem updTab_ump (i : Nat) (f : PageTab → PageTab) : (updTab i f s).ump = s.ump := rfl
@[simp] theorem updTab_rig (i : Nat) (f : PageTab → PageTab) : (updTab i f s).rig = s.rig := rfl
@[simp] theorem updTab_mar (i : Nat) (f : PageTab → PageTab) : (updTab i f s).mar = s.mar := rfl
@[simp] theorem updTab_cox (i : Nat) (f : PageTab → PageTab) : (updTab i f s).cox = s.cox := rfl
@[simp] theorem updTab_rack (i : Nat) (f : PageTab → PageTab) : (updTab i f s).rack = s.rack := rfl
@[simp] theorem updTab_sld (i : Nat) (f : PageTab → PageTab) : (updTab i f s).sld = s.sld := rfl
@[simp] theorem updTab_heat (i : Nat) (f : PageTab → PageTab) : (updTab i f s).heat = s.heat := rfl
@[simp] theorem updTab_judge (i : Nat) (f : PageTab → PageTab) : (updTab i f s).judge = s.judge := rfl
@[simp] theorem updTab_stk (i : Nat) (f : PageTab → PageTab) : (updTab i f s).stk = s.stk := rfl
@[simp] theorem updTab_bhs (i : Nat) (f : PageTab → PageTab) : (updTab i f s).bhs = s.bhs := rfl
@[simp] theorem updTab_fab (i : Nat) (f : PageTab → PageTab) : (updTab i f s).fab = s.fab := rfl
@[simp] theorem updTab_stb (i : Nat) (f : PageTab → PageTab) : (updTab i f s).stb = s.stb := rfl
@[simp] theorem updTab_ports (i : Nat) (f : PageTab → PageTab) : (updTab i f s).ports = s.ports := rfl
@[simp] theorem updTab_wake (i : Nat) (f : PageTab → PageTab) : (updTab i f s).wake = s.wake := rfl
@[simp] theorem updTab_erg (i : Nat) (f : PageTab → PageTab) : (updTab i f s).erg = s.erg := rfl
@[simp] theorem updTab_fresh (i : Nat) (f : PageTab → PageTab) : (updTab i f s).fresh = s.fresh := rfl
@[simp] theorem updTab_pending (i : Nat) (f : PageTab → PageTab) : (updTab i f s).pending = s.pending := rfl
@[simp] theorem updStream_build (i : Nat) (f : Stream → Stream) : (updStream i f s).build = s.build := rfl
@[simp] theorem updStream_tkp (i : Nat) (f : Stream → Stream) : (updStream i f s).tkp = s.tkp := rfl
@[simp] theorem updStream_ump (i : Nat) (f : Stream → Stream) : (updStream i f s).ump = s.ump := rfl
@[simp] theorem updStream_rig (i : Nat) (f : Stream → Stream) : (updStream i f s).rig = s.rig := rfl
@[simp] theorem updStream_mar (i : Nat) (f : Stream → Stream) : (updStream i f s).mar = s.mar := rfl
@[simp] theorem updStream_cox (i : Nat) (f : Stream → Stream) : (updStream i f s).cox = s.cox := rfl
@[simp] theorem updStream_rack (i : Nat) (f : Stream → Stream) : (updStream i f s).rack = s.rack := rfl
@[simp] theorem updStream_mem (i : Nat) (f : Stream → Stream) : (updStream i f s).mem = s.mem := rfl
@[simp] theorem updStream_sld (i : Nat) (f : Stream → Stream) : (updStream i f s).sld = s.sld := rfl
@[simp] theorem updStream_heat (i : Nat) (f : Stream → Stream) : (updStream i f s).heat = s.heat := rfl
@[simp] theorem updStream_judge (i : Nat) (f : Stream → Stream) : (updStream i f s).judge = s.judge := rfl
@[simp] theorem updStream_stk (i : Nat) (f : Stream → Stream) : (updStream i f s).stk = s.stk := rfl
@[simp] theorem updStream_bhs (i : Nat) (f : Stream → Stream) : (updStream i f s).bhs = s.bhs := rfl
@[simp] theorem updStream_fab (i : Nat) (f : Stream → Stream) : (updStream i f s).fab = s.fab := rfl
@[simp] theorem updStream_stb (i : Nat) (f : Stream → Stream) : (updStream i f s).stb = s.stb := rfl
@[simp] theorem updStream_ports (i : Nat) (f : Stream → Stream) : (updStream i f s).ports = s.ports := rfl
@[simp] theorem updStream_erg (i : Nat) (f : Stream → Stream) : (updStream i f s).erg = s.erg := rfl
@[simp] theorem updStream_fresh (i : Nat) (f : Stream → Stream) : (updStream i f s).fresh = s.fresh := rfl
@[simp] theorem updStream_pending (i : Nat) (f : Stream → Stream) : (updStream i f s).pending = s.pending := rfl
@[simp] theorem updWaiter_build (i : Nat) (f : Waiter → Waiter) : (updWaiter i f s).build = s.build := rfl
@[simp] theorem updWaiter_tkp (i : Nat) (f : Waiter → Waiter) : (updWaiter i f s).tkp = s.tkp := rfl
@[simp] theorem updWaiter_ump (i : Nat) (f : Waiter → Waiter) : (updWaiter i f s).ump = s.ump := rfl
@[simp] theorem updWaiter_rig (i : Nat) (f : Waiter → Waiter) : (updWaiter i f s).rig = s.rig := rfl
@[simp] theorem updWaiter_mar (i : Nat) (f : Waiter → Waiter) : (updWaiter i f s).mar = s.mar := rfl
@[simp] theorem updWaiter_cox (i : Nat) (f : Waiter → Waiter) : (updWaiter i f s).cox = s.cox := rfl
@[simp] theorem updWaiter_rack (i : Nat) (f : Waiter → Waiter) : (updWaiter i f s).rack = s.rack := rfl
@[simp] theorem updWaiter_mem (i : Nat) (f : Waiter → Waiter) : (updWaiter i f s).mem = s.mem := rfl
@[simp] theorem updWaiter_sld (i : Nat) (f : Waiter → Waiter) : (updWaiter i f s).sld = s.sld := rfl
@[simp] theorem updWaiter_heat (i : Nat) (f : Waiter → Waiter) : (updWaiter i f s).heat = s.heat := rfl
@[simp] theorem updWaiter_judge (i : Nat) (f : Waiter → Waiter) : (updWaiter i f s).judge = s.judge := rfl
@[simp] theorem updWaiter_stk (i : Nat) (f : Waiter → Waiter) : (updWaiter i f s).stk = s.stk := rfl
@[simp] theorem updWaiter_bhs (i : Nat) (f : Waiter → Waiter) : (updWaiter i f s).bhs = s.bhs := rfl
@[simp] theorem updWaiter_fab (i : Nat) (f : Waiter → Waiter) : (updWaiter i f s).fab = s.fab := rfl
@[simp] theorem updWaiter_ports (i : Nat) (f : Waiter → Waiter) : (updWaiter i f s).ports = s.ports := rfl
@[simp] theorem updWaiter_wake (i : Nat) (f : Waiter → Waiter) : (updWaiter i f s).wake = s.wake := rfl
@[simp] theorem updWaiter_erg (i : Nat) (f : Waiter → Waiter) : (updWaiter i f s).erg = s.erg := rfl
@[simp] theorem updWaiter_fresh (i : Nat) (f : Waiter → Waiter) : (updWaiter i f s).fresh = s.fresh := rfl
@[simp] theorem updWaiter_pending (i : Nat) (f : Waiter → Waiter) : (updWaiter i f s).pending = s.pending := rfl
@[simp] theorem updWatch_build (i : Nat) (f : Watch → Watch) : (updWatch i f s).build = s.build := rfl
@[simp] theorem updWatch_tkp (i : Nat) (f : Watch → Watch) : (updWatch i f s).tkp = s.tkp := rfl
@[simp] theorem updWatch_ump (i : Nat) (f : Watch → Watch) : (updWatch i f s).ump = s.ump := rfl
@[simp] theorem updWatch_rig (i : Nat) (f : Watch → Watch) : (updWatch i f s).rig = s.rig := rfl
@[simp] theorem updWatch_mar (i : Nat) (f : Watch → Watch) : (updWatch i f s).mar = s.mar := rfl
@[simp] theorem updWatch_cox (i : Nat) (f : Watch → Watch) : (updWatch i f s).cox = s.cox := rfl
@[simp] theorem updWatch_rack (i : Nat) (f : Watch → Watch) : (updWatch i f s).rack = s.rack := rfl
@[simp] theorem updWatch_mem (i : Nat) (f : Watch → Watch) : (updWatch i f s).mem = s.mem := rfl
@[simp] theorem updWatch_sld (i : Nat) (f : Watch → Watch) : (updWatch i f s).sld = s.sld := rfl
@[simp] theorem updWatch_heat (i : Nat) (f : Watch → Watch) : (updWatch i f s).heat = s.heat := rfl
@[simp] theorem updWatch_judge (i : Nat) (f : Watch → Watch) : (updWatch i f s).judge = s.judge := rfl
@[simp] theorem updWatch_stk (i : Nat) (f : Watch → Watch) : (updWatch i f s).stk = s.stk := rfl
@[simp] theorem updWatch_bhs (i : Nat) (f : Watch → Watch) : (updWatch i f s).bhs = s.bhs := rfl
@[simp] theorem updWatch_fab (i : Nat) (f : Watch → Watch) : (updWatch i f s).fab = s.fab := rfl
@[simp] theorem updWatch_ports (i : Nat) (f : Watch → Watch) : (updWatch i f s).ports = s.ports := rfl
@[simp] theorem updWatch_wake (i : Nat) (f : Watch → Watch) : (updWatch i f s).wake = s.wake := rfl
@[simp] theorem updWatch_erg (i : Nat) (f : Watch → Watch) : (updWatch i f s).erg = s.erg := rfl
@[simp] theorem updWatch_fresh (i : Nat) (f : Watch → Watch) : (updWatch i f s).fresh = s.fresh := rfl
@[simp] theorem updWatch_pending (i : Nat) (f : Watch → Watch) : (updWatch i f s).pending = s.pending := rfl
@[simp] theorem updEng_build (c e : Nat) (f : Engine → Engine) : (updEng c e f s).build = s.build := rfl
@[simp] theorem updEng_tkp (c e : Nat) (f : Engine → Engine) : (updEng c e f s).tkp = s.tkp := rfl
@[simp] theorem updEng_ump (c e : Nat) (f : Engine → Engine) : (updEng c e f s).ump = s.ump := rfl
@[simp] theorem updEng_rig (c e : Nat) (f : Engine → Engine) : (updEng c e f s).rig = s.rig := rfl
@[simp] theorem updEng_mar (c e : Nat) (f : Engine → Engine) : (updEng c e f s).mar = s.mar := rfl
@[simp] theorem updEng_cox (c e : Nat) (f : Engine → Engine) : (updEng c e f s).cox = s.cox := rfl
@[simp] theorem updEng_rack (c e : Nat) (f : Engine → Engine) : (updEng c e f s).rack = s.rack := rfl
@[simp] theorem updEng_mem (c e : Nat) (f : Engine → Engine) : (updEng c e f s).mem = s.mem := rfl
@[simp] theorem updEng_sld (c e : Nat) (f : Engine → Engine) : (updEng c e f s).sld = s.sld := rfl
@[simp] theorem updEng_heat (c e : Nat) (f : Engine → Engine) : (updEng c e f s).heat = s.heat := rfl
@[simp] theorem updEng_judge (c e : Nat) (f : Engine → Engine) : (updEng c e f s).judge = s.judge := rfl
@[simp] theorem updEng_stk (c e : Nat) (f : Engine → Engine) : (updEng c e f s).stk = s.stk := rfl
@[simp] theorem updEng_bhs (c e : Nat) (f : Engine → Engine) : (updEng c e f s).bhs = s.bhs := rfl
@[simp] theorem updEng_stb (c e : Nat) (f : Engine → Engine) : (updEng c e f s).stb = s.stb := rfl
@[simp] theorem updEng_ports (c e : Nat) (f : Engine → Engine) : (updEng c e f s).ports = s.ports := rfl
@[simp] theorem updEng_wake (c e : Nat) (f : Engine → Engine) : (updEng c e f s).wake = s.wake := rfl
@[simp] theorem updEng_erg (c e : Nat) (f : Engine → Engine) : (updEng c e f s).erg = s.erg := rfl
@[simp] theorem updEng_fresh (c e : Nat) (f : Engine → Engine) : (updEng c e f s).fresh = s.fresh := rfl
@[simp] theorem updEng_pending (c e : Nat) (f : Engine → Engine) : (updEng c e f s).pending = s.pending := rfl
@[simp] theorem updHSlot_build (c e : Nat) (f : HeatSlot → HeatSlot) : (updHSlot c e f s).build = s.build := rfl
@[simp] theorem updHSlot_tkp (c e : Nat) (f : HeatSlot → HeatSlot) : (updHSlot c e f s).tkp = s.tkp := rfl
@[simp] theorem updHSlot_ump (c e : Nat) (f : HeatSlot → HeatSlot) : (updHSlot c e f s).ump = s.ump := rfl
@[simp] theorem updHSlot_rig (c e : Nat) (f : HeatSlot → HeatSlot) : (updHSlot c e f s).rig = s.rig := rfl
@[simp] theorem updHSlot_mar (c e : Nat) (f : HeatSlot → HeatSlot) : (updHSlot c e f s).mar = s.mar := rfl
@[simp] theorem updHSlot_cox (c e : Nat) (f : HeatSlot → HeatSlot) : (updHSlot c e f s).cox = s.cox := rfl
@[simp] theorem updHSlot_rack (c e : Nat) (f : HeatSlot → HeatSlot) : (updHSlot c e f s).rack = s.rack := rfl
@[simp] theorem updHSlot_mem (c e : Nat) (f : HeatSlot → HeatSlot) : (updHSlot c e f s).mem = s.mem := rfl
@[simp] theorem updHSlot_sld (c e : Nat) (f : HeatSlot → HeatSlot) : (updHSlot c e f s).sld = s.sld := rfl
@[simp] theorem updHSlot_judge (c e : Nat) (f : HeatSlot → HeatSlot) : (updHSlot c e f s).judge = s.judge := rfl
@[simp] theorem updHSlot_stk (c e : Nat) (f : HeatSlot → HeatSlot) : (updHSlot c e f s).stk = s.stk := rfl
@[simp] theorem updHSlot_bhs (c e : Nat) (f : HeatSlot → HeatSlot) : (updHSlot c e f s).bhs = s.bhs := rfl
@[simp] theorem updHSlot_fab (c e : Nat) (f : HeatSlot → HeatSlot) : (updHSlot c e f s).fab = s.fab := rfl
@[simp] theorem updHSlot_stb (c e : Nat) (f : HeatSlot → HeatSlot) : (updHSlot c e f s).stb = s.stb := rfl
@[simp] theorem updHSlot_ports (c e : Nat) (f : HeatSlot → HeatSlot) : (updHSlot c e f s).ports = s.ports := rfl
@[simp] theorem updHSlot_wake (c e : Nat) (f : HeatSlot → HeatSlot) : (updHSlot c e f s).wake = s.wake := rfl
@[simp] theorem updHSlot_erg (c e : Nat) (f : HeatSlot → HeatSlot) : (updHSlot c e f s).erg = s.erg := rfl
@[simp] theorem updHSlot_fresh (c e : Nat) (f : HeatSlot → HeatSlot) : (updHSlot c e f s).fresh = s.fresh := rfl
@[simp] theorem updHSlot_pending (c e : Nat) (f : HeatSlot → HeatSlot) : (updHSlot c e f s).pending = s.pending := rfl
@[simp] theorem updPiece_build (c e k : Nat) (f : Piece → Piece) : (updPiece c e k f s).build = s.build := rfl
@[simp] theorem updPiece_tkp (c e k : Nat) (f : Piece → Piece) : (updPiece c e k f s).tkp = s.tkp := rfl
@[simp] theorem updPiece_ump (c e k : Nat) (f : Piece → Piece) : (updPiece c e k f s).ump = s.ump := rfl
@[simp] theorem updPiece_rig (c e k : Nat) (f : Piece → Piece) : (updPiece c e k f s).rig = s.rig := rfl
@[simp] theorem updPiece_mar (c e k : Nat) (f : Piece → Piece) : (updPiece c e k f s).mar = s.mar := rfl
@[simp] theorem updPiece_cox (c e k : Nat) (f : Piece → Piece) : (updPiece c e k f s).cox = s.cox := rfl
@[simp] theorem updPiece_rack (c e k : Nat) (f : Piece → Piece) : (updPiece c e k f s).rack = s.rack := rfl
@[simp] theorem updPiece_mem (c e k : Nat) (f : Piece → Piece) : (updPiece c e k f s).mem = s.mem := rfl
@[simp] theorem updPiece_sld (c e k : Nat) (f : Piece → Piece) : (updPiece c e k f s).sld = s.sld := rfl
@[simp] theorem updPiece_heat (c e k : Nat) (f : Piece → Piece) : (updPiece c e k f s).heat = s.heat := rfl
@[simp] theorem updPiece_judge (c e k : Nat) (f : Piece → Piece) : (updPiece c e k f s).judge = s.judge := rfl
@[simp] theorem updPiece_stk (c e k : Nat) (f : Piece → Piece) : (updPiece c e k f s).stk = s.stk := rfl
@[simp] theorem updPiece_bhs (c e k : Nat) (f : Piece → Piece) : (updPiece c e k f s).bhs = s.bhs := rfl
@[simp] theorem updPiece_stb (c e k : Nat) (f : Piece → Piece) : (updPiece c e k f s).stb = s.stb := rfl
@[simp] theorem updPiece_ports (c e k : Nat) (f : Piece → Piece) : (updPiece c e k f s).ports = s.ports := rfl
@[simp] theorem updPiece_wake (c e k : Nat) (f : Piece → Piece) : (updPiece c e k f s).wake = s.wake := rfl
@[simp] theorem updPiece_erg (c e k : Nat) (f : Piece → Piece) : (updPiece c e k f s).erg = s.erg := rfl
@[simp] theorem updPiece_fresh (c e k : Nat) (f : Piece → Piece) : (updPiece c e k f s).fresh = s.fresh := rfl
@[simp] theorem updPiece_pending (c e k : Nat) (f : Piece → Piece) : (updPiece c e k f s).pending = s.pending := rfl
@[simp] theorem updWork_build (o : Owner) (f : Work → Work) : (updWork o f s).build = s.build := rfl
@[simp] theorem updWork_tkp (o : Owner) (f : Work → Work) : (updWork o f s).tkp = s.tkp := rfl
@[simp] theorem updWork_ump (o : Owner) (f : Work → Work) : (updWork o f s).ump = s.ump := rfl
@[simp] theorem updWork_rig (o : Owner) (f : Work → Work) : (updWork o f s).rig = s.rig := rfl
@[simp] theorem updWork_cox (o : Owner) (f : Work → Work) : (updWork o f s).cox = s.cox := rfl
@[simp] theorem updWork_rack (o : Owner) (f : Work → Work) : (updWork o f s).rack = s.rack := rfl
@[simp] theorem updWork_mem (o : Owner) (f : Work → Work) : (updWork o f s).mem = s.mem := rfl
@[simp] theorem updWork_sld (o : Owner) (f : Work → Work) : (updWork o f s).sld = s.sld := rfl
@[simp] theorem updWork_heat (o : Owner) (f : Work → Work) : (updWork o f s).heat = s.heat := rfl
@[simp] theorem updWork_judge (o : Owner) (f : Work → Work) : (updWork o f s).judge = s.judge := rfl
@[simp] theorem updWork_stk (o : Owner) (f : Work → Work) : (updWork o f s).stk = s.stk := rfl
@[simp] theorem updWork_bhs (o : Owner) (f : Work → Work) : (updWork o f s).bhs = s.bhs := rfl
@[simp] theorem updWork_fab (o : Owner) (f : Work → Work) : (updWork o f s).fab = s.fab := rfl
@[simp] theorem updWork_stb (o : Owner) (f : Work → Work) : (updWork o f s).stb = s.stb := rfl
@[simp] theorem updWork_ports (o : Owner) (f : Work → Work) : (updWork o f s).ports = s.ports := rfl
@[simp] theorem updWork_wake (o : Owner) (f : Work → Work) : (updWork o f s).wake = s.wake := rfl
@[simp] theorem updWork_erg (o : Owner) (f : Work → Work) : (updWork o f s).erg = s.erg := rfl
@[simp] theorem updWork_fresh (o : Owner) (f : Work → Work) : (updWork o f s).fresh = s.fresh := rfl
@[simp] theorem updWork_pending (o : Owner) (f : Work → Work) : (updWork o f s).pending = s.pending := rfl
@[simp] theorem updJob_build (i : Nat) (f : SaveJob → SaveJob) : (updJob i f s).build = s.build := rfl
@[simp] theorem updJob_tkp (i : Nat) (f : SaveJob → SaveJob) : (updJob i f s).tkp = s.tkp := rfl
@[simp] theorem updJob_ump (i : Nat) (f : SaveJob → SaveJob) : (updJob i f s).ump = s.ump := rfl
@[simp] theorem updJob_rig (i : Nat) (f : SaveJob → SaveJob) : (updJob i f s).rig = s.rig := rfl
@[simp] theorem updJob_mar (i : Nat) (f : SaveJob → SaveJob) : (updJob i f s).mar = s.mar := rfl
@[simp] theorem updJob_cox (i : Nat) (f : SaveJob → SaveJob) : (updJob i f s).cox = s.cox := rfl
@[simp] theorem updJob_rack (i : Nat) (f : SaveJob → SaveJob) : (updJob i f s).rack = s.rack := rfl
@[simp] theorem updJob_mem (i : Nat) (f : SaveJob → SaveJob) : (updJob i f s).mem = s.mem := rfl
@[simp] theorem updJob_heat (i : Nat) (f : SaveJob → SaveJob) : (updJob i f s).heat = s.heat := rfl
@[simp] theorem updJob_judge (i : Nat) (f : SaveJob → SaveJob) : (updJob i f s).judge = s.judge := rfl
@[simp] theorem updJob_stk (i : Nat) (f : SaveJob → SaveJob) : (updJob i f s).stk = s.stk := rfl
@[simp] theorem updJob_bhs (i : Nat) (f : SaveJob → SaveJob) : (updJob i f s).bhs = s.bhs := rfl
@[simp] theorem updJob_fab (i : Nat) (f : SaveJob → SaveJob) : (updJob i f s).fab = s.fab := rfl
@[simp] theorem updJob_stb (i : Nat) (f : SaveJob → SaveJob) : (updJob i f s).stb = s.stb := rfl
@[simp] theorem updJob_ports (i : Nat) (f : SaveJob → SaveJob) : (updJob i f s).ports = s.ports := rfl
@[simp] theorem updJob_wake (i : Nat) (f : SaveJob → SaveJob) : (updJob i f s).wake = s.wake := rfl
@[simp] theorem updJob_erg (i : Nat) (f : SaveJob → SaveJob) : (updJob i f s).erg = s.erg := rfl
@[simp] theorem updJob_fresh (i : Nat) (f : SaveJob → SaveJob) : (updJob i f s).fresh = s.fresh := rfl
@[simp] theorem updJob_pending (i : Nat) (f : SaveJob → SaveJob) : (updJob i f s).pending = s.pending := rfl
@[simp] theorem updJJob_build (i : Nat) (f : JudgeJob → JudgeJob) : (updJJob i f s).build = s.build := rfl
@[simp] theorem updJJob_tkp (i : Nat) (f : JudgeJob → JudgeJob) : (updJJob i f s).tkp = s.tkp := rfl
@[simp] theorem updJJob_ump (i : Nat) (f : JudgeJob → JudgeJob) : (updJJob i f s).ump = s.ump := rfl
@[simp] theorem updJJob_rig (i : Nat) (f : JudgeJob → JudgeJob) : (updJJob i f s).rig = s.rig := rfl
@[simp] theorem updJJob_mar (i : Nat) (f : JudgeJob → JudgeJob) : (updJJob i f s).mar = s.mar := rfl
@[simp] theorem updJJob_cox (i : Nat) (f : JudgeJob → JudgeJob) : (updJJob i f s).cox = s.cox := rfl
@[simp] theorem updJJob_rack (i : Nat) (f : JudgeJob → JudgeJob) : (updJJob i f s).rack = s.rack := rfl
@[simp] theorem updJJob_mem (i : Nat) (f : JudgeJob → JudgeJob) : (updJJob i f s).mem = s.mem := rfl
@[simp] theorem updJJob_sld (i : Nat) (f : JudgeJob → JudgeJob) : (updJJob i f s).sld = s.sld := rfl
@[simp] theorem updJJob_heat (i : Nat) (f : JudgeJob → JudgeJob) : (updJJob i f s).heat = s.heat := rfl
@[simp] theorem updJJob_stk (i : Nat) (f : JudgeJob → JudgeJob) : (updJJob i f s).stk = s.stk := rfl
@[simp] theorem updJJob_bhs (i : Nat) (f : JudgeJob → JudgeJob) : (updJJob i f s).bhs = s.bhs := rfl
@[simp] theorem updJJob_fab (i : Nat) (f : JudgeJob → JudgeJob) : (updJJob i f s).fab = s.fab := rfl
@[simp] theorem updJJob_stb (i : Nat) (f : JudgeJob → JudgeJob) : (updJJob i f s).stb = s.stb := rfl
@[simp] theorem updJJob_ports (i : Nat) (f : JudgeJob → JudgeJob) : (updJJob i f s).ports = s.ports := rfl
@[simp] theorem updJJob_wake (i : Nat) (f : JudgeJob → JudgeJob) : (updJJob i f s).wake = s.wake := rfl
@[simp] theorem updJJob_erg (i : Nat) (f : JudgeJob → JudgeJob) : (updJJob i f s).erg = s.erg := rfl
@[simp] theorem updJJob_fresh (i : Nat) (f : JudgeJob → JudgeJob) : (updJJob i f s).fresh = s.fresh := rfl
@[simp] theorem updJJob_pending (i : Nat) (f : JudgeJob → JudgeJob) : (updJJob i f s).pending = s.pending := rfl
@[simp] theorem nextFree_build : s.nextFree.build = s.build := rfl
@[simp] theorem nextFree_tkp : s.nextFree.tkp = s.tkp := rfl
@[simp] theorem nextFree_ump : s.nextFree.ump = s.ump := rfl
@[simp] theorem nextFree_rig : s.nextFree.rig = s.rig := rfl
@[simp] theorem nextFree_mar : s.nextFree.mar = s.mar := rfl
@[simp] theorem nextFree_cox : s.nextFree.cox = s.cox := rfl
@[simp] theorem nextFree_rack : s.nextFree.rack = s.rack := rfl
@[simp] theorem nextFree_mem : s.nextFree.mem = s.mem := rfl
@[simp] theorem nextFree_sld : s.nextFree.sld = s.sld := rfl
@[simp] theorem nextFree_heat : s.nextFree.heat = s.heat := rfl
@[simp] theorem nextFree_judge : s.nextFree.judge = s.judge := rfl
@[simp] theorem nextFree_stk : s.nextFree.stk = s.stk := rfl
@[simp] theorem nextFree_bhs : s.nextFree.bhs = s.bhs := rfl
@[simp] theorem nextFree_fab : s.nextFree.fab = s.fab := rfl
@[simp] theorem nextFree_stb : s.nextFree.stb = s.stb := rfl
@[simp] theorem nextFree_ports : s.nextFree.ports = s.ports := rfl
@[simp] theorem nextFree_wake : s.nextFree.wake = s.wake := rfl
@[simp] theorem nextFree_erg : s.nextFree.erg = s.erg := rfl
@[simp] theorem nextFree_pending : s.nextFree.pending = s.pending := rfl
@[simp] theorem updRing_mar_rings (i : Nat) (f : Ring → Ring) : (updRing i f s).mar.rings = s.mar.rings.upd i f := rfl
@[simp] theorem updRing_mar_seats (i : Nat) (f : Ring → Ring) : (updRing i f s).mar.seats = s.mar.seats := rfl
@[simp] theorem updRing_mar_slots (i : Nat) (f : Ring → Ring) : (updRing i f s).mar.slots = s.mar.slots := rfl
@[simp] theorem updRing_mar_works (i : Nat) (f : Ring → Ring) : (updRing i f s).mar.works = s.mar.works := rfl
@[simp] theorem updRing_mar_ctxSel (i : Nat) (f : Ring → Ring) : (updRing i f s).mar.ctxSel = s.mar.ctxSel := rfl
@[simp] theorem updRing_mar_ringSel (i : Nat) (f : Ring → Ring) : (updRing i f s).mar.ringSel = s.mar.ringSel := rfl
@[simp] theorem updRing_mar_seatEnable (i : Nat) (f : Ring → Ring) : (updRing i f s).mar.seatEnable = s.mar.seatEnable := rfl
@[simp] theorem updRing_mar_cancels (i : Nat) (f : Ring → Ring) : (updRing i f s).mar.cancels = s.mar.cancels := rfl
@[simp] theorem updSeat_mar_rings (i : Nat) (f : Seat → Seat) : (updSeat i f s).mar.rings = s.mar.rings := rfl
@[simp] theorem updSeat_mar_seats (i : Nat) (f : Seat → Seat) : (updSeat i f s).mar.seats = s.mar.seats.upd i f := rfl
@[simp] theorem updSeat_mar_slots (i : Nat) (f : Seat → Seat) : (updSeat i f s).mar.slots = s.mar.slots := rfl
@[simp] theorem updSeat_mar_works (i : Nat) (f : Seat → Seat) : (updSeat i f s).mar.works = s.mar.works := rfl
@[simp] theorem updSeat_mar_ctxSel (i : Nat) (f : Seat → Seat) : (updSeat i f s).mar.ctxSel = s.mar.ctxSel := rfl
@[simp] theorem updSeat_mar_ringSel (i : Nat) (f : Seat → Seat) : (updSeat i f s).mar.ringSel = s.mar.ringSel := rfl
@[simp] theorem updSeat_mar_seatEnable (i : Nat) (f : Seat → Seat) : (updSeat i f s).mar.seatEnable = s.mar.seatEnable := rfl
@[simp] theorem updSeat_mar_cancels (i : Nat) (f : Seat → Seat) : (updSeat i f s).mar.cancels = s.mar.cancels := rfl
@[simp] theorem updSlot_mar_rings (i : Nat) (f : Slot → Slot) : (updSlot i f s).mar.rings = s.mar.rings := rfl
@[simp] theorem updSlot_mar_seats (i : Nat) (f : Slot → Slot) : (updSlot i f s).mar.seats = s.mar.seats := rfl
@[simp] theorem updSlot_mar_slots (i : Nat) (f : Slot → Slot) : (updSlot i f s).mar.slots = s.mar.slots.upd i f := rfl
@[simp] theorem updSlot_mar_works (i : Nat) (f : Slot → Slot) : (updSlot i f s).mar.works = s.mar.works := rfl
@[simp] theorem updSlot_mar_ctxSel (i : Nat) (f : Slot → Slot) : (updSlot i f s).mar.ctxSel = s.mar.ctxSel := rfl
@[simp] theorem updSlot_mar_ringSel (i : Nat) (f : Slot → Slot) : (updSlot i f s).mar.ringSel = s.mar.ringSel := rfl
@[simp] theorem updSlot_mar_seatEnable (i : Nat) (f : Slot → Slot) : (updSlot i f s).mar.seatEnable = s.mar.seatEnable := rfl
@[simp] theorem updSlot_mar_cancels (i : Nat) (f : Slot → Slot) : (updSlot i f s).mar.cancels = s.mar.cancels := rfl
@[simp] theorem updProg_mar_rings (i : Nat) (f : Prog → Prog) : (updProg i f s).mar.rings = s.mar.rings := rfl
@[simp] theorem updProg_mar_slots (i : Nat) (f : Prog → Prog) : (updProg i f s).mar.slots = s.mar.slots := rfl
@[simp] theorem updProg_mar_works (i : Nat) (f : Prog → Prog) : (updProg i f s).mar.works = s.mar.works := rfl
@[simp] theorem updProg_mar_ctxSel (i : Nat) (f : Prog → Prog) : (updProg i f s).mar.ctxSel = s.mar.ctxSel := rfl
@[simp] theorem updProg_mar_ringSel (i : Nat) (f : Prog → Prog) : (updProg i f s).mar.ringSel = s.mar.ringSel := rfl
@[simp] theorem updProg_mar_seatEnable (i : Nat) (f : Prog → Prog) : (updProg i f s).mar.seatEnable = s.mar.seatEnable := rfl
@[simp] theorem updProg_mar_cancels (i : Nat) (f : Prog → Prog) : (updProg i f s).mar.cancels = s.mar.cancels := rfl
@[simp] theorem updWork_mar_rings (o : Owner) (f : Work → Work) : (updWork o f s).mar.rings = s.mar.rings := rfl
@[simp] theorem updWork_mar_seats (o : Owner) (f : Work → Work) : (updWork o f s).mar.seats = s.mar.seats := rfl
@[simp] theorem updWork_mar_slots (o : Owner) (f : Work → Work) : (updWork o f s).mar.slots = s.mar.slots := rfl
@[simp] theorem updWork_mar_ctxSel (o : Owner) (f : Work → Work) : (updWork o f s).mar.ctxSel = s.mar.ctxSel := rfl
@[simp] theorem updWork_mar_ringSel (o : Owner) (f : Work → Work) : (updWork o f s).mar.ringSel = s.mar.ringSel := rfl
@[simp] theorem updWork_mar_seatEnable (o : Owner) (f : Work → Work) : (updWork o f s).mar.seatEnable = s.mar.seatEnable := rfl
@[simp] theorem updWork_mar_cancels (o : Owner) (f : Work → Work) : (updWork o f s).mar.cancels = s.mar.cancels := rfl
@[simp] theorem updObj_rack_objs (i : Nat) (f : Obj → Obj) : (updObj i f s).rack.objs = s.rack.objs.upd i f := rfl
@[simp] theorem updObj_rack_courses (i : Nat) (f : Obj → Obj) : (updObj i f s).rack.courses = s.rack.courses := rfl
@[simp] theorem updObj_rack_arg0 (i : Nat) (f : Obj → Obj) : (updObj i f s).rack.arg0 = s.rack.arg0 := rfl
@[simp] theorem updObj_rack_arg1 (i : Nat) (f : Obj → Obj) : (updObj i f s).rack.arg1 = s.rack.arg1 := rfl
@[simp] theorem updObj_rack_arg2 (i : Nat) (f : Obj → Obj) : (updObj i f s).rack.arg2 = s.rack.arg2 := rfl
@[simp] theorem updRow_fab_rows (i : Nat) (f : Rowlock → Rowlock) : (updRow i f s).fab.rows = s.fab.rows.upd i f := rfl
@[simp] theorem updRow_fab_trees (i : Nat) (f : Rowlock → Rowlock) : (updRow i f s).fab.trees = s.fab.trees := rfl
@[simp] theorem updRow_fab_items (i : Nat) (f : Rowlock → Rowlock) : (updRow i f s).fab.items = s.fab.items := rfl
@[simp] theorem updTree_fab_rows (i : Nat) (f : Tree → Tree) : (updTree i f s).fab.rows = s.fab.rows := rfl
@[simp] theorem updTree_fab_trees (i : Nat) (f : Tree → Tree) : (updTree i f s).fab.trees = s.fab.trees.upd i f := rfl
@[simp] theorem updTree_fab_items (i : Nat) (f : Tree → Tree) : (updTree i f s).fab.items = s.fab.items := rfl
@[simp] theorem updWaiter_stb_waiters (i : Nat) (f : Waiter → Waiter) : (updWaiter i f s).stb.waiters = s.stb.waiters.upd i f := rfl
@[simp] theorem updWaiter_stb_watch (i : Nat) (f : Waiter → Waiter) : (updWaiter i f s).stb.watch = s.stb.watch := rfl
@[simp] theorem updWaiter_stb_cfg (i : Nat) (f : Waiter → Waiter) : (updWaiter i f s).stb.cfg = s.stb.cfg := rfl
@[simp] theorem updWatch_stb_waiters (i : Nat) (f : Watch → Watch) : (updWatch i f s).stb.waiters = s.stb.waiters := rfl
@[simp] theorem updWatch_stb_watch (i : Nat) (f : Watch → Watch) : (updWatch i f s).stb.watch = s.stb.watch.upd i f := rfl
@[simp] theorem updWatch_stb_cfg (i : Nat) (f : Watch → Watch) : (updWatch i f s).stb.cfg = s.stb.cfg := rfl
@[simp] theorem updLoop_heat_loops (i : Nat) (f : Loop → Loop) : (updLoop i f s).heat.loops = s.heat.loops.upd i f := rfl
@[simp] theorem updLoop_heat_shares (i : Nat) (f : Loop → Loop) : (updLoop i f s).heat.shares = s.heat.shares := rfl
@[simp] theorem updLoop_heat_cfg (i : Nat) (f : Loop → Loop) : (updLoop i f s).heat.cfg = s.heat.cfg := rfl
@[simp] theorem updStream_wake_streams (i : Nat) (f : Stream → Stream) : (updStream i f s).wake.streams = s.wake.streams.upd i f := rfl
@[simp] theorem updCore_cox_cores (i : Nat) (f : Core → Core) : (updCore i f s).cox.cores = s.cox.cores.upd i f := rfl

/-! Reading a table after a write. -/

@[simp] theorem tab_get_const {α : Type} (a : α) (i : Nat) : (Tab.const a).get i = a := rfl
theorem updRing_ring (i j : Nat) (f : Ring → Ring) : (updRing i f s).ring j = if j = i then f (s.ring i) else s.ring j := tab_get_upd ..
@[simp] theorem updRing_ring_self (i : Nat) (f : Ring → Ring) : (updRing i f s).ring i = f (s.ring i) := (tab_get_upd ..).trans (if_pos rfl)
theorem updRing_ring_other {i j : Nat} (f : Ring → Ring) (h : j ≠ i) : (updRing i f s).ring j = s.ring j := (tab_get_upd ..).trans (if_neg h)
theorem updSeat_seat (i j : Nat) (f : Seat → Seat) : (updSeat i f s).seat j = if j = i then f (s.seat i) else s.seat j := tab_get_upd ..
@[simp] theorem updSeat_seat_self (i : Nat) (f : Seat → Seat) : (updSeat i f s).seat i = f (s.seat i) := (tab_get_upd ..).trans (if_pos rfl)
theorem updSeat_seat_other {i j : Nat} (f : Seat → Seat) (h : j ≠ i) : (updSeat i f s).seat j = s.seat j := (tab_get_upd ..).trans (if_neg h)
theorem updSlot_slot (i j : Nat) (f : Slot → Slot) : (updSlot i f s).slot j = if j = i then f (s.slot i) else s.slot j := tab_get_upd ..
@[simp] theorem updSlot_slot_self (i : Nat) (f : Slot → Slot) : (updSlot i f s).slot i = f (s.slot i) := (tab_get_upd ..).trans (if_pos rfl)
theorem updSlot_slot_other {i j : Nat} (f : Slot → Slot) (h : j ≠ i) : (updSlot i f s).slot j = s.slot j := (tab_get_upd ..).trans (if_neg h)
theorem updCore_core (i j : Nat) (f : Core → Core) : (updCore i f s).core j = if j = i then f (s.core i) else s.core j := tab_get_upd ..
@[simp] theorem updCore_core_self (i : Nat) (f : Core → Core) : (updCore i f s).core i = f (s.core i) := (tab_get_upd ..).trans (if_pos rfl)
theorem updCore_core_other {i j : Nat} (f : Core → Core) (h : j ≠ i) : (updCore i f s).core j = s.core j := (tab_get_upd ..).trans (if_neg h)
theorem updRow_row (i j : Nat) (f : Rowlock → Rowlock) : (updRow i f s).row j = if j = i then f (s.row i) else s.row j := tab_get_upd ..
@[simp] theorem updRow_row_self (i : Nat) (f : Rowlock → Rowlock) : (updRow i f s).row i = f (s.row i) := (tab_get_upd ..).trans (if_pos rfl)
theorem updRow_row_other {i j : Nat} (f : Rowlock → Rowlock) (h : j ≠ i) : (updRow i f s).row j = s.row j := (tab_get_upd ..).trans (if_neg h)
theorem updTree_tree (i j : Nat) (f : Tree → Tree) : (updTree i f s).tree j = if j = i then f (s.tree i) else s.tree j := tab_get_upd ..
@[simp] theorem updTree_tree_self (i : Nat) (f : Tree → Tree) : (updTree i f s).tree i = f (s.tree i) := (tab_get_upd ..).trans (if_pos rfl)
theorem updTree_tree_other {i j : Nat} (f : Tree → Tree) (h : j ≠ i) : (updTree i f s).tree j = s.tree j := (tab_get_upd ..).trans (if_neg h)
theorem updLoop_loop (i j : Nat) (f : Loop → Loop) : (updLoop i f s).loop j = if j = i then f (s.loop i) else s.loop j := tab_get_upd ..
@[simp] theorem updLoop_loop_self (i : Nat) (f : Loop → Loop) : (updLoop i f s).loop i = f (s.loop i) := (tab_get_upd ..).trans (if_pos rfl)
theorem updLoop_loop_other {i j : Nat} (f : Loop → Loop) (h : j ≠ i) : (updLoop i f s).loop j = s.loop j := (tab_get_upd ..).trans (if_neg h)
theorem updMap_map (i j : Nat) (f : SldCtx → SldCtx) : (updMap i f s).map j = if j = i then f (s.map i) else s.map j := tab_get_upd ..
@[simp] theorem updMap_map_self (i : Nat) (f : SldCtx → SldCtx) : (updMap i f s).map i = f (s.map i) := (tab_get_upd ..).trans (if_pos rfl)
theorem updMap_map_other {i j : Nat} (f : SldCtx → SldCtx) (h : j ≠ i) : (updMap i f s).map j = s.map j := (tab_get_upd ..).trans (if_neg h)
theorem updStream_stream (i j : Nat) (f : Stream → Stream) : (updStream i f s).stream j = if j = i then f (s.stream i) else s.stream j := tab_get_upd ..
@[simp] theorem updStream_stream_self (i : Nat) (f : Stream → Stream) : (updStream i f s).stream i = f (s.stream i) := (tab_get_upd ..).trans (if_pos rfl)
theorem updStream_stream_other {i j : Nat} (f : Stream → Stream) (h : j ≠ i) : (updStream i f s).stream j = s.stream j := (tab_get_upd ..).trans (if_neg h)
/-- What every step of a fold keeps, the fold keeps. -/
theorem each_induct {α σ : Type} {P : σ → Prop} (l : List α) (f : σ → α → σ) (s : σ) (hf : ∀ t a, P t → P (f t a)) (h : P s) :
    P (each l f s) := by
  induction l generalizing s with
  | nil => exact h
  | cons a l ih => exact ih (f s a) (hf s a h)
theorem updProg_prog (i : Nat) (f : Prog → Prog) : (updProg i f s).prog? i = (s.prog? i).map f := by
  simp [updProg, State.prog?]
theorem updProg_core (i k : Nat) (f : Prog → Prog) : (updProg i f s).core k = s.core k := rfl

end Sys2Proof.Machine
end

