-- ==== Sys2Proof/Laws/Words.lean ====
section
/-! SUPPORT. What observing, counting and issuing requests leave as it was, and what a word that issues answers. -/
namespace Sys2Proof.Machine

variable {s : State}

/-! ### Observing: counters change Erg alone, and a hang event one hang ring -/

theorem ctrTake_eq (i v : Nat) (s : State) : ctrTake i v s = { s with erg := (ctrTake i v s).erg } := by
  unfold ctrTake freezeStart
  dsimp only
  repeat' split
  all_goals rfl
theorem ergOne_eq (id n : Nat) (q : Qual) (s : State) (i : Nat) :
    ergOne id n q s i = { s with erg := (ergOne id n q s i).erg } := by
  unfold ergOne
  dsimp only
  split
  · exact ctrTake_eq ..
  · rfl
theorem histOne_eq (id v : Nat) (c : Option CtxId) (s : State) (h : Nat) :
    histOne id v c s h = { s with erg := (histOne id v c s h).erg } := by
  unfold histOne
  dsimp only
  split <;> rfl
theorem each_erg {α : Type} (l : List α) (f : State → α → State) (hf : ∀ t a, f t a = { t with erg := (f t a).erg })
    (s : State) : each l f s = { s with erg := (each l f s).erg } := by
  refine each_induct (σ := State) (P := fun t => t = { s with erg := t.erg }) l f s (fun t a h => ?_) rfl
  rw [hf t a, h]
theorem ergCount_eq (id n : Nat) (q : Qual) (s : State) : ergCount id n q s = { s with erg := (ergCount id n q s).erg } := by
  unfold ergCount
  split
  · exact each_erg _ _ (ergOne_eq id n q) s
  · rfl
theorem ergValue_eq (id v : Nat) (q : Qual) (s : State) : ergValue id v q s = { s with erg := (ergValue id v q s).erg } := by
  unfold ergValue
  split
  · rw [ergCount_eq, each_erg _ _ (histOne_eq id v q.ctx) s]
  · rfl
theorem hangEv_eq (i c d : Nat) (s : State) :
    hangEv i c d s = { s with ump := { s.ump with hang := (hangEv i c d s).ump.hang } } := by
  unfold hangEv
  split <;> rfl
theorem reqEv_eq (i p t a : Nat) (s : State) :
    reqEv i p t a s = { s with ump := { s.ump with hang := (reqEv i p t a s).ump.hang } } := by
  unfold reqEv
  split
  · rfl
  · exact hangEv_eq ..
theorem each_wake {α : Type} (l : List α) (f : State → α → State)
    (hf : ∀ t a, f t a = { t with wake := (f t a).wake, ump := { t.ump with hang := (f t a).ump.hang } })
    (s : State) : each l f s = { s with wake := (each l f s).wake, ump := { s.ump with hang := (each l f s).ump.hang } } := by
  refine each_induct (σ := State) (P := fun t => t = { s with wake := t.wake, ump := { s.ump with hang := t.ump.hang } }) l f s
    (fun t a h => ?_) rfl
  rw [hf t a, h]
theorem writeBlock_eq (i : Nat) (s : State) : writeBlock i s = { s with
    wake := (writeBlock i s).wake, ump := { s.ump with hang := (writeBlock i s).ump.hang } } := by
  unfold writeBlock
  dsimp only
  split
  · rfl
  · split
    · rfl
    · rw [hangEv_eq]
theorem writeFull_eq (i n : Nat) (s : State) : writeFull i n s = { s with
    wake := (writeFull i n s).wake, ump := { s.ump with hang := (writeFull i n s).ump.hang } } := by
  induction n generalizing s with
  | zero => rfl
  | succ n ih =>
    unfold writeFull
    split
    · rfl
    · rw [ih, writeBlock_eq]
theorem wakeRec_eq (i k : Nat) (b : Bool) (c : Option CtxId) (cl : Option Nat) (m : Sampling) (f : Bool) (w : List W64) (s : State) :
    wakeRec i k b c cl m f w s = { s with
      wake := (wakeRec i k b c cl m f w s).wake, ump := { s.ump with hang := (wakeRec i k b c cl m f w s).ump.hang } } := by
  unfold wakeRec
  split
  · refine each_wake _ _ (fun t a => ?_) s
    unfold wakeOne
    dsimp only
    split
    · rfl
    · rw [writeFull_eq]
  · rfl
@[simp] theorem ergCount_build (a b : Nat) (q : Qual) : (ergCount a b q s).build = s.build := by rw [ergCount_eq]
@[simp] theorem ergCount_tkp (a b : Nat) (q : Qual) : (ergCount a b q s).tkp = s.tkp := by rw [ergCount_eq]
@[simp] theorem ergCount_ump (a b : Nat) (q : Qual) : (ergCount a b q s).ump = s.ump := by rw [ergCount_eq]
@[simp] theorem ergCount_rig (a b : Nat) (q : Qual) : (ergCount a b q s).rig = s.rig := by rw [ergCount_eq]
@[simp] theorem ergCount_mar (a b : Nat) (q : Qual) : (ergCount a b q s).mar = s.mar := by rw [ergCount_eq]
@[simp] theorem ergCount_cox (a b : Nat) (q : Qual) : (ergCount a b q s).cox = s.cox := by rw [ergCount_eq]
@[simp] theorem ergCount_rack (a b : Nat) (q : Qual) : (ergCount a b q s).rack = s.rack := by rw [ergCount_eq]
@[simp] theorem ergCount_mem (a b : Nat) (q : Qual) : (ergCount a b q s).mem = s.mem := by rw [ergCount_eq]
@[simp] theorem ergCount_sld (a b : Nat) (q : Qual) : (ergCount a b q s).sld = s.sld := by rw [ergCount_eq]
@[simp] theorem ergCount_heat (a b : Nat) (q : Qual) : (ergCount a b q s).heat = s.heat := by rw [ergCount_eq]
@[simp] theorem ergCount_judge (a b : Nat) (q : Qual) : (ergCount a b q s).judge = s.judge := by rw [ergCount_eq]
@[simp] theorem ergCount_stk (a b : Nat) (q : Qual) : (ergCount a b q s).stk = s.stk := by rw [ergCount_eq]
@[simp] theorem ergCount_bhs (a b : Nat) (q : Qual) : (ergCount a b q s).bhs = s.bhs := by rw [ergCount_eq]
@[simp] theorem ergCount_fab (a b : Nat) (q : Qual) : (ergCount a b q s).fab = s.fab := by rw [ergCount_eq]
@[simp] theorem ergCount_stb (a b : Nat) (q : Qual) : (ergCount a b q s).stb = s.stb := by rw [ergCount_eq]
@[simp] theorem ergCount_ports (a b : Nat) (q : Qual) : (ergCount a b q s).ports = s.ports := by rw [ergCount_eq]
@[simp] theorem ergCount_wake (a b : Nat) (q : Qual) : (ergCount a b q s).wake = s.wake := by rw [ergCount_eq]
@[simp] theorem ergCount_fresh (a b : Nat) (q : Qual) : (ergCount a b q s).fresh = s.fresh := by rw [ergCount_eq]
@[simp] theorem ergCount_pending (a b : Nat) (q : Qual) : (ergCount a b q s).pending = s.pending := by rw [ergCount_eq]
@[simp] theorem ergValue_build (a b : Nat) (q : Qual) : (ergValue a b q s).build = s.build := by rw [ergValue_eq]
@[simp] theorem ergValue_tkp (a b : Nat) (q : Qual) : (ergValue a b q s).tkp = s.tkp := by rw [ergValue_eq]
@[simp] theorem ergValue_ump (a b : Nat) (q : Qual) : (ergValue a b q s).ump = s.ump := by rw [ergValue_eq]
@[simp] theorem ergValue_rig (a b : Nat) (q : Qual) : (ergValue a b q s).rig = s.rig := by rw [ergValue_eq]
@[simp] theorem ergValue_mar (a b : Nat) (q : Qual) : (ergValue a b q s).mar = s.mar := by rw [ergValue_eq]
@[simp] theorem ergValue_cox (a b : Nat) (q : Qual) : (ergValue a b q s).cox = s.cox := by rw [ergValue_eq]
@[simp] theorem ergValue_rack (a b : Nat) (q : Qual) : (ergValue a b q s).rack = s.rack := by rw [ergValue_eq]
@[simp] theorem ergValue_mem (a b : Nat) (q : Qual) : (ergValue a b q s).mem = s.mem := by rw [ergValue_eq]
@[simp] theorem ergValue_sld (a b : Nat) (q : Qual) : (ergValue a b q s).sld = s.sld := by rw [ergValue_eq]
@[simp] theorem ergValue_heat (a b : Nat) (q : Qual) : (ergValue a b q s).heat = s.heat := by rw [ergValue_eq]
@[simp] theorem ergValue_judge (a b : Nat) (q : Qual) : (ergValue a b q s).judge = s.judge := by rw [ergValue_eq]
@[simp] theorem ergValue_stk (a b : Nat) (q : Qual) : (ergValue a b q s).stk = s.stk := by rw [ergValue_eq]
@[simp] theorem ergValue_bhs (a b : Nat) (q : Qual) : (ergValue a b q s).bhs = s.bhs := by rw [ergValue_eq]
@[simp] theorem ergValue_fab (a b : Nat) (q : Qual) : (ergValue a b q s).fab = s.fab := by rw [ergValue_eq]
@[simp] theorem ergValue_stb (a b : Nat) (q : Qual) : (ergValue a b q s).stb = s.stb := by rw [ergValue_eq]
@[simp] theorem ergValue_ports (a b : Nat) (q : Qual) : (ergValue a b q s).ports = s.ports := by rw [ergValue_eq]
@[simp] theorem ergValue_wake (a b : Nat) (q : Qual) : (ergValue a b q s).wake = s.wake := by rw [ergValue_eq]
@[simp] theorem ergValue_fresh (a b : Nat) (q : Qual) : (ergValue a b q s).fresh = s.fresh := by rw [ergValue_eq]
@[simp] theorem ergValue_pending (a b : Nat) (q : Qual) : (ergValue a b q s).pending = s.pending := by rw [ergValue_eq]
@[simp] theorem hangEv_build (a b c : Nat) : (hangEv a b c s).build = s.build := by rw [hangEv_eq]
@[simp] theorem hangEv_tkp (a b c : Nat) : (hangEv a b c s).tkp = s.tkp := by rw [hangEv_eq]
@[simp] theorem hangEv_rig (a b c : Nat) : (hangEv a b c s).rig = s.rig := by rw [hangEv_eq]
@[simp] theorem hangEv_mar (a b c : Nat) : (hangEv a b c s).mar = s.mar := by rw [hangEv_eq]
@[simp] theorem hangEv_cox (a b c : Nat) : (hangEv a b c s).cox = s.cox := by rw [hangEv_eq]
@[simp] theorem hangEv_rack (a b c : Nat) : (hangEv a b c s).rack = s.rack := by rw [hangEv_eq]
@[simp] theorem hangEv_mem (a b c : Nat) : (hangEv a b c s).mem = s.mem := by rw [hangEv_eq]
@[simp] theorem hangEv_sld (a b c : Nat) : (hangEv a b c s).sld = s.sld := by rw [hangEv_eq]
@[simp] theorem hangEv_heat (a b c : Nat) : (hangEv a b c s).heat = s.heat := by rw [hangEv_eq]
@[simp] theorem hangEv_judge (a b c : Nat) : (hangEv a b c s).judge = s.judge := by rw [hangEv_eq]
@[simp] theorem hangEv_stk (a b c : Nat) : (hangEv a b c s).stk = s.stk := by rw [hangEv_eq]
@[simp] theorem hangEv_bhs (a b c : Nat) : (hangEv a b c s).bhs = s.bhs := by rw [hangEv_eq]
@[simp] theorem hangEv_fab (a b c : Nat) : (hangEv a b c s).fab = s.fab := by rw [hangEv_eq]
@[simp] theorem hangEv_stb (a b c : Nat) : (hangEv a b c s).stb = s.stb := by rw [hangEv_eq]
@[simp] theorem hangEv_ports (a b c : Nat) : (hangEv a b c s).ports = s.ports := by rw [hangEv_eq]
@[simp] theorem hangEv_wake (a b c : Nat) : (hangEv a b c s).wake = s.wake := by rw [hangEv_eq]
@[simp] theorem hangEv_erg (a b c : Nat) : (hangEv a b c s).erg = s.erg := by rw [hangEv_eq]
@[simp] theorem hangEv_fresh (a b c : Nat) : (hangEv a b c s).fresh = s.fresh := by rw [hangEv_eq]
@[simp] theorem hangEv_pending (a b c : Nat) : (hangEv a b c s).pending = s.pending := by rw [hangEv_eq]
@[simp] theorem reqEv_build (a b c d : Nat) : (reqEv a b c d s).build = s.build := by rw [reqEv_eq]
@[simp] theorem reqEv_tkp (a b c d : Nat) : (reqEv a b c d s).tkp = s.tkp := by rw [reqEv_eq]
@[simp] theorem reqEv_rig (a b c d : Nat) : (reqEv a b c d s).rig = s.rig := by rw [reqEv_eq]
@[simp] theorem reqEv_mar (a b c d : Nat) : (reqEv a b c d s).mar = s.mar := by rw [reqEv_eq]
@[simp] theorem reqEv_cox (a b c d : Nat) : (reqEv a b c d s).cox = s.cox := by rw [reqEv_eq]
@[simp] theorem reqEv_rack (a b c d : Nat) : (reqEv a b c d s).rack = s.rack := by rw [reqEv_eq]
@[simp] theorem reqEv_mem (a b c d : Nat) : (reqEv a b c d s).mem = s.mem := by rw [reqEv_eq]
@[simp] theorem reqEv_sld (a b c d : Nat) : (reqEv a b c d s).sld = s.sld := by rw [reqEv_eq]
@[simp] theorem reqEv_heat (a b c d : Nat) : (reqEv a b c d s).heat = s.heat := by rw [reqEv_eq]
@[simp] theorem reqEv_judge (a b c d : Nat) : (reqEv a b c d s).judge = s.judge := by rw [reqEv_eq]
@[simp] theorem reqEv_stk (a b c d : Nat) : (reqEv a b c d s).stk = s.stk := by rw [reqEv_eq]
@[simp] theorem reqEv_bhs (a b c d : Nat) : (reqEv a b c d s).bhs = s.bhs := by rw [reqEv_eq]
@[simp] theorem reqEv_fab (a b c d : Nat) : (reqEv a b c d s).fab = s.fab := by rw [reqEv_eq]
@[simp] theorem reqEv_stb (a b c d : Nat) : (reqEv a b c d s).stb = s.stb := by rw [reqEv_eq]
@[simp] theorem reqEv_ports (a b c d : Nat) : (reqEv a b c d s).ports = s.ports := by rw [reqEv_eq]
@[simp] theorem reqEv_wake (a b c d : Nat) : (reqEv a b c d s).wake = s.wake := by rw [reqEv_eq]
@[simp] theorem reqEv_erg (a b c d : Nat) : (reqEv a b c d s).erg = s.erg := by rw [reqEv_eq]
@[simp] theorem reqEv_fresh (a b c d : Nat) : (reqEv a b c d s).fresh = s.fresh := by rw [reqEv_eq]
@[simp] theorem reqEv_pending (a b c d : Nat) : (reqEv a b c d s).pending = s.pending := by rw [reqEv_eq]

theorem stateEv_eq (i m k a b : Nat) (s : State) : stateEv i m k a b s = { s with ump := { s.ump with hang := (stateEv i m k a b s).ump.hang } } := by
  unfold stateEv
  split
  · rfl
  · exact hangEv_eq ..
@[simp] theorem stateEv_build (i m k a b : Nat) : (stateEv i m k a b s).build = s.build := by rw [stateEv_eq]
@[simp] theorem stateEv_tkp (i m k a b : Nat) : (stateEv i m k a b s).tkp = s.tkp := by rw [stateEv_eq]
@[simp] theorem stateEv_rig (i m k a b : Nat) : (stateEv i m k a b s).rig = s.rig := by rw [stateEv_eq]
@[simp] theorem stateEv_mar (i m k a b : Nat) : (stateEv i m k a b s).mar = s.mar := by rw [stateEv_eq]
@[simp] theorem stateEv_cox (i m k a b : Nat) : (stateEv i m k a b s).cox = s.cox := by rw [stateEv_eq]
@[simp] theorem stateEv_rack (i m k a b : Nat) : (stateEv i m k a b s).rack = s.rack := by rw [stateEv_eq]
@[simp] theorem stateEv_mem (i m k a b : Nat) : (stateEv i m k a b s).mem = s.mem := by rw [stateEv_eq]
@[simp] theorem stateEv_sld (i m k a b : Nat) : (stateEv i m k a b s).sld = s.sld := by rw [stateEv_eq]
@[simp] theorem stateEv_heat (i m k a b : Nat) : (stateEv i m k a b s).heat = s.heat := by rw [stateEv_eq]
@[simp] theorem stateEv_judge (i m k a b : Nat) : (stateEv i m k a b s).judge = s.judge := by rw [stateEv_eq]
@[simp] theorem stateEv_stk (i m k a b : Nat) : (stateEv i m k a b s).stk = s.stk := by rw [stateEv_eq]
@[simp] theorem stateEv_bhs (i m k a b : Nat) : (stateEv i m k a b s).bhs = s.bhs := by rw [stateEv_eq]
@[simp] theorem stateEv_fab (i m k a b : Nat) : (stateEv i m k a b s).fab = s.fab := by rw [stateEv_eq]
@[simp] theorem stateEv_stb (i m k a b : Nat) : (stateEv i m k a b s).stb = s.stb := by rw [stateEv_eq]
@[simp] theorem stateEv_ports (i m k a b : Nat) : (stateEv i m k a b s).ports = s.ports := by rw [stateEv_eq]
@[simp] theorem stateEv_wake (i m k a b : Nat) : (stateEv i m k a b s).wake = s.wake := by rw [stateEv_eq]
@[simp] theorem stateEv_erg (i m k a b : Nat) : (stateEv i m k a b s).erg = s.erg := by rw [stateEv_eq]
@[simp] theorem stateEv_fresh (i m k a b : Nat) : (stateEv i m k a b s).fresh = s.fresh := by rw [stateEv_eq]
@[simp] theorem stateEv_pending (i m k a b : Nat) : (stateEv i m k a b s).pending = s.pending := by rw [stateEv_eq]
/-- A change of state is the update of the unit and one hang event (R387). -/
theorem moveSeat_eq (i : Nat) (f : Seat → Seat) (s : State) : moveSeat i f s = { updSeat i f s with
    ump := { s.ump with hang := (moveSeat i f s).ump.hang } } := by
  unfold moveSeat
  exact stateEv_eq ..
@[simp] theorem moveSeat_build (i : Nat) (f : Seat → Seat) : (moveSeat i f s).build = s.build := by rw [moveSeat_eq]; rfl
@[simp] theorem moveSeat_tkp (i : Nat) (f : Seat → Seat) : (moveSeat i f s).tkp = s.tkp := by rw [moveSeat_eq]; rfl
@[simp] theorem moveSeat_rig (i : Nat) (f : Seat → Seat) : (moveSeat i f s).rig = s.rig := by rw [moveSeat_eq]; rfl
@[simp] theorem moveSeat_mar (i : Nat) (f : Seat → Seat) : (moveSeat i f s).mar = (updSeat i f s).mar := by rw [moveSeat_eq]
@[simp] theorem moveSeat_cox (i : Nat) (f : Seat → Seat) : (moveSeat i f s).cox = s.cox := by rw [moveSeat_eq]; rfl
@[simp] theorem moveSeat_rack (i : Nat) (f : Seat → Seat) : (moveSeat i f s).rack = s.rack := by rw [moveSeat_eq]; rfl
@[simp] theorem moveSeat_mem (i : Nat) (f : Seat → Seat) : (moveSeat i f s).mem = s.mem := by rw [moveSeat_eq]; rfl
@[simp] theorem moveSeat_sld (i : Nat) (f : Seat → Seat) : (moveSeat i f s).sld = s.sld := by rw [moveSeat_eq]; rfl
@[simp] theorem moveSeat_heat (i : Nat) (f : Seat → Seat) : (moveSeat i f s).heat = s.heat := by rw [moveSeat_eq]; rfl
@[simp] theorem moveSeat_judge (i : Nat) (f : Seat → Seat) : (moveSeat i f s).judge = s.judge := by rw [moveSeat_eq]; rfl
@[simp] theorem moveSeat_stk (i : Nat) (f : Seat → Seat) : (moveSeat i f s).stk = s.stk := by rw [moveSeat_eq]; rfl
@[simp] theorem moveSeat_bhs (i : Nat) (f : Seat → Seat) : (moveSeat i f s).bhs = s.bhs := by rw [moveSeat_eq]; rfl
@[simp] theorem moveSeat_fab (i : Nat) (f : Seat → Seat) : (moveSeat i f s).fab = s.fab := by rw [moveSeat_eq]; rfl
@[simp] theorem moveSeat_stb (i : Nat) (f : Seat → Seat) : (moveSeat i f s).stb = s.stb := by rw [moveSeat_eq]; rfl
@[simp] theorem moveSeat_ports (i : Nat) (f : Seat → Seat) : (moveSeat i f s).ports = s.ports := by rw [moveSeat_eq]; rfl
@[simp] theorem moveSeat_wake (i : Nat) (f : Seat → Seat) : (moveSeat i f s).wake = s.wake := by rw [moveSeat_eq]; rfl
@[simp] theorem moveSeat_erg (i : Nat) (f : Seat → Seat) : (moveSeat i f s).erg = s.erg := by rw [moveSeat_eq]; rfl
@[simp] theorem moveSeat_fresh (i : Nat) (f : Seat → Seat) : (moveSeat i f s).fresh = s.fresh := by rw [moveSeat_eq]; rfl
@[simp] theorem moveSeat_pending (i : Nat) (f : Seat → Seat) : (moveSeat i f s).pending = s.pending := by rw [moveSeat_eq]; rfl
/-- A change of state is the update of the unit and one hang event (R387). -/
theorem moveEng_eq (c e : Nat) (f : Engine → Engine) (s : State) : moveEng c e f s = { updEng c e f s with
    ump := { s.ump with hang := (moveEng c e f s).ump.hang } } := by
  unfold moveEng
  exact stateEv_eq ..
@[simp] theorem moveEng_build (c e : Nat) (f : Engine → Engine) : (moveEng c e f s).build = s.build := by rw [moveEng_eq]; rfl
@[simp] theorem moveEng_tkp (c e : Nat) (f : Engine → Engine) : (moveEng c e f s).tkp = s.tkp := by rw [moveEng_eq]; rfl
@[simp] theorem moveEng_rig (c e : Nat) (f : Engine → Engine) : (moveEng c e f s).rig = s.rig := by rw [moveEng_eq]; rfl
@[simp] theorem moveEng_mar (c e : Nat) (f : Engine → Engine) : (moveEng c e f s).mar = s.mar := by rw [moveEng_eq]; rfl
@[simp] theorem moveEng_cox (c e : Nat) (f : Engine → Engine) : (moveEng c e f s).cox = s.cox := by rw [moveEng_eq]; rfl
@[simp] theorem moveEng_rack (c e : Nat) (f : Engine → Engine) : (moveEng c e f s).rack = s.rack := by rw [moveEng_eq]; rfl
@[simp] theorem moveEng_mem (c e : Nat) (f : Engine → Engine) : (moveEng c e f s).mem = s.mem := by rw [moveEng_eq]; rfl
@[simp] theorem moveEng_sld (c e : Nat) (f : Engine → Engine) : (moveEng c e f s).sld = s.sld := by rw [moveEng_eq]; rfl
@[simp] theorem moveEng_heat (c e : Nat) (f : Engine → Engine) : (moveEng c e f s).heat = s.heat := by rw [moveEng_eq]; rfl
@[simp] theorem moveEng_judge (c e : Nat) (f : Engine → Engine) : (moveEng c e f s).judge = s.judge := by rw [moveEng_eq]; rfl
@[simp] theorem moveEng_stk (c e : Nat) (f : Engine → Engine) : (moveEng c e f s).stk = s.stk := by rw [moveEng_eq]; rfl
@[simp] theorem moveEng_bhs (c e : Nat) (f : Engine → Engine) : (moveEng c e f s).bhs = s.bhs := by rw [moveEng_eq]; rfl
@[simp] theorem moveEng_fab (c e : Nat) (f : Engine → Engine) : (moveEng c e f s).fab = (updEng c e f s).fab := by rw [moveEng_eq]
@[simp] theorem moveEng_stb (c e : Nat) (f : Engine → Engine) : (moveEng c e f s).stb = s.stb := by rw [moveEng_eq]; rfl
@[simp] theorem moveEng_ports (c e : Nat) (f : Engine → Engine) : (moveEng c e f s).ports = s.ports := by rw [moveEng_eq]; rfl
@[simp] theorem moveEng_wake (c e : Nat) (f : Engine → Engine) : (moveEng c e f s).wake = s.wake := by rw [moveEng_eq]; rfl
@[simp] theorem moveEng_erg (c e : Nat) (f : Engine → Engine) : (moveEng c e f s).erg = s.erg := by rw [moveEng_eq]; rfl
@[simp] theorem moveEng_fresh (c e : Nat) (f : Engine → Engine) : (moveEng c e f s).fresh = s.fresh := by rw [moveEng_eq]; rfl
@[simp] theorem moveEng_pending (c e : Nat) (f : Engine → Engine) : (moveEng c e f s).pending = s.pending := by rw [moveEng_eq]; rfl
/-- A change of state is the update of the unit and one hang event (R387). -/
theorem moveHSlot_eq (l k : Nat) (f : HeatSlot → HeatSlot) (s : State) : moveHSlot l k f s = { updHSlot l k f s with
    ump := { s.ump with hang := (moveHSlot l k f s).ump.hang } } := by
  unfold moveHSlot
  exact stateEv_eq ..
@[simp] theorem moveHSlot_build (l k : Nat) (f : HeatSlot → HeatSlot) : (moveHSlot l k f s).build = s.build := by rw [moveHSlot_eq]; rfl
@[simp] theorem moveHSlot_tkp (l k : Nat) (f : HeatSlot → HeatSlot) : (moveHSlot l k f s).tkp = s.tkp := by rw [moveHSlot_eq]; rfl
@[simp] theorem moveHSlot_rig (l k : Nat) (f : HeatSlot → HeatSlot) : (moveHSlot l k f s).rig = s.rig := by rw [moveHSlot_eq]; rfl
@[simp] theorem moveHSlot_mar (l k : Nat) (f : HeatSlot → HeatSlot) : (moveHSlot l k f s).mar = s.mar := by rw [moveHSlot_eq]; rfl
@[simp] theorem moveHSlot_cox (l k : Nat) (f : HeatSlot → HeatSlot) : (moveHSlot l k f s).cox = s.cox := by rw [moveHSlot_eq]; rfl
@[simp] theorem moveHSlot_rack (l k : Nat) (f : HeatSlot → HeatSlot) : (moveHSlot l k f s).rack = s.rack := by rw [moveHSlot_eq]; rfl
@[simp] theorem moveHSlot_mem (l k : Nat) (f : HeatSlot → HeatSlot) : (moveHSlot l k f s).mem = s.mem := by rw [moveHSlot_eq]; rfl
@[simp] theorem moveHSlot_sld (l k : Nat) (f : HeatSlot → HeatSlot) : (moveHSlot l k f s).sld = s.sld := by rw [moveHSlot_eq]; rfl
@[simp] theorem moveHSlot_heat (l k : Nat) (f : HeatSlot → HeatSlot) : (moveHSlot l k f s).heat = (updHSlot l k f s).heat := by rw [moveHSlot_eq]
@[simp] theorem moveHSlot_judge (l k : Nat) (f : HeatSlot → HeatSlot) : (moveHSlot l k f s).judge = s.judge := by rw [moveHSlot_eq]; rfl
@[simp] theorem moveHSlot_stk (l k : Nat) (f : HeatSlot → HeatSlot) : (moveHSlot l k f s).stk = s.stk := by rw [moveHSlot_eq]; rfl
@[simp] theorem moveHSlot_bhs (l k : Nat) (f : HeatSlot → HeatSlot) : (moveHSlot l k f s).bhs = s.bhs := by rw [moveHSlot_eq]; rfl
@[simp] theorem moveHSlot_fab (l k : Nat) (f : HeatSlot → HeatSlot) : (moveHSlot l k f s).fab = s.fab := by rw [moveHSlot_eq]; rfl
@[simp] theorem moveHSlot_stb (l k : Nat) (f : HeatSlot → HeatSlot) : (moveHSlot l k f s).stb = s.stb := by rw [moveHSlot_eq]; rfl
@[simp] theorem moveHSlot_ports (l k : Nat) (f : HeatSlot → HeatSlot) : (moveHSlot l k f s).ports = s.ports := by rw [moveHSlot_eq]; rfl
@[simp] theorem moveHSlot_wake (l k : Nat) (f : HeatSlot → HeatSlot) : (moveHSlot l k f s).wake = s.wake := by rw [moveHSlot_eq]; rfl
@[simp] theorem moveHSlot_erg (l k : Nat) (f : HeatSlot → HeatSlot) : (moveHSlot l k f s).erg = s.erg := by rw [moveHSlot_eq]; rfl
@[simp] theorem moveHSlot_fresh (l k : Nat) (f : HeatSlot → HeatSlot) : (moveHSlot l k f s).fresh = s.fresh := by rw [moveHSlot_eq]; rfl
@[simp] theorem moveHSlot_pending (l k : Nat) (f : HeatSlot → HeatSlot) : (moveHSlot l k f s).pending = s.pending := by rw [moveHSlot_eq]; rfl
/-- A change of state is the update of the unit and one hang event (R387). -/
theorem moveWaiter_eq (i : Nat) (f : Waiter → Waiter) (s : State) : moveWaiter i f s = { updWaiter i f s with
    ump := { s.ump with hang := (moveWaiter i f s).ump.hang } } := by
  unfold moveWaiter
  exact stateEv_eq ..
@[simp] theorem moveWaiter_build (i : Nat) (f : Waiter → Waiter) : (moveWaiter i f s).build = s.build := by rw [moveWaiter_eq]; rfl
@[simp] theorem moveWaiter_tkp (i : Nat) (f : Waiter → Waiter) : (moveWaiter i f s).tkp = s.tkp := by rw [moveWaiter_eq]; rfl
@[simp] theorem moveWaiter_rig (i : Nat) (f : Waiter → Waiter) : (moveWaiter i f s).rig = s.rig := by rw [moveWaiter_eq]; rfl
@[simp] theorem moveWaiter_mar (i : Nat) (f : Waiter → Waiter) : (moveWaiter i f s).mar = s.mar := by rw [moveWaiter_eq]; rfl
@[simp] theorem moveWaiter_cox (i : Nat) (f : Waiter → Waiter) : (moveWaiter i f s).cox = s.cox := by rw [moveWaiter_eq]; rfl
@[simp] theorem moveWaiter_rack (i : Nat) (f : Waiter → Waiter) : (moveWaiter i f s).rack = s.rack := by rw [moveWaiter_eq]; rfl
@[simp] theorem moveWaiter_mem (i : Nat) (f : Waiter → Waiter) : (moveWaiter i f s).mem = s.mem := by rw [moveWaiter_eq]; rfl
@[simp] theorem moveWaiter_sld (i : Nat) (f : Waiter → Waiter) : (moveWaiter i f s).sld = s.sld := by rw [moveWaiter_eq]; rfl
@[simp] theorem moveWaiter_heat (i : Nat) (f : Waiter → Waiter) : (moveWaiter i f s).heat = s.heat := by rw [moveWaiter_eq]; rfl
@[simp] theorem moveWaiter_judge (i : Nat) (f : Waiter → Waiter) : (moveWaiter i f s).judge = s.judge := by rw [moveWaiter_eq]; rfl
@[simp] theorem moveWaiter_stk (i : Nat) (f : Waiter → Waiter) : (moveWaiter i f s).stk = s.stk := by rw [moveWaiter_eq]; rfl
@[simp] theorem moveWaiter_bhs (i : Nat) (f : Waiter → Waiter) : (moveWaiter i f s).bhs = s.bhs := by rw [moveWaiter_eq]; rfl
@[simp] theorem moveWaiter_fab (i : Nat) (f : Waiter → Waiter) : (moveWaiter i f s).fab = s.fab := by rw [moveWaiter_eq]; rfl
@[simp] theorem moveWaiter_stb (i : Nat) (f : Waiter → Waiter) : (moveWaiter i f s).stb = (updWaiter i f s).stb := by rw [moveWaiter_eq]
@[simp] theorem moveWaiter_ports (i : Nat) (f : Waiter → Waiter) : (moveWaiter i f s).ports = s.ports := by rw [moveWaiter_eq]; rfl
@[simp] theorem moveWaiter_wake (i : Nat) (f : Waiter → Waiter) : (moveWaiter i f s).wake = s.wake := by rw [moveWaiter_eq]; rfl
@[simp] theorem moveWaiter_erg (i : Nat) (f : Waiter → Waiter) : (moveWaiter i f s).erg = s.erg := by rw [moveWaiter_eq]; rfl
@[simp] theorem moveWaiter_fresh (i : Nat) (f : Waiter → Waiter) : (moveWaiter i f s).fresh = s.fresh := by rw [moveWaiter_eq]; rfl
@[simp] theorem moveWaiter_pending (i : Nat) (f : Waiter → Waiter) : (moveWaiter i f s).pending = s.pending := by rw [moveWaiter_eq]; rfl

@[simp] theorem wakeRec_build (i k : Nat) (b : Bool) (c : Option CtxId) (cl : Option Nat) (m : Sampling) (f : Bool) (w : List W64) :
    (wakeRec i k b c cl m f w s).build = s.build := by rw [wakeRec_eq]
@[simp] theorem wakeRec_tkp (i k : Nat) (b : Bool) (c : Option CtxId) (cl : Option Nat) (m : Sampling) (f : Bool) (w : List W64) :
    (wakeRec i k b c cl m f w s).tkp = s.tkp := by rw [wakeRec_eq]
@[simp] theorem wakeRec_rig (i k : Nat) (b : Bool) (c : Option CtxId) (cl : Option Nat) (m : Sampling) (f : Bool) (w : List W64) :
    (wakeRec i k b c cl m f w s).rig = s.rig := by rw [wakeRec_eq]
@[simp] theorem wakeRec_mar (i k : Nat) (b : Bool) (c : Option CtxId) (cl : Option Nat) (m : Sampling) (f : Bool) (w : List W64) :
    (wakeRec i k b c cl m f w s).mar = s.mar := by rw [wakeRec_eq]
@[simp] theorem wakeRec_cox (i k : Nat) (b : Bool) (c : Option CtxId) (cl : Option Nat) (m : Sampling) (f : Bool) (w : List W64) :
    (wakeRec i k b c cl m f w s).cox = s.cox := by rw [wakeRec_eq]
@[simp] theorem wakeRec_rack (i k : Nat) (b : Bool) (c : Option CtxId) (cl : Option Nat) (m : Sampling) (f : Bool) (w : List W64) :
    (wakeRec i k b c cl m f w s).rack = s.rack := by rw [wakeRec_eq]
@[simp] theorem wakeRec_mem (i k : Nat) (b : Bool) (c : Option CtxId) (cl : Option Nat) (m : Sampling) (f : Bool) (w : List W64) :
    (wakeRec i k b c cl m f w s).mem = s.mem := by rw [wakeRec_eq]
@[simp] theorem wakeRec_sld (i k : Nat) (b : Bool) (c : Option CtxId) (cl : Option Nat) (m : Sampling) (f : Bool) (w : List W64) :
    (wakeRec i k b c cl m f w s).sld = s.sld := by rw [wakeRec_eq]
@[simp] theorem wakeRec_heat (i k : Nat) (b : Bool) (c : Option CtxId) (cl : Option Nat) (m : Sampling) (f : Bool) (w : List W64) :
    (wakeRec i k b c cl m f w s).heat = s.heat := by rw [wakeRec_eq]
@[simp] theorem wakeRec_judge (i k : Nat) (b : Bool) (c : Option CtxId) (cl : Option Nat) (m : Sampling) (f : Bool) (w : List W64) :
    (wakeRec i k b c cl m f w s).judge = s.judge := by rw [wakeRec_eq]
@[simp] theorem wakeRec_stk (i k : Nat) (b : Bool) (c : Option CtxId) (cl : Option Nat) (m : Sampling) (f : Bool) (w : List W64) :
    (wakeRec i k b c cl m f w s).stk = s.stk := by rw [wakeRec_eq]
@[simp] theorem wakeRec_bhs (i k : Nat) (b : Bool) (c : Option CtxId) (cl : Option Nat) (m : Sampling) (f : Bool) (w : List W64) :
    (wakeRec i k b c cl m f w s).bhs = s.bhs := by rw [wakeRec_eq]
@[simp] theorem wakeRec_fab (i k : Nat) (b : Bool) (c : Option CtxId) (cl : Option Nat) (m : Sampling) (f : Bool) (w : List W64) :
    (wakeRec i k b c cl m f w s).fab = s.fab := by rw [wakeRec_eq]
@[simp] theorem wakeRec_stb (i k : Nat) (b : Bool) (c : Option CtxId) (cl : Option Nat) (m : Sampling) (f : Bool) (w : List W64) :
    (wakeRec i k b c cl m f w s).stb = s.stb := by rw [wakeRec_eq]
@[simp] theorem wakeRec_ports (i k : Nat) (b : Bool) (c : Option CtxId) (cl : Option Nat) (m : Sampling) (f : Bool) (w : List W64) :
    (wakeRec i k b c cl m f w s).ports = s.ports := by rw [wakeRec_eq]
@[simp] theorem wakeRec_erg (i k : Nat) (b : Bool) (c : Option CtxId) (cl : Option Nat) (m : Sampling) (f : Bool) (w : List W64) :
    (wakeRec i k b c cl m f w s).erg = s.erg := by rw [wakeRec_eq]
@[simp] theorem wakeRec_fresh (i k : Nat) (b : Bool) (c : Option CtxId) (cl : Option Nat) (m : Sampling) (f : Bool) (w : List W64) :
    (wakeRec i k b c cl m f w s).fresh = s.fresh := by rw [wakeRec_eq]
@[simp] theorem wakeRec_pending (i k : Nat) (b : Bool) (c : Option CtxId) (cl : Option Nat) (m : Sampling) (f : Bool) (w : List W64) :
    (wakeRec i k b c cl m f w s).pending = s.pending := by rw [wakeRec_eq]
@[simp] theorem wakeEv_build (i k : Nat) (b : Bool) (c : Option CtxId) (w : List W64) : (wakeEv i k b c w s).build = s.build := wakeRec_build ..
@[simp] theorem wakeEv_tkp (i k : Nat) (b : Bool) (c : Option CtxId) (w : List W64) : (wakeEv i k b c w s).tkp = s.tkp := wakeRec_tkp ..
@[simp] theorem wakeEv_rig (i k : Nat) (b : Bool) (c : Option CtxId) (w : List W64) : (wakeEv i k b c w s).rig = s.rig := wakeRec_rig ..
@[simp] theorem wakeEv_mar (i k : Nat) (b : Bool) (c : Option CtxId) (w : List W64) : (wakeEv i k b c w s).mar = s.mar := wakeRec_mar ..
@[simp] theorem wakeEv_cox (i k : Nat) (b : Bool) (c : Option CtxId) (w : List W64) : (wakeEv i k b c w s).cox = s.cox := wakeRec_cox ..
@[simp] theorem wakeEv_rack (i k : Nat) (b : Bool) (c : Option CtxId) (w : List W64) : (wakeEv i k b c w s).rack = s.rack := wakeRec_rack ..
@[simp] theorem wakeEv_mem (i k : Nat) (b : Bool) (c : Option CtxId) (w : List W64) : (wakeEv i k b c w s).mem = s.mem := wakeRec_mem ..
@[simp] theorem wakeEv_sld (i k : Nat) (b : Bool) (c : Option CtxId) (w : List W64) : (wakeEv i k b c w s).sld = s.sld := wakeRec_sld ..
@[simp] theorem wakeEv_heat (i k : Nat) (b : Bool) (c : Option CtxId) (w : List W64) : (wakeEv i k b c w s).heat = s.heat := wakeRec_heat ..
@[simp] theorem wakeEv_judge (i k : Nat) (b : Bool) (c : Option CtxId) (w : List W64) : (wakeEv i k b c w s).judge = s.judge := wakeRec_judge ..
@[simp] theorem wakeEv_stk (i k : Nat) (b : Bool) (c : Option CtxId) (w : List W64) : (wakeEv i k b c w s).stk = s.stk := wakeRec_stk ..
@[simp] theorem wakeEv_bhs (i k : Nat) (b : Bool) (c : Option CtxId) (w : List W64) : (wakeEv i k b c w s).bhs = s.bhs := wakeRec_bhs ..
@[simp] theorem wakeEv_fab (i k : Nat) (b : Bool) (c : Option CtxId) (w : List W64) : (wakeEv i k b c w s).fab = s.fab := wakeRec_fab ..
@[simp] theorem wakeEv_stb (i k : Nat) (b : Bool) (c : Option CtxId) (w : List W64) : (wakeEv i k b c w s).stb = s.stb := wakeRec_stb ..
@[simp] theorem wakeEv_ports (i k : Nat) (b : Bool) (c : Option CtxId) (w : List W64) : (wakeEv i k b c w s).ports = s.ports := wakeRec_ports ..
@[simp] theorem wakeEv_erg (i k : Nat) (b : Bool) (c : Option CtxId) (w : List W64) : (wakeEv i k b c w s).erg = s.erg := wakeRec_erg ..
@[simp] theorem wakeEv_fresh (i k : Nat) (b : Bool) (c : Option CtxId) (w : List W64) : (wakeEv i k b c w s).fresh = s.fresh := wakeRec_fresh ..
@[simp] theorem wakeEv_pending (i k : Nat) (b : Bool) (c : Option CtxId) (w : List W64) : (wakeEv i k b c w s).pending = s.pending := wakeRec_pending ..
@[simp] theorem wakeEv_prog (i k : Nat) (b : Bool) (c : Option CtxId) (w : List W64) (j : Nat) :
    (wakeEv i k b c w s).prog? j = s.prog? j := by unfold State.prog? State.seat; rw [wakeEv_mar]
theorem wakeEv_frame (i k : Nat) (b : Bool) (c : Option CtxId) (w : List W64) (s : State) : wakeEv i k b c w s = { s with
    wake := (wakeEv i k b c w s).wake, ump := { s.ump with hang := (wakeEv i k b c w s).ump.hang } } := wakeRec_eq ..

/-! ### Requests: one more request on a port, and its hang event -/

/-- The request that `issueNm` adds. -/
def nmReq (write : Bool) (addr : Nat) (ctx : CtxId) (bytes : List Byte) (len oid : Nat) (why : MemWhy) (isl : Nat)
    (s : State) : MemReq :=
  ⟨leastFree (s.ports.nm.map (·.tag)) s.ports.nm.length 0, write, addr, ctx, bytes, len, oid, why, isl, s.now, false, false⟩
theorem issueNm_eq (w : Bool) (a : Nat) (c : CtxId) (b : List Byte) (n o : Nat) (y : MemWhy) (i : Nat) (s : State) :
    issueNm w a c b n o y i s = { s with
      ump := { s.ump with hang := (issueNm w a c b n o y i s).ump.hang },
      ports := { s.ports with nm := s.ports.nm ++ [nmReq w a c b n o y i s] } } := by
  unfold issueNm
  dsimp only
  rw [reqEv_eq]
  rfl
/-- The request that `issueAt` adds. -/
def atReq (op addr : Nat) (ctx : CtxId) (opnd cmp : W64) (why : AtWhy) (isl : Nat) (s : State) : AtReq :=
  ⟨leastFree (s.ports.at_.map (·.tag)) s.ports.at_.length 0, op, addr, ctx, opnd, cmp, why, isl, s.now, false, false⟩
theorem issueAt_eq (o a : Nat) (c : CtxId) (v m : W64) (y : AtWhy) (i : Nat) (s : State) :
    issueAt o a c v m y i s = { s with
      ump := { s.ump with hang := (issueAt o a c v m y i s).ump.hang },
      ports := { s.ports with at_ := s.ports.at_ ++ [atReq o a c v m y i s] } } := by
  unfold issueAt
  dsimp only
  rw [reqEv_eq]
  rfl
@[simp] theorem issueNm_build (w : Bool) (a : Nat) (c : CtxId) (b : List Byte) (n o : Nat) (y : MemWhy) (i : Nat) : (issueNm w a c b n o y i s).build = s.build := by rw [issueNm_eq]
@[simp] theorem issueNm_tkp (w : Bool) (a : Nat) (c : CtxId) (b : List Byte) (n o : Nat) (y : MemWhy) (i : Nat) : (issueNm w a c b n o y i s).tkp = s.tkp := by rw [issueNm_eq]
@[simp] theorem issueNm_rig (w : Bool) (a : Nat) (c : CtxId) (b : List Byte) (n o : Nat) (y : MemWhy) (i : Nat) : (issueNm w a c b n o y i s).rig = s.rig := by rw [issueNm_eq]
@[simp] theorem issueNm_mar (w : Bool) (a : Nat) (c : CtxId) (b : List Byte) (n o : Nat) (y : MemWhy) (i : Nat) : (issueNm w a c b n o y i s).mar = s.mar := by rw [issueNm_eq]
@[simp] theorem issueNm_cox (w : Bool) (a : Nat) (c : CtxId) (b : List Byte) (n o : Nat) (y : MemWhy) (i : Nat) : (issueNm w a c b n o y i s).cox = s.cox := by rw [issueNm_eq]
@[simp] theorem issueNm_rack (w : Bool) (a : Nat) (c : CtxId) (b : List Byte) (n o : Nat) (y : MemWhy) (i : Nat) : (issueNm w a c b n o y i s).rack = s.rack := by rw [issueNm_eq]
@[simp] theorem issueNm_mem (w : Bool) (a : Nat) (c : CtxId) (b : List Byte) (n o : Nat) (y : MemWhy) (i : Nat) : (issueNm w a c b n o y i s).mem = s.mem := by rw [issueNm_eq]
@[simp] theorem issueNm_sld (w : Bool) (a : Nat) (c : CtxId) (b : List Byte) (n o : Nat) (y : MemWhy) (i : Nat) : (issueNm w a c b n o y i s).sld = s.sld := by rw [issueNm_eq]
@[simp] theorem issueNm_heat (w : Bool) (a : Nat) (c : CtxId) (b : List Byte) (n o : Nat) (y : MemWhy) (i : Nat) : (issueNm w a c b n o y i s).heat = s.heat := by rw [issueNm_eq]
@[simp] theorem issueNm_judge (w : Bool) (a : Nat) (c : CtxId) (b : List Byte) (n o : Nat) (y : MemWhy) (i : Nat) : (issueNm w a c b n o y i s).judge = s.judge := by rw [issueNm_eq]
@[simp] theorem issueNm_stk (w : Bool) (a : Nat) (c : CtxId) (b : List Byte) (n o : Nat) (y : MemWhy) (i : Nat) : (issueNm w a c b n o y i s).stk = s.stk := by rw [issueNm_eq]
@[simp] theorem issueNm_bhs (w : Bool) (a : Nat) (c : CtxId) (b : List Byte) (n o : Nat) (y : MemWhy) (i : Nat) : (issueNm w a c b n o y i s).bhs = s.bhs := by rw [issueNm_eq]
@[simp] theorem issueNm_fab (w : Bool) (a : Nat) (c : CtxId) (b : List Byte) (n o : Nat) (y : MemWhy) (i : Nat) : (issueNm w a c b n o y i s).fab = s.fab := by rw [issueNm_eq]
@[simp] theorem issueNm_stb (w : Bool) (a : Nat) (c : CtxId) (b : List Byte) (n o : Nat) (y : MemWhy) (i : Nat) : (issueNm w a c b n o y i s).stb = s.stb := by rw [issueNm_eq]
@[simp] theorem issueNm_wake (w : Bool) (a : Nat) (c : CtxId) (b : List Byte) (n o : Nat) (y : MemWhy) (i : Nat) : (issueNm w a c b n o y i s).wake = s.wake := by rw [issueNm_eq]
@[simp] theorem issueNm_erg (w : Bool) (a : Nat) (c : CtxId) (b : List Byte) (n o : Nat) (y : MemWhy) (i : Nat) : (issueNm w a c b n o y i s).erg = s.erg := by rw [issueNm_eq]
@[simp] theorem issueNm_fresh (w : Bool) (a : Nat) (c : CtxId) (b : List Byte) (n o : Nat) (y : MemWhy) (i : Nat) : (issueNm w a c b n o y i s).fresh = s.fresh := by rw [issueNm_eq]
@[simp] theorem issueNm_pending (w : Bool) (a : Nat) (c : CtxId) (b : List Byte) (n o : Nat) (y : MemWhy) (i : Nat) : (issueNm w a c b n o y i s).pending = s.pending := by rw [issueNm_eq]
@[simp] theorem issueAt_build (o a : Nat) (c : CtxId) (v m : W64) (y : AtWhy) (i : Nat) : (issueAt o a c v m y i s).build = s.build := by rw [issueAt_eq]
@[simp] theorem issueAt_tkp (o a : Nat) (c : CtxId) (v m : W64) (y : AtWhy) (i : Nat) : (issueAt o a c v m y i s).tkp = s.tkp := by rw [issueAt_eq]
@[simp] theorem issueAt_rig (o a : Nat) (c : CtxId) (v m : W64) (y : AtWhy) (i : Nat) : (issueAt o a c v m y i s).rig = s.rig := by rw [issueAt_eq]
@[simp] theorem issueAt_mar (o a : Nat) (c : CtxId) (v m : W64) (y : AtWhy) (i : Nat) : (issueAt o a c v m y i s).mar = s.mar := by rw [issueAt_eq]
@[simp] theorem issueAt_cox (o a : Nat) (c : CtxId) (v m : W64) (y : AtWhy) (i : Nat) : (issueAt o a c v m y i s).cox = s.cox := by rw [issueAt_eq]
@[simp] theorem issueAt_rack (o a : Nat) (c : CtxId) (v m : W64) (y : AtWhy) (i : Nat) : (issueAt o a c v m y i s).rack = s.rack := by rw [issueAt_eq]
@[simp] theorem issueAt_mem (o a : Nat) (c : CtxId) (v m : W64) (y : AtWhy) (i : Nat) : (issueAt o a c v m y i s).mem = s.mem := by rw [issueAt_eq]
@[simp] theorem issueAt_sld (o a : Nat) (c : CtxId) (v m : W64) (y : AtWhy) (i : Nat) : (issueAt o a c v m y i s).sld = s.sld := by rw [issueAt_eq]
@[simp] theorem issueAt_heat (o a : Nat) (c : CtxId) (v m : W64) (y : AtWhy) (i : Nat) : (issueAt o a c v m y i s).heat = s.heat := by rw [issueAt_eq]
@[simp] theorem issueAt_judge (o a : Nat) (c : CtxId) (v m : W64) (y : AtWhy) (i : Nat) : (issueAt o a c v m y i s).judge = s.judge := by rw [issueAt_eq]
@[simp] theorem issueAt_stk (o a : Nat) (c : CtxId) (v m : W64) (y : AtWhy) (i : Nat) : (issueAt o a c v m y i s).stk = s.stk := by rw [issueAt_eq]
@[simp] theorem issueAt_bhs (o a : Nat) (c : CtxId) (v m : W64) (y : AtWhy) (i : Nat) : (issueAt o a c v m y i s).bhs = s.bhs := by rw [issueAt_eq]
@[simp] theorem issueAt_fab (o a : Nat) (c : CtxId) (v m : W64) (y : AtWhy) (i : Nat) : (issueAt o a c v m y i s).fab = s.fab := by rw [issueAt_eq]
@[simp] theorem issueAt_stb (o a : Nat) (c : CtxId) (v m : W64) (y : AtWhy) (i : Nat) : (issueAt o a c v m y i s).stb = s.stb := by rw [issueAt_eq]
@[simp] theorem issueAt_wake (o a : Nat) (c : CtxId) (v m : W64) (y : AtWhy) (i : Nat) : (issueAt o a c v m y i s).wake = s.wake := by rw [issueAt_eq]
@[simp] theorem issueAt_erg (o a : Nat) (c : CtxId) (v m : W64) (y : AtWhy) (i : Nat) : (issueAt o a c v m y i s).erg = s.erg := by rw [issueAt_eq]
@[simp] theorem issueAt_fresh (o a : Nat) (c : CtxId) (v m : W64) (y : AtWhy) (i : Nat) : (issueAt o a c v m y i s).fresh = s.fresh := by rw [issueAt_eq]
@[simp] theorem issueAt_pending (o a : Nat) (c : CtxId) (v m : W64) (y : AtWhy) (i : Nat) : (issueAt o a c v m y i s).pending = s.pending := by rw [issueAt_eq]
@[simp] theorem issueNm_ports (w : Bool) (a : Nat) (c : CtxId) (b : List Byte) (n o : Nat) (y : MemWhy) (i : Nat) :
    (issueNm w a c b n o y i s).ports = { s.ports with nm := s.ports.nm ++ [nmReq w a c b n o y i s] } := by rw [issueNm_eq]
@[simp] theorem issueAt_ports (o a : Nat) (c : CtxId) (v m : W64) (y : AtWhy) (i : Nat) :
    (issueAt o a c v m y i s).ports = { s.ports with at_ := s.ports.at_ ++ [atReq o a c v m y i s] } := by rw [issueAt_eq]

/-! ### Operations that leave the cores alone -/

theorem each_cox {α : Type} (l : List α) (f : State → α → State) (hf : ∀ t a, (f t a).cox = t.cox) (s : State) :
    (each l f s).cox = s.cox := by
  refine each_induct (σ := State) (P := fun t => t.cox = s.cox) l f s (fun t a h => ?_) rfl
  rw [hf, h]
@[simp] theorem issueHm_cox (w : Bool) (a : Nat) (b : List Byte) (n : Nat) (y : MemWhy) (i : Nat) :
    (issueHm w a b n y i s).cox = s.cox := by unfold issueHm; simp
@[simp] theorem startPlan_cox (w : PlanWho) (i o : Nat) (b : List (List MemWrite)) : (startPlan w i o b s).cox = s.cox := by
  unfold startPlan
  split
  · rfl
  · dsimp only
    split
    · rfl
    · refine (each_cox _ _ (fun t a => ?_) _).trans rfl
      unfold issueWrite
      split <;> simp
@[simp] theorem startFetch_cox (w : FetchWho) (i o : Nat) (b : Bool) (c : CtxId) (l : List Nat) :
    (startFetch w i o b c l s).cox = s.cox := by
  unfold startFetch
  split
  · rfl
  · refine (each_cox _ _ (fun t a => ?_) _).trans rfl
    split <;> simp
@[simp] theorem enterTree_cox (t : Nat) (m : LaunchMsg) : (enterTree t m s).cox = s.cox := by unfold enterTree; simp
@[simp] theorem pumpTree_cox (t n : Nat) : (pumpTree t n s).cox = s.cox := by
  induction n generalizing s with
  | zero => rfl
  | succ n ih =>
    unfold pumpTree
    split
    · rfl
    · split
      · rfl
      · rw [ih]; simp
@[simp] theorem sendTree_cox (t : Nat) (m : LaunchMsg) : (sendTree t m s).cox = s.cox := by
  unfold sendTree
  split <;> simp
@[simp] theorem startSave_cox (k : JobKind) (w : JobWho) (c : CtxId) (a h t : Nat) (cs : List Nat) (m : LaunchMsg) :
    (startSave k w c a h t cs m s).cox = s.cox := by
  unfold startSave
  simp only [sendTree_cox]
  split <;> simp
@[simp] theorem readBlocks_cox (j : SaveJob) : (readBlocks j s).cox = s.cox := by
  unfold readBlocks
  exact each_cox _ _ (fun t a => startFetch_cox ..) _
@[simp] theorem startRestore_cox (w : JobWho) (c : CtxId) (a : Nat) (n : Option Nat) (cs : List Nat) (m : LaunchMsg) :
    (startRestore w c a n cs m s).cox = s.cox := by
  unfold startRestore
  dsimp only
  split <;> simp

/-! ### Words -/

theorem prefetch_eq (k seat : Nat) (p : Prog) (s : State) : prefetch k seat p s = { s with
    ump := { s.ump with hang := (prefetch k seat p s).ump.hang }, ports := { s.ports with nm := (prefetch k seat p s).ports.nm } } := by
  unfold prefetch
  refine each_induct (σ := State) (P := fun t => t = { s with
    ump := { s.ump with hang := t.ump.hang }, ports := { s.ports with nm := t.ports.nm } }) _ _ s (fun t a h => ?_) rfl
  unfold askLine
  split
  · exact h
  · rw [issueNm_eq]
    rw [h]
@[simp] theorem prefetch_build (k i : Nat) (p : Prog) : (prefetch k i p s).build = s.build := by rw [prefetch_eq]
@[simp] theorem prefetch_tkp (k i : Nat) (p : Prog) : (prefetch k i p s).tkp = s.tkp := by rw [prefetch_eq]
@[simp] theorem prefetch_rig (k i : Nat) (p : Prog) : (prefetch k i p s).rig = s.rig := by rw [prefetch_eq]
@[simp] theorem prefetch_mar (k i : Nat) (p : Prog) : (prefetch k i p s).mar = s.mar := by rw [prefetch_eq]
@[simp] theorem prefetch_cox (k i : Nat) (p : Prog) : (prefetch k i p s).cox = s.cox := by rw [prefetch_eq]
@[simp] theorem prefetch_rack (k i : Nat) (p : Prog) : (prefetch k i p s).rack = s.rack := by rw [prefetch_eq]
@[simp] theorem prefetch_mem (k i : Nat) (p : Prog) : (prefetch k i p s).mem = s.mem := by rw [prefetch_eq]
@[simp] theorem prefetch_sld (k i : Nat) (p : Prog) : (prefetch k i p s).sld = s.sld := by rw [prefetch_eq]
@[simp] theorem prefetch_heat (k i : Nat) (p : Prog) : (prefetch k i p s).heat = s.heat := by rw [prefetch_eq]
@[simp] theorem prefetch_judge (k i : Nat) (p : Prog) : (prefetch k i p s).judge = s.judge := by rw [prefetch_eq]
@[simp] theorem prefetch_stk (k i : Nat) (p : Prog) : (prefetch k i p s).stk = s.stk := by rw [prefetch_eq]
@[simp] theorem prefetch_bhs (k i : Nat) (p : Prog) : (prefetch k i p s).bhs = s.bhs := by rw [prefetch_eq]
@[simp] theorem prefetch_fab (k i : Nat) (p : Prog) : (prefetch k i p s).fab = s.fab := by rw [prefetch_eq]
@[simp] theorem prefetch_stb (k i : Nat) (p : Prog) : (prefetch k i p s).stb = s.stb := by rw [prefetch_eq]
@[simp] theorem prefetch_wake (k i : Nat) (p : Prog) : (prefetch k i p s).wake = s.wake := by rw [prefetch_eq]
@[simp] theorem prefetch_erg (k i : Nat) (p : Prog) : (prefetch k i p s).erg = s.erg := by rw [prefetch_eq]
@[simp] theorem prefetch_fresh (k i : Nat) (p : Prog) : (prefetch k i p s).fresh = s.fresh := by rw [prefetch_eq]
@[simp] theorem prefetch_pending (k i : Nat) (p : Prog) : (prefetch k i p s).pending = s.pending := by rw [prefetch_eq]

theorem countWord_frame (k seat : Nat) (p q : Prog) (s : State) (hq : s.prog? seat = some q) :
    (countWord k seat p s).prog? seat = some q.counted ∧ WordFrame seat s (countWord k seat p s) ∧
    (countWord k seat p s).build = s.build ∧ ((countWord k seat p s).core k).st = (s.core k).st ∧
    (∀ j, (countWord k seat p s).ring j = s.ring j) := by
  have hp : (countWord k seat p s).mar = (updProg seat Prog.counted s).mar := by
    unfold countWord
    simp only [ergCount_mar, updCore_mar]
    unfold updProg updSeat
    simp only [prefetch_mar]
    rfl
  have hs : ∀ j, (countWord k seat p s).seat j = (updProg seat Prog.counted s).seat j := fun j => by unfold State.seat; rw [hp]
  have hg : (countWord k seat p s).prog? seat = some q.counted := by
    unfold State.prog?; rw [hs]; exact (updProg_prog seat _).trans (by rw [hq]; rfl)
  refine ⟨hg, ⟨?_, fun j hj => ?_, ?_, ?_, ?_, ?_, ?_, ?_, ?_, ?_, ?_, ?_, ?_, ?_, ?_, ?_⟩, ?_, ?_, fun j => ?_⟩
  · rw [hp]; rfl
  · rw [hs]; exact updSeat_seat_other _ hj
  · rw [hg, hs]; simp only [updProg, updSeat_seat_self]; rw [show (s.seat seat).prog = some q from hq]; rfl
  all_goals (try (unfold countWord; simp only [ergCount_ports, ergCount_ump, ergCount_rack, ergCount_mem, ergCount_sld, ergCount_heat,
    ergCount_judge, ergCount_stk, ergCount_bhs, ergCount_fab, ergCount_stb, ergCount_rig, ergCount_tkp, ergCount_build,
    updCore_ports, updCore_ump, updCore_rack, updCore_mem, updCore_sld, updCore_heat, updCore_judge, updCore_stk, updCore_bhs,
    updCore_fab, updCore_stb, updCore_rig, updCore_tkp, updCore_build, updProg_ports, updProg_ump, updProg_rack, updProg_mem,
    updProg_sld, updProg_heat, updProg_judge, updProg_stk, updProg_bhs, updProg_fab, updProg_stb, updProg_rig, updProg_tkp,
    updProg_build, prefetch_rack, prefetch_mem, prefetch_sld, prefetch_heat, prefetch_judge, prefetch_stk, prefetch_bhs,
    prefetch_fab, prefetch_stb, prefetch_rig, prefetch_tkp, prefetch_build]; done))
  · unfold countWord; simp only [ergCount_ports, updCore_ports, updProg_ports]; rw [prefetch_eq]; exact ⟨rfl, rfl, rfl⟩
  · unfold countWord; simp only [ergCount_ump, updCore_ump, updProg_ump]; rw [prefetch_eq]; exact ⟨rfl, rfl⟩
  · unfold countWord State.core; simp only [ergCount_cox, updCore, tab_get_upd, updProg_cox, prefetch_cox, if_true]
  · unfold State.ring; rw [hp]; rfl

/-- A word that issues is counted, and then means what its opcode says, unless it finds a full resource. -/
theorem runWord_issues {k op seat : Nat} {p : Prog} {w : CWord} (h : Issues s k op seat p w) (b : Bool) (go : WordMeaning) :
    runWord op b go k s = (let s' := go k seat p w (countWord k seat p s)
      if b && (s'.core k).st == .stall && ((s'.core k).stall == .order || (s'.core k).stall == .tree)
      then stallCore k (s'.core k).stall s else s') := by
  have hb : ¬ s.build.coxCores ≤ k := Nat.not_le.2 h.built
  have hl : ¬ p.len ≤ p.pc := Nat.not_le.2 h.inside
  simp [runWord, h.up, h.exec, hb, h.runs, h.notDue, hl, h.word, h.opcode, h.legal, h.free]
/-- A word that no full resource holds back means what its opcode says. -/
theorem runWord_free {k op seat : Nat} {p : Prog} {w : CWord} (h : Issues s k op seat p w) (go : WordMeaning) :
    runWord op false go k s = go k seat p w (countWord k seat p s) := by
  rw [runWord_issues h]
  simp
theorem Issues.prog {k op seat : Nat} {p : Prog} {w : CWord} (h : Issues s k op seat p w) : s.prog? seat = some p := by
  have := h.runs
  unfold running at this
  split at this
  · simp only [Option.map_eq_some_iff, Prod.mk.injEq] at this
    obtain ⟨q, hq, rfl, rfl⟩ := this
    exact hq
  · cases this
/-- As `runWord_issues`, for a meaning that does not stall its core. -/
theorem runWord_runs {k op seat : Nat} {p : Prog} {w : CWord} (h : Issues s k op seat p w) (b : Bool) (go : WordMeaning)
    (hr : ((go k seat p w (countWord k seat p s)).core k).st = .exec) :
    runWord op b go k s = go k seat p w (countWord k seat p s) := by
  rw [runWord_issues h]
  simp [hr]

/-- A word whose meaning holds nothing back for a full resource runs. -/
theorem runWord_of_notHeld {s : State} {k op seat : Nat} {p : Prog} {w : CWord} (h : Issues s k op seat p w) (b : Bool) (go : WordMeaning)
    (hn : NotHeld k (go k seat p w (countWord k seat p s))) : runWord op b go k s = go k seat p w (countWord k seat p s) := by
  rw [runWord_issues h]
  refine if_neg fun x => hn ?_
  simp only [Bool.and_eq_true, Bool.or_eq_true, beq_iff_eq] at x
  exact ⟨x.1.2, x.2⟩
/-- A word whose meaning leaves the cores alone runs. -/
theorem runWord_of_cox {s : State} {k op seat : Nat} {p : Prog} {w : CWord} (h : Issues s k op seat p w) (b : Bool) (go : WordMeaning)
    (hn : (go k seat p w (countWord k seat p s)).cox = (countWord k seat p s).cox) : runWord op b go k s = go k seat p w (countWord k seat p s) := by
  refine runWord_runs h b go ?_
  have := (countWord_frame k seat p p s h.prog).2.2.2.1
  unfold State.core at *
  rw [hn, this]; exact h.exec
/-- A word that hands its work to a unit stalls its core. -/
theorem runWord_of_stall {s : State} {k op seat : Nat} {p : Prog} {w : CWord} (h : Issues s k op seat p w) (b : Bool) (go : WordMeaning) (t : State) (y : Stall)
    (hy : y ≠ .order) (ht : y ≠ .tree)
    (hn : go k seat p w (countWord k seat p s) = stallCore k y t) : runWord op b go k s = stallCore k y t := by
  rw [runWord_issues h, hn]
  simp [stallCore, hy, ht]
/-- A change of the seat's program keeps the frame of a word. -/
theorem WordFrame.updProg {seat : Nat} {s t : State} (h : WordFrame seat s t) (f : Prog → Prog) : WordFrame seat s (Machine.updProg seat f t) := by
  obtain ⟨h1, h2, h3, h4, h5, h6, h7, h8, h9, h10, h11, h12, h13, h14, h15, h16⟩ := h
  refine ⟨?_, fun j hj => ?_, ?_, h4, h5, h6, h7, h8, h9, h10, h11, h12, h13, h14, h15, h16⟩
  · show { t.mar with seats := (Machine.updProg seat f t).mar.seats } = { s.mar with seats := (Machine.updProg seat f t).mar.seats }
    rw [h1]
  · rw [← h2 j hj]; exact updSeat_seat_other _ hj
  · rw [updProg_prog]; simp only [Machine.updProg, updSeat_seat_self]; rw [h3]
/-- A trace record keeps the frame of a word. -/
theorem WordFrame.wakeEv {seat : Nat} {s t : State} (h : WordFrame seat s t) (i k : Nat) (b : Bool) (c : Option CtxId) (w : List W64) :
    WordFrame seat s (Machine.wakeEv i k b c w t) := by
  obtain ⟨h1, h2, h3, h4, h5, h6, h7, h8, h9, h10, h11, h12, h13, h14, h15, h16⟩ := h
  have e : (Machine.wakeEv i k b c w t).mar = t.mar := wakeEv_mar ..
  have u : (Machine.wakeEv i k b c w t).ump.rst = t.ump.rst ∧ (Machine.wakeEv i k b c w t).ump.log = t.ump.log := by
    rw [wakeEv_frame]; exact ⟨rfl, rfl⟩
  refine ⟨?_, fun j hj => ?_, ?_, ?_, ⟨u.1.trans h5.1, u.2.trans h5.2⟩, ?_, ?_, ?_, ?_, ?_, ?_, ?_, ?_, ?_, ?_, ?_⟩
  · rw [e]; exact h1
  · rw [← h2 j hj]; unfold State.seat; rw [e]
  · unfold State.prog? State.seat at *; rw [e]; exact h3
  all_goals simp only [wakeEv_ports, wakeEv_rack, wakeEv_mem, wakeEv_sld, wakeEv_heat, wakeEv_judge, wakeEv_stk, wakeEv_bhs,
    wakeEv_fab, wakeEv_stb, wakeEv_rig, wakeEv_tkp]
  all_goals assumption
/-- The program a word has been counted in. -/
theorem Issues.counted {s : State} {k op seat : Nat} {p : Prog} {w : CWord} (h : Issues s k op seat p w) :
    (countWord k seat p s).prog? seat = some p.counted := (countWord_frame k seat p p s h.prog).1
/-- Counting a word changes what the frame of a word allows. -/
theorem Issues.frame {s : State} {k op seat : Nat} {p : Prog} {w : CWord} (h : Issues s k op seat p w) :
    WordFrame seat s (countWord k seat p s) := (countWord_frame k seat p p s h.prog).2.1

theorem mem_of_insertByFront {α : Type} {lt : α → α → Bool} {a x : α} :
    ∀ {l : List α}, x ∈ sortBy.insertByFront lt a l → x = a ∨ x ∈ l
  | [], h => by simpa [sortBy.insertByFront] using h
  | b :: r, h => by
    simp only [sortBy.insertByFront] at h
    split at h
    · rcases List.mem_cons.1 h with h | h
      · exact .inr (by simp [h])
      · exact (mem_of_insertByFront h).imp id (by simp +contextual)
    · exact List.mem_cons.1 h
/-- What `sortBy` answers stood in what it was given. -/
theorem mem_of_sortBy {α : Type} {lt : α → α → Bool} {x : α} : ∀ {l : List α}, x ∈ sortBy lt l → x ∈ l
  | [], h => by simp [sortBy] at h
  | a :: r, h => by
    rcases mem_of_insertByFront (show x ∈ sortBy.insertByFront lt a (sortBy lt r) from h) with h | h
    · simp [h]
    · simp [mem_of_sortBy h]

end Sys2Proof.Machine
end

