-- ==== Sys2Proof/Tests/Slice0.lean ====
section
/-! SUPPORT. Tests: ill-formed commands that WellFormed refuses, witnesses that the hypotheses of each statement can be met
together, and single steps whose results the spec states. Expected values are read or worked out by hand from the spec. -/
namespace Sys2Proof.Tests
open Sys2Proof Sys2Proof.Machine
set_option Elab.async false

/-! ### Small states -/

/-- A small build with every optional unit. -/
def small : Build := { Build.largest with
  clusters := 2, coxCores := 2, seats := 8, rings := 256, crews := 2, trees := 1, relays := 0, watchLog2 := 10, objectLog2 := 16,
  kvPools := 1, partitions := 1, memStacks := 1, heatLoops := 1, heatLiveLog2 := 10, heatBatchLog2 := 6, judgeLanes := 32 }

/-- An applied image, por_n 1, at master time 1,000,000,000 tu (100 ms), all else as at reset. -/
def live : State := { State.reset with
  build := small, rig := { Rig.reset with st := .applied }, tkp := { Tkp.reset with now := 1000000000 } }

/-- The same with the block BLANK. -/
def fresh : State := { live with rig := Rig.reset }

/-- The same in another state of the compute reset. -/
def inSt (x : RstSt) (s : State) : State := updUmp (fun u => { u with rst := x }) s

/-- Context 0x11, of partition 0, in slot `i`. -/
def withCtx (i : Nat) (st : CtxSt) (s : State) : State :=
  updSlot i (fun x => { x with st := st, ctxId := 0x11, weight := 1 }) s

/-- An object of generation 0 and 64 bytes at 0x10000 in entry 1, with the given state and count. -/
def withObj (st : ObjSt) (refs : Nat) (s : State) : State :=
  updObj 1 (fun o => { o with st := st, refs := refs, base := 0x10000, size := 64, owner := 0x11, ownerRef := true }) s

/-- A ring 0 of 16 entries of context 0x11, in the given state, changed by `f`. -/
def withRing (st : RingSt) (f : Ring → Ring) (s : State) : State :=
  updRing 0 (fun g => f { g with st := st, ctx := 0x11, log2 := 4, base := 0x100000, cmpl := 0x200000, startSeq := 1 }) s

/-! ### Well-formedness -/

/-- Each check of WellFormed refuses a command that fails it. -/
theorem test_ill_formed_commands_are_refused :
    (∀ i ∈ [Instr.doorbell 256, .coreTakeSeat 2, .seatResume 8, .wNop 2, .piece 1 0, .piece 0 2, .chunkRequest 0 8,
        .rpResponse 0 16 [] false .ok, .pieceReport 2, .holdComplete 0 4, .nmResponse 1024 [] .ok, .atResponse 1024 0 .ok,
        .nmResponse 0 [0, 0, 0, 0, 0, 0, 0, 0, 0] .ok, .mwResponse 1024 true, .wdResponse 256 [] false .ok, .wkResponse 64 .ok,
        .contextFreed 1024, .pin 64, .selftestDone [540], .arrival 2 0 0 0, .entryTimeout 0 0 [(0, 0, [])]],
      i.wf small = false) ∧
    (∀ i ∈ [Instr.crossingSignal 0 [0, 0, 0, 0], .wdResponse 0 [] false .ok, .wkResponse 0 .ok], i.wf Build.smallest = false) ∧
    (∀ i ∈ [Instr.doorbell 255, .wNop 1, .piece 0 1, .chunkRequest 1 7, .holdComplete 1 3, .nmResponse 1023 [] .ok,
      .selftestDone [539], .crossingSignal 0 [0, 0, 0, 0]], i.wf small = true) := by
  decide +kernel

/-- No row of the table gives bits, so no word spells a command. -/
theorem test_no_word_spells_a_command : decodeTableWord 8 0 = none ∧ decodeTableWord 64 0xFFFF = none := by decide

/-! ### Witnesses: the step, the invariants, the window -/

theorem witness_EmptyQueuePassesOneClockCycle :
    (live.pending = [] ∧ live.ump.porN = true ∧ (updTkp (fun k => { k with cfg := 0 }) live).tkp.cfg = 0 ∧ live.tkp.frac = 0) ∧
    QuietCycle live ∧ (∃ s : State, s.pending = [] ∧ s.ump.porN = false) :=
  ⟨by decide +kernel, ⟨by decide +kernel, by decide +kernel, by decide +kernel, by decide +kernel,
    fun _ _ h => absurd h List.not_mem_nil⟩, updUmp (fun u => { u with porN := false }) live, by decide +kernel⟩

theorem witness_WellFormedCommandsNameBuiltUnits : ∃ (c : Instr) (s : State), c.wf s.build = true :=
  ⟨.chunkRequest 1 7, live, by decide +kernel⟩

theorem witness_CommandsKeepQueueAndBuild : ∃ (c : Instr) (s t : State), exec c s = .next t :=
  ⟨.porNAssert, live, _, rfl⟩

theorem witness_OnlyPorNLeavesDead : ∃ s t : State, s.ump.rst = .dead ∧ s.pending.head? ≠ some .porNAssert ∧ step s = .next t :=
  ⟨{ inSt .dead live with pending := [.timeLock] }, _, by decide +kernel, by decide +kernel, rfl⟩

theorem witness_MasterTimeNeverDecreases : ∃ s t : State, s.pending.head? ≠ some .porNAssert ∧ step s = .next t :=
  ⟨{ live with pending := [.timeLock] }, _, by decide +kernel, rfl⟩

theorem witness_LockHoldsUntilPorN :
    ∃ s t : State, s.rig.lock = true ∧ s.pending.head? ≠ some .porNAssert ∧ step s = .next t :=
  ⟨{ live with rig := { live.rig with lock := true }, pending := [.lock 0] }, _, by decide +kernel, by decide +kernel, rfl⟩

theorem witness_ContextIdsStayDistinct : ∃ s t : State, CtxIdsDistinct s ∧ (s.slot 3).st = .live ∧ step s = .next t := by
  refine ⟨{ withCtx 3 .live live with pending := [.timeLock] }, _, ⟨by decide +kernel, fun i j _ _ h1 h2 _ => ?_⟩, by decide +kernel, rfl⟩
  have free : ∀ n, n ≠ 3 → (State.slot { withCtx 3 .live live with pending := [.timeLock] } n).st = .free := by
    intro n h
    show (lookupCell Slot.reset n [(3, _)]).st = CtxSt.free
    simp only [lookupCell, h]; rfl
  by_cases a : i = 3
  · by_cases b : j = 3
    · rw [a, b]
    · exact absurd (free j b) h2
  · exact absurd (free i a) h1

theorem witness_PortTagsStayDistinct : ∃ s t : State, PortTagsDistinct s ∧ s.ports.at_ ≠ [] ∧ step s = .next t :=
  ⟨{ issueAt 2 0x1000 0x11 7 0 (.hostSignal 7) 524 live with pending := [.timeLock] }, _, by unfold PortTagsDistinct; decide +kernel,
    by decide +kernel, rfl⟩

theorem witness_ErrorRecordsKeepTheirBounds :
    ∃ s t : State, HangRingsBounded s ∧ LastLogSlotReserved s ∧ step s = .next t :=
  ⟨{ live with pending := [.timeLock] }, _, fun _ => Nat.zero_le _, by unfold LastLogSlotReserved; decide +kernel, rfl⟩

theorem witness_PorNResetsAndSelfTestReports :
    (∃ s : State, s.ump.porN = false) ∧
    (∃ s : State, s.ump.porN = true ∧ s.rig.testDone = false ∧ s.ump.rst = .run ∧ resetsOwed s = false) ∧
    (∃ s : State, s.ump.porN = false ∧ abandoning (s.ring (ringSel s)) = false ∧ (s.map (sldSlot s)).busy = 0) :=
  ⟨⟨updUmp (fun u => { u with porN := false }) live, by decide +kernel⟩, ⟨live, by decide +kernel⟩,
    updUmp (fun u => { u with porN := false }) live, by decide +kernel⟩

theorem witness_RegisterAccessesReachOneRegister :
    (∃ (wide : Bool) (addr : BitVec 25) (s : State), busyReg s (regOfAddr s (winAddr wide addr)) = none) ∧
    (∃ (addr : BitVec 25) (s : State), addr.toNat / 4 * 4 = 0x1F000 ∧ s.ump.porN = true) ∧
    (∃ s : State, s.ump.porN = true) ∧ (∃ s : State, s.ump.porN = false ∧ busyReg s (regOfAddr s (winAddr true 0x1F008)) = none) :=
  ⟨⟨true, 0x1F000, live, by decide +kernel⟩, ⟨0x1F003, live, by decide +kernel⟩, ⟨live, by decide +kernel⟩,
    updUmp (fun u => { u with porN := false }) live, by decide +kernel⟩

/-! ### Witnesses: contexts, objects and host signals -/

theorem witness_ContextCommandsFollowTheStateTable :
    createOk (updSlot 0 (fun x => { x with desc := 0x11 }) live) = true ∧
    (∀ st, st ∈ [CtxSt.live, .stopped, .failed] → (withCtx 0 st live).ump.porN = true ∧ blank (withCtx 0 st live) = false ∧
      ((withCtx 0 st live).slot (ctxSlot (withCtx 0 st live))).st = st ∧
      ((withCtx 0 st live).slot (ctxSlot (withCtx 0 st live))).ringsBound = 0) ∧
    (∃ i : Nat, i < 1024 ∧ ((withCtx 1023 .draining live).slot i).st = .draining ∧
      inflight (withCtx 1023 .draining live) ((withCtx 1023 .draining live).slot i).ctxId = 0) :=
  ⟨by decide +kernel, by decide +kernel, 1023, by decide +kernel⟩

theorem witness_RefusedContextCommandsSetCmdErrOnly :
    (withCtx 0 .live live).ump.porN = true ∧ createOk (withCtx 0 .live live) = false ∧ fresh.ump.porN = true ∧ blank fresh = true ∧ (live.slot (ctxSlot live)).st = .free ∧
    ((withCtx 0 .draining live).slot (ctxSlot (withCtx 0 .draining live))).st = .draining ∧
    ((updSlot 0 (fun x => { x with ringsBound := 1 }) (withCtx 0 .failed live)).slot 0).ringsBound ≠ 0 := by
  decide +kernel

theorem witness_ObjectCommandsActWhenTheirChecksPass :
    (∃ (h : W32) (s : State), s.ump.porN = true ∧ blank s = false ∧ objStale s h = false ∧ (objOf s h).st = .live ∧
      (objOf s h).refs + 1 = 0xFFFFFFFF) ∧
    (∃ (h : W32) (s : State), s.ump.porN = true ∧ blank s = false ∧ objStale s h = false ∧ (objOf s h).st = .freeing ∧ (objOf s h).refs = 1) ∧
    (∃ (h : W32) (s : State), s.ump.porN = true ∧ blank s = false ∧ objStale s h = false ∧ (objOf s h).st ≠ .forced ∧
      (objOf s h).refs + 1 ≤ 0xFFFFFFFF ∧ (objOf s h).refs = 2) ∧
    (∃ (s : State) (i : Nat), s.ump.porN = true ∧ blank s = false ∧ registerArgsOk s = true ∧ freeIndex s = some i) := by
  refine ⟨⟨1, withObj .live 0xFFFFFFFE live, by decide +kernel⟩, ⟨1, withObj .freeing 1 live, by decide +kernel⟩,
    ⟨1, withObj .live 2 live, by decide +kernel⟩, updRack (fun k => { k with arg0 := 0x1000, arg1 := 0x0011000000000040#64 }) (withCtx 0 .live live), ?_⟩
  refine Exists.imp (fun _ h => ⟨by decide +kernel, by decide +kernel, by decide +kernel, h⟩) ?_
  exact ⟨_, rfl⟩

theorem witness_ObjectCommandsReportTheFirstFailingCheck :
    (∃ (h : W32) (s : State), s.ump.porN = true ∧ blank s = false ∧ objStale s h = true) ∧
    (∃ (h : W32) (s : State), s.ump.porN = true ∧ blank s = false ∧ objStale s h = false ∧ (objOf s h).st = .forced) ∧
    (∃ (h : W32) (s : State), s.ump.porN = true ∧ blank s = false ∧ objStale s h = false ∧ (objOf s h).st ≠ .forced ∧
      0xFFFFFFFF < (objOf s h).refs + 1) ∧
    (∃ (h : W32) (s : State), s.ump.porN = true ∧ blank s = false ∧ objStale s h = false ∧ (objOf s h).refs = 0) :=
  ⟨⟨0x00100001, withObj .live 1 live, by decide +kernel⟩, ⟨1, withObj .forced 1 live, by decide +kernel⟩,
    ⟨1, withObj .live 0xFFFFFFFF live, by decide +kernel⟩, 1, withObj .live 0 live, by decide +kernel⟩

theorem witness_HostSignalsReachTheFence :
    (∃ (cls : BitVec 7) (s : State), s.ports.hsigBusy = false ∧ s.ump.porN = true ∧ blank s = false ∧ computeUp s = true ∧ hsigAddrOf s % 8 = 0 ∧
      1 ≤ cls.toNat ∧ cls.toNat = 3) ∧
    (∃ (cls : BitVec 7) (s : State), s.ports.hsigBusy = false ∧ s.ump.porN = true ∧ blank s = false ∧ computeUp s = true ∧ hsigAddrOf s % 8 ≠ 0 ∧
      cls.toNat = 4) :=
  ⟨⟨3, live, by decide +kernel⟩, 4, updPorts (fun p => { p with hsigAddr := 0x1004 }) live, by decide +kernel⟩

/-! ### Witnesses: rings -/

/-- The words of an entry of context 0x11: a program of 4 words at 0x4000, sequence 1, the fence word at 0x5000 for the value 9,
and a timeout of 64 µs. -/
def ent : List W64 := [0x0000001100000001#64, 0x4000, 4, 1, 0x5000, 9, 0x0001000000000000#64, 0]
/-- That entry, of ring 0 and count 5, in its completion window and begun at seat 0. -/
def job : Work := mkWork 0 0 Ring.reset ⟨5, ent, none, false⟩ 0 false
/-- Its program as it starts. -/
def prg : Prog := startProg (.entry 0 5) 0x11 ent 0 0 0 0
/-- Its program, changed by `f`, in seat 0 of ring 0, the seat in state `st`. -/
def withProg (st : SeatSt) (f : Prog → Prog) (s : State) : State :=
  updSeat 0 (fun x => { x with st := st, ring := some 0, prog := some (f prg) })
    (updMar (fun m => { m with works := [job] }) (withRing .seated (fun g => { g with seat := some 0, head := 5, begun := 6 })
      (withCtx 0 .live s)))

theorem witness_DoorbellsMakeMarshalLook :
    (∃ r : Nat, live.ump.porN = true ∧ r < live.build.rings ∧ r = 255) ∧
    (∃ (r t0 t : Nat) (s : State), r < s.build.rings ∧ (s.ring r).storm = false ∧ (s.ring r).knockRun = some t0 ∧
      (s.ring r).lastDoorbell = some t ∧ 50 * msTu < s.now - t0 ∧ s.now - t < 2 * usTu) ∧
    (∃ (r : Nat) (s : State), (s.ring r).storm = true ∧ (s.ring r).st ≠ .unbound ∧ 2 * usTu ≤ s.now - (s.ring r).lastLook) ∧
    (∃ (r t : Nat) (s : State), (s.ring r).storm = true ∧ (s.ring r).lastDoorbell = some t ∧ 50 * msTu ≤ s.now - t) :=
  ⟨⟨255, by decide +kernel⟩,
    ⟨0, 799999999, 999992001, withRing .idle (fun g => { g with knockRun := some 799999999, lastDoorbell := some 999992001 }) live,
      by decide +kernel⟩,
    ⟨0, withRing .idle (fun g => { g with storm := true, lastLook := 999992000 }) live, by decide +kernel⟩,
    0, 800000000, withRing .idle (fun g => { g with storm := true, lastDoorbell := some 800000000 }) live, by decide +kernel⟩

/-- An entry read for ring 0 at count `c`, with OWN set and a wrong check code. -/
def rawAt (c : Count) : Raw := ⟨c, .ok, ent, false, 0⟩

theorem witness_EntriesAreFetchedTakenAndForgotten :
    (∃ (r : Nat) (since : Count) (s : State), s.ump.porN = true ∧ blank s = false ∧ r < s.build.rings ∧ (s.ring r).st ≠ .unbound ∧
      cntLt since (s.ring r).begun = false ∧ since = (s.ring r).begun ∧ (s.ring r).level = 0) ∧
    (∃ (r : Nat) (since : Count) (s : State), s.ump.porN = true ∧ blank s = false ∧ r < s.build.rings ∧ (s.ring r).st ≠ .unbound ∧
      cntLt since (s.ring r).begun = true ∧ since + 1 = (s.ring r).begun) ∧
    (∃ (r : Nat) (s : State), s.ump.porN = true ∧ blank s = false ∧ r < s.build.rings ∧ (s.ring r).st = .unbound) ∧
    (∃ (r : Nat) (w : Raw) (s : State), nextRaw (s.ring r) = some w) ∧
    (∃ (r : Nat) (w : Raw) (s : State), (s.ring r).raws = [w] ∧ w.second = false ∧ w.err = .ok ∧ enOwn w.words = true ∧
      enCheck w.words ≠ entryCrc w.words ∧ 2 * usTu ≤ s.now - w.at_) :=
  ⟨⟨0, 5, withRing .idle (fun g => { g with begun := 5 }) live, by decide +kernel⟩,
    ⟨0, 4, withRing .idle (fun g => { g with begun := 5 }) live, by decide +kernel⟩,
    ⟨255, live, by decide +kernel⟩,
    ⟨0, rawAt 0, withRing .idle (fun g => { g with raws := [rawAt 0] }) live, by decide +kernel⟩,
    0, rawAt 0, withRing .idle (fun g => { g with raws := [rawAt 0] }) live, by decide +kernel⟩

theorem witness_RingCommandsTakeEffect :
    (∃ s : State, s.ump.porN = true ∧ abandoning (s.ring (ringSel s)) = false ∧ bindOk s = true) ∧
    (∃ (i : Nat) (s : State), s.ump.porN = true ∧ abandoning (s.ring (ringSel s)) = false ∧ pinOk s i = true ∧ (s.seat i).ring = none ∧
      (s.ring (ringSel s)).seat = none) ∧
    (∃ s : State, s.ump.porN = true ∧ abandoning (s.ring (ringSel s)) = false ∧ ringCmdOk s = true ∧ (s.ring (ringSel s)).st ≠ .unbound ∧
      (s.ring (ringSel s)).pin.isSome = true) ∧
    (∃ s : State, s.ump.porN = true ∧ abandoning (s.ring (ringSel s)) = false ∧ ringCmdOk s = true ∧ (s.ring (ringSel s)).st ≠ .unbound ∧
      (s.ring (ringSel s)).begun = (s.ring (ringSel s)).head ∧ ringRunning s (s.ring (ringSel s)) = false ∧
      (s.ring (ringSel s)).seat = none) ∧
    (∃ s : State, s.ump.porN = true ∧ ringCmdOk s = true ∧ (s.ring (ringSel s)).st = .stopped ∧ (s.ring (ringSel s)).mode = .normal ∧
      (s.ring (ringSel s)).reason = 7) ∧
    (∃ s : State, abandoning (s.ring (ringSel s)) = true) :=
  ⟨⟨updRing 0 (fun g => { g with regCfg := 0x00040011, regStartSeq := 1 }) (withCtx 0 .live live), by decide +kernel⟩,
    ⟨7, withRing .idle id live, by decide +kernel⟩,
    ⟨withRing .idle (fun g => { g with pin := some 7 }) live, by decide +kernel⟩,
    ⟨withRing .idle id live, by decide +kernel⟩, ⟨withRing .stopped (fun g => { g with reason := 7 }) live, by decide +kernel⟩,
    withRing .stopped (fun g => { g with mode := .abandon 16 }) live, by decide +kernel⟩

theorem witness_RingCommandsTakeEffect_rest :
    (∀ n ∈ [8, 9, 10], ∃ s : State, s.ump.porN = true ∧ ringCmdOk s = true ∧ (s.ring (ringSel s)).st = .stopped ∧
      (s.ring (ringSel s)).mode = .normal ∧ (s.ring (ringSel s)).reason = n) ∧
    (∃ s : State, s.ump.porN = true ∧ abandoning (s.ring (ringSel s)) = false ∧ bindOk s = false ∧ pinOk s 0 = false ∧
      (s.ring (ringSel s)).st = .unbound) :=
  ⟨fun n _ => ⟨withRing .stopped (fun g => { g with reason := n }) live, rfl, rfl, rfl, rfl, rfl⟩, live, by decide +kernel⟩

/-- The entry waits, since before its timeout began, for its own completion fence at 0x5000 to reach the value 9. -/
def selfWait : State :=
  updStb (fun b => { b with waiters := b.waiters.set 0 { Waiter.reset with st := .watched, addr := 0x5000, ctx := 0x11, value := 9 } })
    (updMar (fun m => { m with works := [{ job with timer := some 0 }] })
      (withProg .wait (fun p => { p with park := .waitf 0 false 0x5000 }) live))

theorem witness_RingTimersExpire :
    (∃ (r : Nat) (s : State), (s.ring r).irqDue = true ∧ (s.ring r).irqLast.getD 0 + (s.ring r).irqHoldoff * usTu = s.now) ∧
    (∃ (w : Work) (t : Nat), (updWork (.entry 0 5) (fun w => { w with timer := some 0 }) (withProg .run id live)).work? (.entry 0 5)
        = some w ∧ w.timer = some 0 ∧ entryTimeoutTu w = some t ∧ w.done = false ∧ 0 + t ≤ live.now ∧
      (shortCycles (withProg .run id live) (graphNodes (withProg .run id live) []) ⟨0, 5, w.words, some w⟩).bind
        (latestWait (withProg .run id live)) = none) ∧
    (∃ (w : Work) (t : Nat), selfWait.work? (.entry 0 5) = some w ∧ w.timer = some 0 ∧
      entryTimeoutTu w = some t ∧ w.done = false ∧ 0 + t ≤ selfWait.now ∧ selfWait.ump.rst ≠ .dead ∧
      ((shortCycles selfWait (graphNodes selfWait []) ⟨0, 5, w.words, some w⟩).bind (latestWait selfWait)).isSome = true) :=
  ⟨⟨0, withRing .idle (fun g => { g with irqDue := true, irqLast := some 999996000, irqHoldoff := 1 }) live, by decide +kernel⟩,
    ⟨{ job with timer := some 0 }, 256000, by decide +kernel⟩, { job with timer := some 0 }, 256000, by decide +kernel⟩

theorem witness_CoresTakeYieldAndResumeSeats :
    (∃ (k seat : Nat) (s : State), computeUp s = true ∧ k < s.build.coxCores ∧ (s.core k).st = .idle ∧ (s.core k).seats = [] ∧
      best (readyBefore s) (readySeats s) = some seat) ∧
    (∃ (k seat next : Nat) (rest : List Nat) (p : Prog) (s : State), computeUp s = true ∧ k < s.build.coxCores ∧
      (s.core k).st = .exec ∧ (s.core k).seats = seat :: next :: rest ∧ s.prog? seat = some p ∧ sliceLen s ≤ p.sliceWords ∧
      next ≠ seat) ∧
    (∃ (seat k : Nat) (p : Prog) (s : State), s.prog? seat = some p ∧ computeUp s = true ∧ p.released = true ∧
      (s.seat seat).st = .wait ∧
      best (fun a b => (s.core a).seats.length < (s.core b).seats.length) (List.range s.build.coxCores) = some k) :=
  ⟨⟨1, 7, updSeat 7 (fun x => { x with st := .ready }) live, by decide +kernel⟩,
    ⟨0, 0, 1, [], { prg with sliceWords := 4096 }, updCore 0 (fun c => { c with st := .exec, seats := [0, 1] })
      (withProg .run (fun p => { p with sliceWords := 4096 }) live), by decide +kernel⟩,
    0, 0, { prg with released := true }, withProg .wait (fun p => { p with released := true }) live, by decide +kernel⟩

/-! ### Witnesses: control words -/

/-- The program of `withProg`, changed by `f`, runs on core 0 with the control word `l` (four words) at its pc. -/
def onWord (f : Prog → Prog) (l : List W64) (s : State) : State :=
  updCore 0 (fun c => { c with st := .exec, seats := [0], buf := [⟨0x11, 0x4000, .ok, l⟩] }) (withProg .run f s)

/-- The parts of `Issues` as one conjunction, which can be decided. -/
theorem issues_of {s : State} {k op seat : Nat} {p : Prog} {w : CWord}
    (h : computeUp s = true ∧ (s.core k).st = .exec ∧ k < s.build.coxCores ∧ running s k = some (seat, p) ∧ sliceDue s k p = false ∧ p.pc < p.len ∧
      wordAtPc s k p = some (.ok, w) ∧ w.op = op ∧ wordLegal s.build w = true ∧ mustStall s seat p w = false) :
    Issues s k op seat p w :=
  ⟨h.1, h.2.1, h.2.2.1, h.2.2.2.1, h.2.2.2.2.1, h.2.2.2.2.2.1, h.2.2.2.2.2.2.1, h.2.2.2.2.2.2.2.1, h.2.2.2.2.2.2.2.2.1, h.2.2.2.2.2.2.2.2.2⟩

/-- A computation that answers, with a property of its answer that can be decided. -/
theorem ok_of {ε α : Type} {x : Except ε α} {f : α → Bool} (h : (match x with | .ok a => f a | .error _ => false) = true) :
    ∃ a, x = .ok a ∧ f a = true := by
  cases x with
  | error e => exact absurd h (by simp)
  | ok a => exact ⟨a, rfl, h⟩

/-- An optional value that is there, with a property that can be decided. -/
theorem some_of {α : Type} {x : Option α} {f : α → Bool} (h : x.any f = true) : ∃ a, x = some a ∧ f a = true := by
  cases x with
  | none => exact absurd h (by simp)
  | some a => exact ⟨a, rfl, h⟩

/-- A computation that fails with `e`. -/
theorem error_of {ε α : Type} [DecidableEq ε] {x : Except ε α} {e : ε}
    (h : (match x with | .ok _ => false | .error d => decide (d = e)) = true) : x = .error e := by
  cases x with
  | error d => exact congrArg _ (of_decide_eq_true h)
  | ok a => exact absurd h (by simp)

/-- Core 0 issues the word `l` in a state `onWord f l s`. -/
abbrev IssuesOn (op : Nat) (f : Prog → Prog) (l : List W64) (s : State) : Prop :=
  Issues (onWord f l s) 0 op 0 (f prg) (cword l)
/-- That state with the word counted. -/
abbrev counted (f : Prog → Prog) (l : List W64) (s : State) : State := countWord 0 0 (f prg) (onWord f l s)
/-- The value operand of the word `l`. -/
abbrev vOf (f : Prog → Prog) (l : List W64) : Nat := (operandV (f prg).regs (cword l)).toNat
/-- The address operand of the word `l`. -/
abbrev aOf (f : Prog → Prog) (l : List W64) : Nat := operandA (f prg).regs (cword l)
/-- A program of heat slot 0 of loop 0. -/
def byHeat (p : Prog) : Prog := { p with owner := .heat 0 0 }
/-- A called course. -/
def called (p : Prog) : Prog := { p with frames := [⟨1, 0x8000, 8, 0, 0, 0, 0, 0⟩] }

theorem witness_FlowWordsSetThePc :
    IssuesOn 0x00 id [0x00, 0, 0, 0] live ∧
    (IssuesOn 0x02 id [0x02, 3, 0, 0] live ∧ aOf id [0x02, 3, 0, 0] + 1 = prg.len) ∧
    (IssuesOn 0x03 id [0x03, 3, 0, 0] live ∧ fld (cword [0x03, 3, 0, 0]).w1 0 24 + 1 = prg.len) ∧
    (IssuesOn 0x04 id [0x504, 3, 0, 0] live ∧ fld (cword [0x504, 3, 0, 0]).w1 0 24 + 1 = prg.len) ∧
    (∃ fr : Frame, IssuesOn 0x06 called [0x06, 0, 0, 0] live ∧ (called prg).frames = [fr]) :=
  ⟨issues_of (by decide +kernel), ⟨issues_of (by decide +kernel), by decide +kernel⟩, ⟨issues_of (by decide +kernel), by decide +kernel⟩,
    ⟨issues_of (by decide +kernel), by decide +kernel⟩, _, issues_of (by decide +kernel), rfl⟩

theorem witness_ArithmeticWordsWriteOneRegister :
    (∀ l ∈ [[0x00000510#64, 0, 7, 0], [0x00100510, 0, 0, 0], [0x00200510, 0, 0, 0], [0x00300510, 0, 0, 0]],
      IssuesOn 0x10 id l live) ∧ IssuesOn 0x11 id [0x00711511, 0, 7, 0] live := by
  refine ⟨fun l h => issues_of ?_, issues_of (by decide +kernel)⟩
  revert l; decide +kernel

/-- A course of version 1 whose descriptor is object 1 and whose body is object 2. -/
def withCourse (s : State) : State :=
  updRack (fun k => { k with courses := k.courses.set 1 ⟨true, false, 2, 1, 4, 0⟩ })
    (updObj 2 (fun o => { o with st := .live, refs := 1, base := 0x20000, size := 128, owner := 0x11, ownerRef := true })
      (withObj .live 1 s))

theorem witness_ProgramsEndAndCall :
    (∃ (r : Nat) (c : Count), IssuesOn 0x01 id [0x01, 0, 0, 0] live ∧ prg.owner = .entry r c) ∧
    (∃ l h : Nat, IssuesOn 0x01 byHeat [0x01, 0, 0, 0] live ∧ (byHeat prg).owner = .heat l h ∧ (byHeat prg).regs.get 12 = 0) ∧
    (∃ l h : Nat, IssuesOn 0xA0 byHeat [0xA0, 0, 0, 0] live ∧ (byHeat prg).owner = .heat l h ∧ (byHeat prg).regs.get 12 = 0) ∧
    (IssuesOn 0x05 id [0x05, 1, 0, 0] (withCourse live) ∧ callDepth prg < 7) ∧
    (∃ r : Pin × State, resolveCourse prg.owner prg.ctx 1 0 (counted id [0x05, 1, 0, 0] (withCourse live)) = .ok r ∧
      (r.1.layout == 0) = true) :=
  ⟨⟨0, 5, issues_of (by decide +kernel), rfl⟩, ⟨0, 0, issues_of (by decide +kernel), rfl, by decide +kernel⟩,
    ⟨0, 0, issues_of (by decide +kernel), rfl, by decide +kernel⟩,
    ⟨issues_of (by decide +kernel), by decide +kernel⟩, ok_of (by decide +kernel)⟩

/-- A heat's program whose c12 is `v`. -/
def heatC12 (v : W64) (p : Prog) : Prog := { byHeat p with regs := p.regs.set 12 v }
/-- A program seven calls deep. -/
def deep (p : Prog) : Prog := { p with frames := List.replicate 7 ⟨1, 0x8000, 8, 0, 0, 0, 0, 0⟩ }

theorem witness_ProgramsEndAndCall_rest :
    (∃ (r : Nat) (c : Count), IssuesOn 0x06 id [0x06, 0, 0, 0] live ∧ prg.frames = [] ∧ prg.owner = .entry r c) ∧
    (∃ l h : Nat, IssuesOn 0x06 byHeat [0x06, 0, 0, 0] live ∧ (byHeat prg).frames = [] ∧ (byHeat prg).owner = .heat l h ∧
      (byHeat prg).regs.get 12 = 0) ∧
    (∀ op ∈ [0x01, 0xA0, 0x06], IssuesOn op (heatC12 1) [w64 op, 0, 0, 0] live ∧ (heatC12 1 prg).owner = .heat 0 0 ∧
      (heatC12 1 prg).regs.get 12 ≠ 0 ∧ (heatC12 1 prg).frames = []) ∧
    IssuesOn 0xA0 id [0xA0, 0, 0, 0] live ∧ (IssuesOn 0x05 deep [0x05, 1, 0, 0] live ∧ callDepth (deep prg) = 7) := by
  refine ⟨⟨0, 5, issues_of (by decide +kernel), rfl, rfl⟩, ⟨0, 0, issues_of (by decide +kernel), rfl, rfl, by decide +kernel⟩,
    fun op h => ⟨issues_of ?_, rfl, by decide +kernel, rfl⟩, issues_of (by decide +kernel), issues_of (by decide +kernel), by decide +kernel⟩
  revert op; decide +kernel

theorem witness_MemoryWordsSendOneRequest :
    (IssuesOn 0x12 id [0x00300512, 0xFFFFFFFFFFFFFF, 0, 0] live ∧
      aOf id [0x00300512, 0xFFFFFFFFFFFFFF, 0, 0] % memSize 3 = 0 ∧
      poisonedAt (counted id [0x00300512, 0xFFFFFFFFFFFFFF, 0, 0] live) 0xFFFFFFFFFFFFFF 1 = false) ∧
    (IssuesOn 0x13 id [0x13, 0x6000, 7, 0] live ∧ aOf id [0x13, 0x6000, 7, 0] % memSize 0 = 0) ∧
    (IssuesOn 0x14 id [0x00300514, 0x6000, 7, 5] live ∧ aOf id [0x00300514, 0x6000, 7, 5] % 8 = 0 ∧
      poisonedAt (counted id [0x00300514, 0x6000, 7, 5] live) 0x6000 8 = false) ∧
    (∃ ctx, actCtx (counted id [0x13, 0x6000, 7, 0] live) prg (cword [0x13, 0x6000, 7, 0]) = .ok ctx) ∧
    (counted id [0x13, 0x6000, 7, 0] live).ports.nm.length < portTags ∧ (counted id [0x13, 0x6000, 7, 0] live).ports.at_.length < portTags :=
  ⟨⟨issues_of (by decide +kernel), by decide +kernel⟩, ⟨issues_of (by decide +kernel), by decide +kernel⟩,
    ⟨issues_of (by decide +kernel), by decide +kernel⟩, ⟨_, rfl⟩, by decide +kernel⟩

/-- Both memory ports hold as many requests as they have tags. -/
@[irreducible] def noTags (s : State) : State := updPorts (fun p => { p with
  nm := List.replicate portTags ⟨0, false, 0x6000, 0x11, [], 8, 0, .objEntry, islMar, 0, false, false⟩
  at_ := List.replicate portTags ⟨0, opMaxu, 0x5000, 0x11, 9, 0, .hostSignal 9, islStb, 0, false, false⟩ }) s

theorem witness_MemoryWordsSendOneRequest_held :
    IssuesOn 0x12 id [0x00000512, 0x6000, 0, 0] (noTags live) ∧ IssuesOn 0x13 id [0x13, 0x6000, 7, 0] (noTags live) ∧
    IssuesOn 0x14 id [0x00300514, 0x6000, 7, 5] (noTags live) ∧
    portTags ≤ (counted id [0x00000512, 0x6000, 0, 0] (noTags live)).ports.nm.length ∧
    portTags ≤ (counted id [0x13, 0x6000, 7, 0] (noTags live)).ports.nm.length ∧
    portTags ≤ (counted id [0x00300514, 0x6000, 7, 5] (noTags live)).ports.at_.length :=
  ⟨issues_of (by decide +kernel), issues_of (by decide +kernel), issues_of (by decide +kernel), by decide +kernel, by decide +kernel,
    by decide +kernel⟩

/-- The crossing link waits for its reset. -/
def linkHeld (s : State) : State := updStb (fun b => { b with link := .hold }) s

theorem witness_WaitAndSignalWordsAct :
    (IssuesOn 0x20 id [0x20, 0x5000, 0x7FFFFFFFFFFFFFFF, 0] live ∧ aOf id [0x20, 0x5000, 0x7FFFFFFFFFFFFFFF, 0] % 8 = 0 ∧
      bit (operandV prg.regs (cword [0x20, 0x5000, 0x7FFFFFFFFFFFFFFF, 0])) 63 = false ∧
      poisonedAt (counted id [0x20, 0x5000, 0x7FFFFFFFFFFFFFFF, 0] live) 0x5000 8 = false) ∧
    IssuesOn 0x21 id [0x21, 0x5000, 9, 0] live ∧
    (IssuesOn 0x22 id [0x22, 0x5000, 9, 0] live ∧ w16 0 = chipId (counted id [0x22, 0x5000, 9, 0] live)) ∧
    (IssuesOn 0x22 id [0x0001000000000022, 0x5000, 9, 0] (linkHeld live) ∧
      w16 1 ≠ chipId (counted id [0x0001000000000022, 0x5000, 9, 0] (linkHeld live)) ∧
      (counted id [0x0001000000000022, 0x5000, 9, 0] (linkHeld live)).stb.outs.length < 4096 ∧
      (counted id [0x0001000000000022, 0x5000, 9, 0] (linkHeld live)).stb.link ≠ .up) ∧
    (∃ ctx, actCtx (counted id [0x21, 0x5000, 9, 0] live) prg (cword [0x21, 0x5000, 9, 0]) = .ok ctx) ∧
    (IssuesOn 0x23 id [0x23, 0, 1000000000, 0] live ∧ vOf id [0x23, 0, 1000000000, 0] = (counted id [0x23, 0, 1000000000, 0] live).now) ∧
    (IssuesOn 0x23 id [0x10000023, 0, 1, 0] live ∧
      (counted id [0x10000023, 0, 1, 0] live).now <
        ((counted id [0x10000023, 0, 1, 0] live).now + vOf id [0x10000023, 0, 1, 0]) % 2 ^ 64) :=
  ⟨⟨issues_of (by decide +kernel), by decide +kernel⟩, issues_of (by decide +kernel),
    ⟨issues_of (by decide +kernel), by decide +kernel⟩, ⟨issues_of (by decide +kernel), by decide +kernel⟩, ⟨_, rfl⟩,
    ⟨issues_of (by decide +kernel), by decide +kernel⟩, issues_of (by decide +kernel), by decide +kernel⟩

theorem witness_WordsCheckTheirOperandsFirst :
    (IssuesOn 0x02 id [0x02, 4, 0, 0] live ∧ aOf id [0x02, 4, 0, 0] = prg.len) ∧
    (IssuesOn 0x03 id [0x03, 4, 0, 0] live ∧ fld (cword [0x03, 4, 0, 0]).w1 0 24 = prg.len) ∧
    (IssuesOn 0x04 id [0x504, 4, 0, 0] live ∧ fld (cword [0x504, 4, 0, 0]).w1 0 24 = prg.len) ∧
    (∀ l ∈ [[0x00000512#64, 0x6007, 0, 0], [0x00000013, 0x6007, 0, 0], [0x00000514, 0x6007, 0, 0]],
      (∃ ctx, actCtx (counted id l live) prg (cword l) = .ok ctx) ∧ aOf id l % 8 = 7 ∧
      NotHeld 0 (wordFailAt 0 0 prg 1 eBadOperand (aOf id l) (counted id l live))) ∧
    IssuesOn 0x12 id [0x00000512, 0x6007, 0, 0] live ∧ IssuesOn 0x13 id [0x13, 0x6007, 0, 0] live ∧
    IssuesOn 0x14 id [0x00000514, 0x6007, 0, 0] live ∧
    (IssuesOn 0x13 id [0x0000002204000013, 0x6000, 0, 0] live ∧
      actCtx (counted id [0x0000002204000013, 0x6000, 0, 0] live) prg (cword [0x0000002204000013, 0x6000, 0, 0]) =
        .error (1, eBadOperand) ∧
      NotHeld 0 (wordFailAt 0 0 prg 1 eBadOperand 0x6000 (counted id [0x0000002204000013, 0x6000, 0, 0] live))) ∧
    (IssuesOn 0x20 id [0x20, 0x5001, 9, 0] live ∧ aOf id [0x20, 0x5001, 9, 0] % 8 ≠ 0) ∧
    (IssuesOn 0x21 id [0x21, 0x5000, 0x8000000000000000, 0] live ∧
      bit (operandV prg.regs (cword [0x21, 0x5000, 0x8000000000000000, 0])) 63 = true) ∧
    (IssuesOn 0x22 id [0x22, 0x5001, 9, 0] live ∧
      NotHeld 0 (wordFailAt 0 0 prg 1 eFenceValue 0x5001 (counted id [0x22, 0x5001, 9, 0] live))) := by
  refine ⟨⟨issues_of (by decide +kernel), by decide +kernel⟩, ⟨issues_of (by decide +kernel), by decide +kernel⟩,
    ⟨issues_of (by decide +kernel), by decide +kernel⟩, ?_, issues_of (by decide +kernel), issues_of (by decide +kernel),
    issues_of (by decide +kernel), ⟨issues_of (by decide +kernel), error_of (by decide +kernel), by unfold NotHeld; decide +kernel⟩,
    ⟨issues_of (by decide +kernel), by decide +kernel⟩, ⟨issues_of (by decide +kernel), by decide +kernel⟩,
    issues_of (by decide +kernel), by unfold NotHeld; decide +kernel⟩
  intro l h
  refine ⟨⟨0x11, ?_⟩, ?_, ?_⟩
  · simp only [List.mem_cons, List.not_mem_nil, or_false] at h
    rcases h with h | h | h <;> subst h <;> rfl
  · revert l; decide +kernel
  · unfold NotHeld; revert l; decide +kernel

theorem witness_ParkedWaitsEndByTime :
    (∃ (seat t : Nat) (p : Prog) (s : State), s.prog? seat = some p ∧ p.park = .waitt t ∧ p.released = false ∧
      (s.seat seat).st = .wait ∧ t = s.now ∧ computeUp s = true) ∧
    (∃ (seat t rd a : Nat) (p : Prog) (s : State), s.prog? seat = some p ∧ p.deadline = some t ∧ t = s.now ∧ p.released = false ∧
      computeUp s = true ∧ p.park = .waitf rd false a ∧ readOut s (s.stb.waiters.get seat) = false) ∧
    (∃ (seat t rd a : Nat) (p : Prog) (s : State), s.prog? seat = some p ∧ p.deadline = some t ∧ t = s.now ∧ p.released = false ∧
      computeUp s = true ∧ p.park = .waitf rd true a ∧ readOut s (s.stb.waiters.get seat) = true) ∧
    (∃ (seat t mask : Nat) (p : Prog) (s : State), s.prog? seat = some p ∧ p.deadline = some t ∧ t = s.now ∧ p.released = false ∧
      computeUp s = true ∧ p.park = .barrier mask true) :=
  ⟨⟨0, 1000000000, _, withProg .wait (fun p => { p with park := .waitt 1000000000 }) live, rfl, by decide +kernel⟩,
    ⟨0, 1000000000, 3, 0x5000, _, withProg .wait (fun p => { p with park := .waitf 3 false 0x5000, deadline := some 1000000000 }) live,
      rfl, by decide +kernel⟩,
    ⟨0, 1000000000, 3, 0x5000, _, updWaiter 0 (fun w => { w with st := .read, reads := 1 })
      (withProg .wait (fun p => { p with park := .waitf 3 true 0x5000, deadline := some 1000000000 }) live), rfl, by decide +kernel⟩,
    0, 1000000000, 15, _, withProg .wait (fun p => { p with park := .barrier 15 true, deadline := some 1000000000 }) live,
    rfl, by decide +kernel⟩

/-- A crew 0 of both clusters in the image in force. -/
def withCrew (s : State) : State :=
  updRig (fun r => { r with now := { r.now with crews := r.now.crews.set 0 ⟨true, false, 0, [0, 1]⟩ } }) s
/-- The owner's group 0 has 2^24 - 1 pieces out. -/
def groupsFull (s : State) : State := updWork (.entry 0 5) (fun w => { w with groups := [16777215, 0, 0, 0] }) s

theorem witness_LaunchWordsEnterTheTree :
    (∃ ctx, actCtx (counted id [0x30, 0x8000, 0x1000E01, 0] live) prg (cword [0x30, 0x8000, 0x1000E01, 0]) = .ok ctx) ∧
    (IssuesOn 0x30 id [0x30, 0x8000, 0x1000E01, 0] live ∧ vOf id [0x30, 0x8000, 0x1000E01, 0] < 2 ^ 25 ∧
      fld (operandV prg.regs (cword [0x30, 0x8000, 0x1000E01, 0])) 0 9 + 1 = small.clusters ∧
      fld (operandV prg.regs (cword [0x30, 0x8000, 0x1000E01, 0])) 9 3 + 1 = small.engines ∧
      fld (operandV prg.regs (cword [0x30, 0x8000, 0x1000E01, 0])) 12 13 = 4096 ∧ aOf id [0x30, 0x8000, 0x1000E01, 0] % 64 = 0 ∧
      groupFull (counted id [0x30, 0x8000, 0x1000E01, 0] live) prg.owner 0 1 = false ∧
      treeRefuses (counted id [0x30, 0x8000, 0x1000E01, 0] live) (seatTree (counted id [0x30, 0x8000, 0x1000E01, 0] live) 0) = false) ∧
    (∃ s : State, s.work? prg.owner = some { job with groups := [16777215, 0, 0, 0] } ∧ groupFull s prg.owner 0 1 = true) ∧
    (IssuesOn 0x31 id [0x31, 0x8000, 0x2001C0, 0x40] (withCrew live) ∧ vOf id [0x31, 0x8000, 0x2001C0, 0x40] < 2 ^ 22 ∧
      (crewFor (counted id [0x31, 0x8000, 0x2001C0, 0x40] (withCrew live)) false 0).defined = true ∧
      fld (operandV prg.regs (cword [0x31, 0x8000, 0x2001C0, 0x40])) 6 3 < small.engines ∧
      fld (operandV prg.regs (cword [0x31, 0x8000, 0x2001C0, 0x40])) 9 13 = 4096 ∧
      groupFull (counted id [0x31, 0x8000, 0x2001C0, 0x40] (withCrew live)) prg.owner 0 2 = false) ∧
    (IssuesOn 0x32 id [0x32, 0, 0x1F, 0] live ∧ vOf id [0x32, 0, 0x1F, 0] < 32 ∧
      barrierMet (counted id [0x32, 0, 0x1F, 0] live) 0 prg.owner 15 true = true) ∧
    (∃ s : State, barrierMet s 0 prg.owner 1 false = false) ∧
    (∃ (s : State) (w : CWord), computeUp s = true ∧ (s.core 0).st = .stall ∧ (s.core 0).stall = .tree ∧ running s 0 = some (0, prg) ∧
      wordAtPc s 0 prg = some (.ok, w) ∧ w.op = 0x30) :=
  ⟨⟨_, rfl⟩, ⟨issues_of (by decide +kernel), by decide +kernel⟩, ⟨groupsFull (withProg .run id live), by decide +kernel⟩,
    ⟨issues_of (by decide +kernel), by decide +kernel⟩, ⟨issues_of (by decide +kernel), by decide +kernel⟩,
    ⟨groupsFull (withProg .run id live), by decide +kernel⟩,
    updCore 0 (fun c => { c with st := .stall, stall := .tree }) (onWord id [0x30, 0x8000, 0x1000E01, 0] live), _,
    by decide +kernel, by decide +kernel, by decide +kernel, by decide +kernel, rfl, by decide +kernel⟩

/-- 4,096 records wait for their acknowledgement. -/
def outsFull (s : State) : State :=
  updStb (fun b => { b with outs := List.replicate 4096 ⟨1, 0, .entry 0 5, 0, 0x11, 0x5000, 9, ⟨1, 0⟩, true, 0, 0⟩ }) s

theorem witness_WaitAndSignalWordsAct_crossing :
    (IssuesOn 0x22 id [0x0001000000000022, 0x5000, 9, 0] live ∧
      w16 1 ≠ chipId (counted id [0x0001000000000022, 0x5000, 9, 0] live) ∧
      (counted id [0x0001000000000022, 0x5000, 9, 0] live).stb.link = .up) ∧
    (IssuesOn 0x22 id [0x0001000000000022, 0x5000, 9, 0] (outsFull live) ∧
      4096 ≤ (counted id [0x0001000000000022, 0x5000, 9, 0] (outsFull live)).stb.outs.length) :=
  ⟨⟨issues_of (by decide +kernel), by decide +kernel, by decide +kernel⟩, issues_of (by decide +kernel), by decide +kernel⟩

/-- No group has room for a piece. -/
def groupsAtMost (s : State) : State :=
  updWork (.entry 0 5) (fun w => { w with groups := [16777215, 16777215, 16777215, 16777215] }) s

theorem witness_LaunchWordsEnterTheTree_held : ∃ s : State, Issues s 0 0x31 0 prg (cword [0x31, 0x8000, 0x2001C0, 0x40]) ∧
    (crewFor (countWord 0 0 prg s) false 0).defined = true ∧ groupFull (countWord 0 0 prg s) prg.owner 0 2 = true :=
  ⟨groupsAtMost (onWord id [0x31, 0x8000, 0x2001C0, 0x40] (withCrew live)), issues_of (by decide +kernel), by decide +kernel,
    by decide +kernel⟩

/-- Context 0x11 in slot 0 has a map of one region, which is registered. -/
def withMap (s : State) : State :=
  updMap 0 (fun c => { c with registered := true, regions := [⟨0, false, 0, 0, 0, 0, 0, 4096⟩] }) s
/-- The first bytes of a save area's header for context 0x11 over cluster 0 and 1, in state 2. -/
def headBytes : List Byte := leBytes 0x00020011 64 ++ leBytes 3 64

theorem witness_SaveAndLoadWordsStartJobs :
    (∃ ctx, actCtx (counted id [0x40, 0x8000, 0x40, 0] (withMap live)) prg (cword [0x40, 0x8000, 0x40, 0]) = .ok ctx) ∧
    (IssuesOn 0x40 id [0x40, 0x8000, 0x40, 0] (withMap live) ∧ vOf id [0x40, 0x8000, 0x40, 0] < 128 ∧
      aOf id [0x40, 0x8000, 0x40, 0] % 4096 = 0 ∧
      saveScope (counted id [0x40, 0x8000, 0x40, 0] (withMap live)) false 0x40 = some ([0, 1], 2, 0) ∧
      (ctxRegions (counted id [0x40, 0x8000, 0x40, 0] (withMap live)) 0x11).isEmpty = false ∧
      groupFull (counted id [0x40, 0x8000, 0x40, 0] (withMap live)) prg.owner 0 2 = false ∧
      [0, 1].any (heldBySave (counted id [0x40, 0x8000, 0x40, 0] (withMap live)) 0x11) = false ∧
      treeRefuses (counted id [0x40, 0x8000, 0x40, 0] (withMap live)) (seatTree (counted id [0x40, 0x8000, 0x40, 0] (withMap live)) 0) = false ∧
      freeHold (counted id [0x40, 0x8000, 0x40, 0] (withMap live)) [0, 1] = some 0) ∧
    (IssuesOn 0x41 id [0x41, 0x8000, 0x40, 0] (withMap live) ∧
      poisonedAt (counted id [0x41, 0x8000, 0x40, 0] (withMap live)) 0x8000 4096 = false ∧ headerFits headBytes 0x11 [0, 1] = true) :=
  ⟨⟨_, rfl⟩, ⟨issues_of (by decide +kernel), by decide +kernel⟩, issues_of (by decide +kernel), by decide +kernel⟩

/-- Partition 0 has a heap of 4 KiB at 0x400000. -/
def withHeap (s : State) : State :=
  updMem (fun m => { m with parts := m.parts.set 0 { Part.reset with heap := 0x40000C } }) s

/-- An empty heap of one stack and 4 KiB has room for 64 bytes, whatever the free values are. -/
theorem alloc_of {s : State} {c : CtxId} {b i : Nat} (hi : freeIndex s = some i) (hh : heapOf s.nextFree 0 = some (b, 12))
    (hu : usedBlocks s.nextFree 0 = []) (hm : s.nextFree.build.memStacks = 1) :
    ∃ r : Nat × State, allocObject c 0 64 false s = .ok r := by
  have h64 : pow2Ceil 64 = 64 := by decide +kernel
  have hm' : s.build.memStacks = 1 := hm
  simp [allocObject, allocBlock, hi, hh, hu, hm, hm', h64, freeBlock, findBlock, Nat.mod_one]

theorem witness_ReferenceWordsAct :
    (IssuesOn 0x50 id [0x6550, 0, 64, 0] (withHeap live) ∧ vOf id [0x6550, 0, 64, 0] = 64) ∧
    (ctxPartition (counted id [0x6550, 0, 64, 0] (withHeap live)) prg.ctx = 0 ∧
      ∃ r : Nat × State, allocObject prg.ctx 0 64 false (counted id [0x6550, 0, 64, 0] (withHeap live)) = .ok r) ∧
    (IssuesOn 0x52 id [0x0003000000000052, 0, 1, 0] (withObj .live 1 live) ∧
      ∃ s2, refAddOp (some prg.ctx) 1 3 (unreplayable prg.owner (counted id [0x0003000000000052, 0, 1, 0] (withObj .live 1 live))) = .ok s2 ∧ true = true) ∧
    (IssuesOn 0x53 id [0x0002000010000053, 0, 1, 0] (withObj .live 2 live) ∧
      (cword [0x0002000010000053, 0, 1, 0]).opf % 2 = 1 ∧
      ∃ s2, refSubOp (some prg.ctx) 1 2 (unreplayable prg.owner (counted id [0x0002000010000053, 0, 1, 0] (withObj .live 2 live))) = .ok s2 ∧ true = true) ∧
    (IssuesOn 0x51 id [0x10000051, 0, 1, 0] (withObj .live 1 live) ∧ (cword [0x10000051, 0, 1, 0]).opf % 2 = 1 ∧
      ∃ s2, freeOp (some prg.ctx) 1 (unreplayable prg.owner (counted id [0x10000051, 0, 1, 0] (withObj .live 1 live))) = .ok s2 ∧ true = true) ∧
    (IssuesOn 0x53 id [0x53, 0, 1, 0] live ∧ IssuesOn 0x51 id [0x51, 0, 1, 0] live ∧ (cword [0x53, 0, 1, 0]).opf % 2 = 0 ∧
      ∃ o : Work, (counted id [0x53, 0, 1, 0] live).work? prg.owner = some o ∧ decide (o.drops.length < 256) = true) :=
  ⟨⟨issues_of (by decide +kernel), by decide +kernel⟩,
    ⟨by decide +kernel, Exists.elim (some_of (x := freeIndex (counted id [0x6550, 0, 64, 0] (withHeap live))) (f := fun _ => true)
      (by decide +kernel)) fun _ h => alloc_of (b := 0x400000) h.1 (by decide +kernel) (by decide +kernel) (by decide +kernel)⟩,
    ⟨issues_of (by decide +kernel), ok_of (f := fun _ => true) (by decide +kernel)⟩,
    ⟨issues_of (by decide +kernel), by decide +kernel, ok_of (f := fun _ => true) (by decide +kernel)⟩,
    ⟨issues_of (by decide +kernel), by decide +kernel, ok_of (f := fun _ => true) (by decide +kernel)⟩,
    issues_of (by decide +kernel), issues_of (by decide +kernel), by decide +kernel,
    some_of (f := fun o : Work => decide (o.drops.length < 256)) (by decide +kernel)⟩

/-- An object of context 0x22, not shared, with the given count. -/
def foreign (refs : Nat) (s : State) : State := updObj 1 (fun o => { o with owner := 0x22 }) (withObj .live refs s)
/-- The state in which REFADD's or REFSUB's operation stands. -/
abbrev refAt (l : List W64) (s : State) : State := unreplayable prg.owner (counted id l s)

theorem witness_FailedReferencesLeaveTheEntry :
    (objStale (foreign 1 live) 1 = false ∧ (objOf (foreign 1 live) 1).shared = false ∧
      (0x11 : CtxId) ≠ (objOf (foreign 1 live) 1).owner) ∧
    (objStale (withObj .live 0 live) 1 = false ∧ (objOf (withObj .live 0 live) 1).owner = 0x11 ∧ (objOf (withObj .live 0 live) 1).refs < 1) ∧
    ((objOf (withObj .live 0xFFFFFFFF live) 1).st ≠ .forced ∧ 0xFFFFFFFF < (objOf (withObj .live 0xFFFFFFFF live) 1).refs + 1) ∧
    (blank live = false ∧ refAddOp none 1 1 (withObj .live 0xFFFFFFFF live) = .error eRefOverflow ∧
      refSubOp none 1 1 (withObj .live 0 live) = .error eRefUnderflow) ∧
    (IssuesOn 0x52 id [0x52, 0, 1, 0] (foreign 1 live) ∧
      refAddOp (some prg.ctx) (w32 (vOf id [0x52, 0, 1, 0])) (refCount (cword [0x52, 0, 1, 0])) (refAt [0x52, 0, 1, 0] (foreign 1 live)) =
        .error eObjectAccess) ∧
    (IssuesOn 0x53 id [0x0002000010000053, 0, 1, 0] (withObj .live 1 live) ∧ (cword [0x0002000010000053, 0, 1, 0]).opf % 2 = 1 ∧
      refSubOp (some prg.ctx) (w32 (vOf id [0x0002000010000053, 0, 1, 0])) (refCount (cword [0x0002000010000053, 0, 1, 0]))
        (refAt [0x0002000010000053, 0, 1, 0] (withObj .live 1 live)) = .error eRefUnderflow) :=
  ⟨by decide +kernel, by decide +kernel, by decide +kernel,
    ⟨by decide +kernel, error_of (by decide +kernel), error_of (by decide +kernel)⟩,
    ⟨issues_of (by decide +kernel), error_of (by decide +kernel)⟩,
    issues_of (by decide +kernel), by decide +kernel, error_of (by decide +kernel)⟩

theorem witness_KvWordsWorkThroughTheirList :
    (IssuesOn 0x60 id [0x60, 0x9000, 1, 0] live ∧ vOf id [0x60, 0x9000, 1, 0] < 65536 ∧ aOf id [0x60, 0x9000, 1, 0] % 16 = 0 ∧
      poisonedAt (counted id [0x60, 0x9000, 1, 0] live) 0x9000 16 = false ∧
      tabMoves (counted id [0x60, 0x9000, 1, 0] live) (hIdx 1) = false) ∧
    IssuesOn 0x61 id [0x61, 0x9000, 0xFFFF, 0] live :=
  ⟨⟨issues_of (by decide +kernel), by decide +kernel⟩, issues_of (by decide +kernel)⟩

/-- Ring 1 is an ENQUEUE ring of level 1 of context 0x11. -/
def withEnq (s : State) : State :=
  updRing 1 (fun g => { g with st := .idle, ctx := 0x11, log2 := 4, ringDev := true, level := 1 }) s

theorem witness_JudgeEnqueueAndMarkAct :
    (IssuesOn 0x70 id [0x70, 0x9000, 4096, 0xA000] live ∧ vOf id [0x70, 0x9000, 4096, 0xA000] = 4096 ∧
      groupFull (counted id [0x70, 0x9000, 4096, 0xA000] live) prg.owner 0 1 = false) ∧
    (IssuesOn 0x80 id [0x80, 0x9000, 1, 0] (withEnq live) ∧
      ∃ ctx, enqueueCheck (counted id [0x80, 0x9000, 1, 0] (withEnq live)) prg (cword [0x80, 0x9000, 1, 0]) 1 = .ok ctx ∧
        true = true) ∧
    poisonedAt (counted id [0x80, 0x9000, 1, 0] (withEnq live)) (aOf id [0x80, 0x9000, 1, 0]) 64 = false ∧
    (IssuesOn 0x90 id [0x30000090, 0xFFFFFFFFFFFF, 7, 0] live ∧ (cword [0x30000090, 0xFFFFFFFFFFFF, 7, 0]).opf / 2 % 2 = 1) :=
  ⟨⟨issues_of (by decide +kernel), by decide +kernel⟩, ⟨issues_of (by decide +kernel), ok_of (f := fun _ => true) (by decide +kernel)⟩,
    by decide +kernel, issues_of (by decide +kernel), by decide +kernel⟩

/-! ### Witnesses: courses -/

/-- RCK_CRS_ARG names body 2 with layout 0; object 1 is a 64-byte descriptor object and object 2 a body of 64 bytes. -/
def crs (f : Course → Course) (s : State) : State :=
  updRack (fun k => { k with crsArg := 2, courses := k.courses.set 1 (f ⟨true, false, 2, 1, 4, 0⟩) })
    (updObj 2 (fun o => { o with st := .live, refs := 2, base := 0x20000, size := 64, owner := 0x11, ownerRef := true })
      (withObj .live 1 s))
/-- No course recorded yet. -/
def noCourse (_ : Course) : Course := Course.reset
/-- Memory's answer to the read of a body of two words: a NOP and an END; or a reserved opcode and an END. -/
def goodBody : MemRead := ⟨leBytes 0 32 ++ leBytes 1 32, .ok⟩
def badBody : MemRead := ⟨leBytes 0x99 32 ++ leBytes 6 32, .ok⟩

theorem witness_CourseCommandsActWhenTheirChecksPass :
    ((crs noCourse live).ump.porN = true ∧ inReset (crs noCourse live) = false ∧ blank (crs noCourse live) = false ∧ objStale (crs noCourse live) 1 = false ∧
      objStale (crs noCourse live) (argBody (crs noCourse live)) = false ∧ ((crs noCourse live).rack.courses.get 1).isCourse = false ∧
      (objOf (crs noCourse live) 1).st = .live ∧ (objOf (crs noCourse live) 1).size = 64 ∧ bodyFits (crs noCourse live) 1 = true ∧
      (objOf (crs noCourse live) (argBody (crs noCourse live))).size = 64 ∧
      firstBadWord small 2 0 (bodyWords ⟨leBytes 0 32 ++ leBytes 6 32, .ok⟩ 64) = none ∧
      ∃ s1, refAddOp none (argBody (crs noCourse live)) 1 (crs noCourse live) = .ok s1 ∧ true = true) ∧
    ((crs id live).ump.porN = true ∧ inReset (crs id live) = false ∧ blank (crs id live) = false ∧ objStale (crs id live) 1 = false ∧ ((crs id live).rack.courses.get 1).isCourse = true ∧
      ((crs id live).rack.courses.get 1).retired = false ∧ bodyFits (crs id live) 1 = true ∧
      (∃ s1, refAddOp none (argBody (crs id live)) 1 (crs id live) = .ok s1 ∧ true = true) ∧
      (∃ s1, refSubOp none 2 1 (crs id live) = .ok s1 ∧ true = true)) ∧
    ((crs (fun c => { c with version := 65534 }) live).rack.courses.get 1).version < 65535 := by
  refine ⟨?_, ?_, by decide +kernel⟩
  · refine ⟨by decide +kernel, by decide +kernel, by decide +kernel, by decide +kernel, by decide +kernel, by decide +kernel, by decide +kernel,
      by decide +kernel, by decide +kernel, by decide +kernel, by decide +kernel, ok_of (f := fun _ => true) (by decide +kernel)⟩
  · exact ⟨by decide +kernel, by decide +kernel, by decide +kernel, by decide +kernel, by decide +kernel, by decide +kernel, by decide +kernel,
      ok_of (f := fun _ => true) (by decide +kernel), ok_of (f := fun _ => true) (by decide +kernel)⟩

theorem witness_CourseCommandsReportTheirFailures :
    (live.ump.porN = true ∧ inReset live = false ∧ blank live = false ∧ objStale live 1 = true) ∧
    (objStale (crs noCourse live) 1 = false ∧ ((crs noCourse live).rack.courses.get 1).isCourse = false) ∧
    (objStale (crs id live) 1 = false ∧ objStale (crs id live) (argBody (crs id live)) = false ∧
      ((crs id live).rack.courses.get 1).isCourse = true) ∧
    (((crs (fun c => { c with retired := true }) live).rack.courses.get 1).isCourse = true ∧
      ((crs (fun c => { c with retired := true }) live).rack.courses.get 1).retired = true) ∧
    (bodyFits (updObj 2 (fun o => { o with size := 48 }) (crs noCourse live)) 1 = true ∧
      (objOf (updObj 2 (fun o => { o with size := 48 }) (crs noCourse live)) 2).size % 32 ≠ 0) ∧
    firstBadWord small 2 0 (bodyWords badBody 64) = some 0 := by
  decide +kernel

/-! ### Witnesses: trees and Rowlocks -/

/-- A message of the given kind of context 0x11 for engine 0 of cluster 0, on its way there in tree 0. -/
def msgOf (k : MsgKind) : LaunchMsg := { LaunchMsg.blank k with count := 1, ctx := 0x11, piece := 0x40000 }
def onTree (k : MsgKind) (s : State) : State := updTree 0 (fun t => { t with flights := [⟨msgOf k, [0]⟩] }) s
/-- Engine 0 of cluster 0 changed by `f`. -/
def withEng (f : Engine → Engine) (s : State) : State := updEng 0 0 f s
/-- Piece `i` of one command, from seat `seat`. -/
def pc (i seat : Nat) : Piece := mkPiece i 0x40000 0 0 { msgOf .piece with seat := seat }
/-- Sixty-four pieces. -/
def fullSlots (g : Engine) : Engine := { g with pieces := (List.range 64).map fun i => pc i 0 }

theorem witness_TreeMessagesReachTheirCluster :
    (∀ k ∈ [MsgKind.piece, .crewPiece, .cancel, .hold, .release], computeUp (onTree k live) = true ∧
      atRow (onTree k live) 0 0 = some ⟨msgOf k, [0]⟩ ∧ slotsFull (onTree k live) 0 0 = false) ∧
    slotsFull (withEng fullSlots (onTree .piece live)) 0 0 = true ∧
    (∃ s : State, s.mar.cancels = [(some (.entry 0 5), 0x11, 0, 5)] ∧ launchHeld s 0 = false) :=
  ⟨by decide +kernel, by decide +kernel, updMar (fun m => { m with cancels := [(some (.entry 0 5), 0x11, 0, 5)] }) live, by decide +kernel⟩

/-- A piece whose commands are due. -/
def duePiece : Piece := { pc 1 0 with due := some 0, active := false }
/-- An outstanding chunk with tag 3. -/
def chunk3 : ChunkReq := ⟨3, 0, 1, 0x11, 0, 0, 1, false, 0x40000, 0, false⟩
/-- The parked store of cluster 1 is full. -/
def parkedFull (s : State) : State := updRow 1 (fun r => { r with parked := (List.range 64).map fun i => (w16 i, 0, 1) }) s
/-- Its arrivals have been held back since `t`. -/
def arrivalHeld (t : Nat) (s : State) : State :=
  updRow 1 (fun r => { r with arrHeld := some t, arrWait := [(0x1000, 0, 1)] }) (parkedFull s)

theorem witness_ChunksAndArrivalsReachTheirRowlock :
    (∃ (p : Piece) (n : Nat) (s : State), computeUp s = true ∧
      best (fun a b => a.due.getD 0 < b.due.getD 0) ((s.eng 0 0).pieces.filter fun p => p.due.isSome && !p.cut) = some p ∧
      n = min 64 (p.msg.count - p.asked) ∧ n ≤ bufferRoom (s.eng 0 0) ∧ (s.row 0).chunks.length < 16 ∧
      leastFree ((s.row 0).chunks.map (·.tag)) 16 0 = 0 ∧ p.asked + n = p.msg.count ∧ p.active = false) ∧
    (∃ (q : ChunkReq) (s : State), ((s.row 0).chunks.find? fun q => q.tag == 3) = some q ∧ inReset s = false ∧ q.failed = false ∧
      ((s.row 0).chunks.find? fun q => q.tag == 4) = none) ∧
    ((48 : BitVec 6).toNat = 48 ∧ live.ump.porN = true ∧ inReset live = false ∧ (live.row 1).arrWait = [] ∧ (takeArrival 1 0x11 47 1 live).isSome = true) ∧
    ((takeArrival 1 0x1000 0 1 (parkedFull live)).isNone = true ∧ ((parkedFull live).row 1).arrWait = []) ∧
    (∃ s1 : State, s1 = drainArrivals 1 70 (arrivalHeld 960000000 live) ∧ (s1.row 1).arrHeld = some 960000000 ∧
      10 * msTu = s1.now - 960000000) :=
  ⟨⟨duePiece, 1, withEng (fun g => { g with pieces := [duePiece] }) live, by decide +kernel⟩,
    ⟨chunk3, updRow 0 (fun r => { r with chunks := [chunk3] }) live, by decide +kernel⟩, by decide +kernel, by decide +kernel,
    _, rfl, by decide +kernel⟩

/-- A command of eight words that names no counter to wait on. -/
def plainCmd : List W64 := [0x003F000000003F00#64, 0, 0, 0, 0, 0, 0, 0]
/-- An active piece with that command fetched. -/
def readyPiece : Piece := { pc 1 0 with active := true, asked := 1, fetched := [(0, .cmd plainCmd)] }
/-- The command presented or running. -/
def cmdNow : RunCmd := ⟨1, plainCmd, 0, msgOf .piece, 0, false, 0⟩

theorem witness_CommandsArePresentedCaughtAndFinished :
    (∃ (p : Piece) (w : List W64) (s : State), computeUp s = true ∧ claimsBefore (settleVacated s) 0 0 = [] ∧ settleVacated s = s ∧ mayPresent (s.eng 0 0) = true ∧ selectCmd s 0 0 = some (p, w) ∧ pacePermits s 0 0 = true ∧ 48 ≤ hWaitCtr w ∧
      alignLate s p = false ∧ pacedFrom s p = none) ∧
    (∃ (r : RunCmd) (s : State), engBuilt s 1 7 = true ∧ inReset s = false ∧ (s.eng 1 7).st = .present ∧ (s.eng 1 7).presented = some r ∧ r.fill = false) ∧
    (∃ (r : RunCmd) (s : State), engBuilt s 0 0 = true ∧ inReset s = false ∧ ((presentFirst 0 0 s).eng 0 0).running = some r ∧ r.fill = false ∧
      ((presentFirst 0 0 s).eng 0 0).errSeen = none) ∧
    (engineCode 1 0x8000 = 0x8000 ∧ engineCode 3 eXlatFault = eXlatFault) ∧
    (engBuilt live 0 0 = true ∧ inReset live = false ∧ (live.eng 0 0).presented = none ∧ ((presentFirst 0 0 live).eng 0 0).running = none) :=
  ⟨⟨readyPiece, plainCmd, withEng (fun g => { g with pieces := [readyPiece] }) live, by decide +kernel⟩,
    ⟨cmdNow, updEng 1 7 (fun g => { g with st := .present, presented := some cmdNow }) live, by decide +kernel⟩,
    ⟨cmdNow, withEng (fun g => { g with st := .run, running := some cmdNow }) live, by decide +kernel⟩,
    ⟨by simp [engineCode], by simp [engineCode]⟩, by decide +kernel⟩

theorem witness_CommandsArePresentedCaughtAndFinished_errors :
    ∀ x ∈ [none, some (2, 0x8000#16)], ∃ s : State, engBuilt s 0 0 = true ∧ inReset s = false ∧
      ((presentFirst 0 0 s).eng 0 0).running = some cmdNow ∧ cmdNow.fill = false ∧ x = ((presentFirst 0 0 s).eng 0 0).errSeen := by
  intro x hx
  simp only [List.mem_cons, List.not_mem_nil, or_false] at hx
  rcases hx with h | h <;> subst h
  · exact ⟨withEng (fun g => { g with st := .run, running := some cmdNow }) live, by decide +kernel⟩
  · exact ⟨withEng (fun g => { g with st := .run, running := some cmdNow, errSeen := some (2, 0x8000) }) live, by decide +kernel⟩

/-- Four active pieces of seats 0 to 3, the first waiting for 2 µs, and a fifth of seat 4. -/
def fourActive (g : Engine) : Engine :=
  { g with pieces := [{ pc 0 0 with active := true, waitSince := some 999992000 }] ++
      ([1, 2, 3].map fun i => { pc i i with active := true }) ++ [pc 4 4] }
/-- A report of a program and one of Slide. -/
def rep (origin : Nat) : Report := ⟨0, 5, 0, origin, none, false, 0⟩
/-- A piece of an aligned crew whose start has come, staggered by `n` ns. -/
def alignedPiece (n : Nat) : Piece :=
  { mkPiece 1 0x40000 0 n { msgOf .crewPiece with aligned := true } with startAt := some (1000000000 - n) }
/-- Stroke enabled, with bit 63 of its configuration as it is at reset. -/
def strokeAt (s : State) : State := updStk (fun k => { k with cfg := k.cfg ||| 1 }) s
/-- A vacate of context 0x11 that holds cluster 0 under hold 3. -/
def vacateJob : SaveJob :=
  { id := 1, kind := .vacate, who := .heatRestore, ctx := 0x11, area := 0, holdId := 3, clusters := [⟨0, .hold, [], false, 0, 0, 0⟩],
    msg := msgOf .hold, needKib := 0, failed := false }

theorem witness_ReportsYieldsStartsAndPreemption :
    (∀ o ∈ [0, 1], computeUp live = true ∧ ((updRow 0 (fun r => { r with reports := [rep o] }) live).row 0).reports = [rep o]) ∧
    (∃ (p q : Piece) (s : State), computeUp s = true ∧ 4 ≤ (activePieces (s.eng 0 0)).length ∧
      ((s.eng 0 0).pieces.find? fun p => p.active && (s.eng 0 0).chain != some p.id &&
        p.waitSince.any fun t => 2 * usTu ≤ s.now - t) = some p ∧
      ((s.eng 0 0).pieces.find? fun q => !q.active && q.msg.seat != p.msg.seat && !(seatActive (s.eng 0 0) q.msg.seat)) = some q) ∧
    (∃ s : State, engBuilt s 0 0 = true ∧ inReset s = false ∧ (s.eng 0 0).preReq = true ∧ (s.eng 0 0).preAck = false ∧ (s.eng 0 0).running = none) ∧
    (∃ s : State, engBuilt s 0 0 = true ∧ inReset s = false ∧ (s.eng 0 0).preAck = true ∧ (s.eng 0 0).preReq = false) ∧
    (engBuilt live 0 0 = true ∧ inReset live = false ∧ (live.eng 0 0).preAck = false ∧ (live.eng 0 0).preReq = false) ∧
    (∀ n ∈ [0, 1], (alignedPiece n).first = 0 ∧ (alignedPiece n).startAt.isSome = true ∧ (alignedPiece n).offset = n ∧
      dueAt (strokeAt (withEng (fun g => { g with pieces := [alignedPiece n] }) live)) (alignedPiece n) = live.now) ∧
    (∃ (h : Nat × HoldSlot) (s : State), computeUp s = true ∧ ((s.row 0).holds.find? fun h => h.1 == 3) = some h ∧
      h.2.complete = true ∧ (s.sld.jobs.find? fun j => j.kind != .restore && !j.failed && j.holdId == 3 && j.ctx == h.2.ctx &&
        j.clusters.any fun x => x.cluster == 0 && x.st == .hold) = some vacateJob ∧ vacateJob.kind = .vacate) :=
  ⟨by decide +kernel,
    ⟨{ pc 0 0 with active := true, waitSince := some 999992000 }, pc 4 4, withEng fourActive live, by decide +kernel⟩,
    ⟨withEng (fun g => { g with preReq := true }) live, by decide +kernel⟩,
    ⟨withEng (fun g => { g with preAck := true }) live, by decide +kernel⟩,
    by decide +kernel, by decide +kernel,
    (3, ⟨0x11, true⟩), updSld (fun d => { d with jobs := [vacateJob] }) (updRow 0 (fun r => { r with holds := [(3, ⟨0x11, true⟩)] }) live),
    by decide +kernel⟩

/-! ### Witnesses: responses, watches, the crossing -/

/-- A request of the narrow or host port and one of the atomic port, with tag 1023. -/
def memQ : MemReq := ⟨1023, false, 0x6000, 0x11, [], 8, 0, .objEntry, islMar, 0, false, false⟩
def atQ : AtReq := ⟨1023, opMaxu, 0x5000, 0x11, 9, 0, .hostSignal 9, islStb, 0, false, false⟩
def wdQ : WdReq := ⟨255, 0x9000, 0, 0x11, 128, [], .ok, 1, 0, false, false⟩
/-- A trace block of stream 7 with tag 63. -/
def blk : TraceBlock := ⟨63, 0, [], 64, [(1, islMar)], false, false, 0, false⟩

theorem witness_ResponsesEndTheirRequests :
    (∃ s : State, (s.ports.nm.find? fun q => q.tag == 1023 && q.tag < portTags) = some memQ ∧ s.ports.nm.length < portTags ∧
      (s.ports.hm.find? fun q => q.tag == 1023 && q.tag < portTags) = some memQ ∧
      (s.ports.at_.find? fun q => q.tag == 1023 && q.tag < portTags) = some atQ ∧ s.ports.at_.length < portTags ∧
      (s.ports.wd.find? fun q => q.tag == 255) = some wdQ ∧ s.ump.rst ≠ .dead) ∧
    (∃ s : State, ((List.range 8).find? fun i => (s.stream i).blocks.any fun b => b.tag == 63 && !b.answered) = some 7 ∧
      ((s.stream 7).blocks.find? fun b => b.tag == 63 && !b.answered) = some blk ∧ blk.stale = false ∧ computeUp s = true) ∧
    ((live.ports.nm.find? fun q => q.tag == 0 && q.tag < portTags) = none ∧
      (live.ports.hm.find? fun q => q.tag == 0 && q.tag < portTags) = none ∧
      (live.ports.at_.find? fun q => q.tag == 0 && q.tag < portTags) = none) :=
  ⟨⟨updPorts (fun p => { p with nm := [memQ], hm := [memQ], at_ := [atQ], wd := [wdQ] }) live, by decide +kernel⟩,
    ⟨updStream 7 (fun st => { st with blocks := [blk] }) live, by decide +kernel⟩, by decide +kernel⟩

/-- Watch entry 1023 in the given state. -/
def withWatch (st : WatchSt) (s : State) : State := updWatch 1023 (fun w => { w with st := st, linger := some 999960000 }) s

theorem witness_WatchCommandsAct :
    (∀ st ∈ [WatchSt.arming, .disarming], watchBuilt (withWatch st live) 1023 = true ∧ (withWatch st live).ump.rst ≠ .dead ∧
      ((withWatch st live).stb.watch.get 1023).owed = false ∧ inReset (withWatch st live) = false ∧
      ((withWatch st live).stb.watch.get 1023).st = st) ∧
    (∃ s : State, (s.stb.waiters.get 0).st = .polled ∧ (s.stb.waiters.get 0).timedOut = false ∧ computeUp s = true ∧
      max (max 100 (fld s.stb.cfg 0 16) * 4) (16 * (polledWaiters s).length) = s.now - (s.stb.waiters.get 0).lastPoll) ∧
    (∃ t : Nat, ((withWatch .armed live).stb.watch.get 1023).linger = some t ∧ ((withWatch .armed live).stb.watch.get 1023).st = .armed ∧
      t + fld (withWatch .armed live).stb.cfg 16 8 * usTu = live.now) ∧
    watchBuilt live 1024 = false :=
  ⟨by decide +kernel, ⟨updWaiter 0 (fun w => { w with st := .polled, lastPoll := 999992000 }) live, by decide +kernel⟩,
    ⟨999960000, by decide +kernel⟩, by decide +kernel⟩

/-- A record of a SIGNALX to chip 1, sent `t` tu ago. -/
def out1 (t : Nat) : OutRec := ⟨1, 0, .entry 0 5, 0, 0x11, 0x5000, 9, ⟨1, 0⟩, true, 1000000000 - t, 1000000000 - t⟩
/-- The crossing with that record out, its link state `k` since the beginning of time. -/
def crossing (k : LinkSt) (t : Nat) (s : State) : State := updStb (fun b => { b with link := k, outs := [out1 t] }) s
/-- A run of received signals since 1 µs. -/
def run1 : RxRun := ⟨1, 0, 0, 0, 999996000⟩

theorem witness_CrossingCommandsAct :
    (live.build.hasCrossing = true ∧ computeUp live = true ∧
      fld (wordAt [0x0011000000000001#64, 0, 0x5000, 0x8000000000000000] 0) 0 4 = 1 ∧
      bit (wordAt [0x0011000000000001#64, 0, 0x5000, 0x8000000000000000] 3) 63 = true) ∧
    (fld (wordAt [0x002#64, 0, 0, 0] 0) 0 4 = 2 ∧ fld (wordAt [0x102#64, 0, 0, 0] 0) 0 4 = 2) ∧
    fld (wordAt [0x002#64, 0, 0, 0] 0) 8 8 = (crossHang 0x03 [0x002#64, 0, 0, 0] live).ump.incarn % 256 ∧
    fld (wordAt [0x102#64, 0, 0, 0] 0) 8 8 ≠ (crossHang 0x03 [0x102#64, 0, 0, 0] live).ump.incarn % 256 ∧
    ((crossHang 0x03 [3, 0, 0, 0] (crossing .up 0 live)).stb.outs.find? fun o => o.dst == 1 && o.seq == w32 (fld (wordAt [3, 0, 0, 0] 1) 0 32))
      = some (out1 0) ∧
    (∃ s : State, (s.stb.runs.find? fun x => x.src == 1 && x.incarn == (0 : BitVec 8).toNat) = some run1 ∧ computeUp s = true ∧
      usTu = s.now - run1.since) ∧
    (∃ o : OutRec, ((crossing .up 400000000 live).stb.outs.find? fun o => o.dst == 1 && o.seq == 0) = some o ∧ o.sentOnce = true ∧
      max 10 (fld live.stb.xngCfg 16 16) * usTu ≤ live.now - o.lastSent ∧
      max 1 (fld live.stb.xngCfg 32 16) * msTu = live.now - o.firstSent) ∧
    (∃ s : State, s.build.hasCrossing = true ∧ s.stb.linkOk = true ∧ s.ump.rst ≠ .dead) ∧
    ((crossing .hold 0 live).stb.link = .hold ∧ fld live.stb.xngCfg 48 16 * usTu ≤ live.now - live.stb.linkAt) ∧
    (live.ump.porN = true ∧ live.ump.rst ≠ .dead ∧ live.stb.link ≠ .hold ∧ live.stb.link ≠ .resetSent) ∧
    ((crossing .resetSent 0 live).stb.link = .resetSent ∧ computeUp (crossing .resetSent 0 live) = true ∧
      streamOrder (crossing .resetSent 0 live) = [out1 0]) ∧
    ((crossing .resetSent 0 (inSt .clear live)).stb.link = .resetSent ∧ computeUp (crossing .resetSent 0 (inSt .clear live)) = false ∧
      (crossing .resetSent 0 (inSt .dead live)).ump.rst = .dead) ∧
    (fld (wordAt [0x0011000000000001#64, 0, 0x5000, 9] 2) 0 56 % 8 = 0 ∧
      ctxLive (withCtx 0 .live live) (w16 (fld (wordAt [0x0011000000000001#64, 0, 0x5000, 9] 0) 48 16)) = true) :=
  ⟨by decide +kernel, by decide +kernel, by decide +kernel, by decide +kernel, by decide +kernel,
    ⟨updStb (fun b => { b with runs := [run1] }) live, by decide +kernel⟩, ⟨out1 400000000, by decide +kernel⟩,
    ⟨updStb (fun b => { b with linkOk := true }) live, by decide +kernel⟩, by decide +kernel, by decide +kernel, by decide +kernel, by decide +kernel,
    by decide +kernel⟩

/-! ### Witnesses: loops, heats -/

/-- A loop descriptor of context 0x11 with 1,024 sequences, request ring 0 and result ring 0 of 16 slots, and no model. -/
def loopDesc : MemRead := ⟨leBytes 0x500011 0x80 ++ leBytes (0x11 + 0x11 * 2 ^ 64) 0x100 ++ leBytes 0x11 8, .ok⟩
/-- Loop 0 in the given state; Heat has one seat and context 0x11 is LIVE. -/
def withLoop (st : LoopSt) (f : Loop → Loop) (s : State) : State :=
  updLoop 0 (fun g => f { g with st := st, ctx := 0x11 }) (updMar (fun m => { m with seatCfg := 0x1003200C8 }) (withCtx 0 .live s))

/-- Heat has read loop 0's descriptor. -/
abbrev descRead (s : State) : State := ownRead islHea (fld (s.loop 0).desc 6 50 * 64) 0xFFFF 2048 s

theorem witness_LoopCommandsFollowTheLoopState :
    (selLoop (withLoop .stopped id live) = 0 ∧ loopBuilt (withLoop .stopped id live) 0 = true ∧
      computeUp (withLoop .stopped id live) = true ∧ blank (withLoop .stopped id live) = false ∧
      ((withLoop .stopped id live).loop 0).starting = false ∧
      firstFail (startChecks (descRead (withLoop .stopped id live)) 0 loopDesc.bytes ++ modelChecks (descRead (withLoop .stopped id live))
        (startedLoop live.now ((withLoop .stopped id live).loop 0) loopDesc.bytes).models
        (startedLoop live.now ((withLoop .stopped id live).loop 0) loopDesc.bytes).shapes) = none) ∧
    firstFail (startChecks (descRead (withLoop .stopped id live)) 0 [0x11] ++ modelChecks (descRead (withLoop .stopped id live))
        (startedLoop live.now ((withLoop .stopped id live).loop 0) [0x11]).models
        (startedLoop live.now ((withLoop .stopped id live).loop 0) [0x11]).shapes) = some 0 ∧
    firstFail (modelChecks (descRead (withLoop .running id live)) (descTab Model.reset (descModel loopDesc.bytes) 8)
      (descTab Shape.reset (descShape loopDesc.bytes) 16)) = none ∧
    ((withLoop .running (fun g => { g with starting := true }) live).loop 0).starting = true := by
  refine ⟨by decide +kernel, by decide +kernel, by decide +kernel, by decide +kernel⟩

/-- The words of a request record: a cancel of charge context 0x11 with its check code, and the same marked as of kind 1. -/
def cancelRec : List W64 := withCheck [0x0000001100000004, 7, 0, 0, 0, 0, 0, 0]
  where withCheck (w : List W64) : List W64 := w.take 7 ++ [w64 (requestCrc w)]

/-- Sequence 0 of loop 0 waits for its gate. -/
def gated (g : Loop) : Loop := { g with seqs := g.seqs.set 0 { SeqEnt.reset with st := .gated, retryAt := 1000000000 } }

theorem witness_RequestsResultsAndGates :
    (selLoop (withLoop .running id live) = 0 ∧ loopBuilt (withLoop .running id live) 0 = true ∧
      blank (withLoop .running id live) = false) ∧
    (((withLoop .running id live).loop 0).reqs.get 15).lastLook + 50 * usTu ≤ live.now ∧
    requestIntact cancelRec = true ∧ rqKind cancelRec = 2 ∧
    requestBad ((withLoop .running id live).loop 0) { ReqRing.reset with ctx := 0x11 } cancelRec = false ∧
    (∃ s : State, (s.stb.gateDone.find? fun g => g.1 == 0 && g.2.1 == 0) = some (0, 0, .ok, 9) ∧ computeUp s = true ∧
      ((s.loop 0).seqs.get 0).st = .gated ∧ bit (9 : W64) 63 = false) ∧
    (∃ s : State, ((s.loop 0).seqs.get 0).st = .gated ∧ ((s.loop 0).seqs.get 0).waiter = none ∧
      (s.stb.gateDone.any fun g => g.1 == 0 && g.2.1 == 0) = false ∧ ((s.loop 0).seqs.get 0).retryAt = s.now ∧ computeUp s = true) :=
  ⟨by decide +kernel, by decide +kernel, by decide +kernel, by decide +kernel, by decide +kernel,
    ⟨updStb (fun b => { b with gateDone := [(0, 0, .ok, 9)] }) (withLoop .running gated live), by decide +kernel⟩,
    withLoop .running gated live, by decide +kernel⟩

/-- A request record of kind 1 that is good for loop 0 with model 0 valid and result ring 0 enabled. -/
def newRec : List W64 := [0x0000001100000002, 7, 0x8000, 0x0000000001000001, 0x9000, 0xA000, 0, 0]
def withModel (g : Loop) : Loop :=
  { g with models := g.models.set 0 { Model.reset with valid := true }, ress := g.ress.set 0 { ResRing.reset with enabled := true } }

theorem witness_RequestsResultsAndGates_admission :
    requestIntact (newRec.take 7 ++ [w64 (requestCrc newRec)]) = true ∧ rqKind newRec ≠ 2 ∧
    requestBad (withModel ((withLoop .running id live).loop 0)) { ReqRing.reset with ctx := 0x11 }
      (newRec.take 7 ++ [w64 (requestCrc newRec)]) = false := by
  decide +kernel

/-- A heat in slot 0 of loop 0 in the given state, with its program's entry in the completion window, ended. -/
def withHeat (st : SlotSt) (f : HeatSlot → HeatSlot) (s : State) : State :=
  updMar (fun m => { m with works := [{ job with owner := .heat 0 0, ended := true }] })
    (withLoop .running (fun g => { g with
      timeout := 1, slots := g.slots.set 0 (f { HeatSlot.reset with st := st, seat := 7, began := 999744000 }) }) s)
/-- One prefill member, of sequence 0. -/
def mem0 : Member := ⟨0, 0x11, true, false, 0, 1, 0, 0, 0, true, none⟩

theorem witness_HeatsGoFromStateToState :
    (computeUp live = true ∧ live.build.hasHeat = true ∧ blank live = false) ∧
    (∀ st ∈ [SlotSt.save, .switch, .compose, .grow, .run, .judge, .commit],
      heatUp (withHeat st id live) 0 = true ∧ ((withHeat st id live).hslot 0 0).st = st ∧
      ((withHeat st id live).sld.jobs.any fun j => j.who == .heat 0 0) = false ∧ courseOver (withHeat st id live) 0 0 = true ∧
      sampledOf ((withHeat st id live).hslot 0 0) = [] ∧
      ((withHeat st id live).hslot 0 0).began + ((withHeat st id live).loop 0).timeout * 64 * usTu = live.now) ∧
    (∃ w : Work, (withHeat .grow id live).work? (.heat 0 0) = some w ∧ (w.failed == none) = true) ∧
    (∃ s : State, (s.hslot 0 0).st = .grow ∧ (s.hslot 0 0).waiting = false ∧ s.prog? (s.hslot 0 0).seat = none ∧
      ((dropUngrown 0 0 s).hslot 0 0).members.isEmpty = false ∧
      ((dropUngrown 0 0 s).hslot 0 0).members.length = (s.hslot 0 0).members.length) ∧
    (∃ s : State, (s.judge.done.find? fun d => d.1 == 0 && d.2.1 == 0) = some (0, 0, none, []) ∧ (s.hslot 0 0).st = .judge) ∧
    (∃ s : State, (s.hslot 0 0).st = .commit ∧ (s.hslot 0 0).acked = true ∧ (s.hslot 0 0).waiting = false ∧
      heatUp s 0 = true) :=
  ⟨by decide +kernel, by decide +kernel, some_of (f := fun w : Work => w.failed == none) (by decide +kernel),
    ⟨withHeat .grow (fun h => { h with members := [mem0] }) live, by decide +kernel⟩,
    ⟨{ withHeat .judge id live with judge := { live.judge with done := [(0, 0, none, [])] } }, by decide +kernel⟩,
    withHeat .commit (fun h => { h with acked := true }) live, by decide +kernel⟩

theorem witness_HeatsGoFromStateToState_sampled :
    ∃ (ms : List (Member × Nat × Nat)) (s : State), heatUp s 0 = true ∧ (s.hslot 0 0).st = .run ∧ courseOver s 0 0 = true ∧
      ms = sampledOf (s.hslot 0 0) ∧ ms ≠ [] :=
  ⟨_, withHeat .run (fun h => { h with members := [{ mem0 with sample := true }] }) live, by decide +kernel, by decide +kernel,
    by decide +kernel, rfl,
    by decide +kernel⟩

theorem witness_LoopCommandsFollowTheLoopState_refused :
    selLoop (withLoop .failed id live) = 0 ∧ loopBuilt (withLoop .failed id live) 0 = true ∧ computeUp (withLoop .failed id live) = true ∧
    blank (withLoop .failed id live) = false ∧ ((withLoop .failed id live).loop 0).starting = false ∧
    ((withLoop .failed id live).loop 0).st = .failed ∧ ((withLoop .running id live).loop 0).st = .running := by
  decide +kernel

/-! ### Witnesses: shares, Judge, memory, Slide -/

/-- An accounting item of context 0x11. -/
def item : AcctItem := ⟨0, 0x11, 0, 0, 100, 0⟩
/-- Judge's job 1 of two requests, of the program of `withProg`. -/
def jobJ : JudgeJob := ⟨1, .prog (.entry 0 5) 0 0, 0x11, 2, 0x9000, 0xA000, 0, false, [], [], 0, 0, none, [], 0, 0, 0, false⟩

/-- Sequence 0 of loop 0 has starved for 1 ms, the loop's wait, which is also how long ago the last spill was; sequence 1 may be
spilled. -/
def starved : State := withLoop .running (fun g => { g with
  kvWaitMs := 1, lastSpill := 996000000
  seqs := (g.seqs.set 0 { SeqEnt.reset with st := .decode, kvWait := true, starvedSince := some 996000000 }).set 1
    { SeqEnt.reset with st := .decode, kv := 2 } }) live

theorem witness_AccountingSpillingAndJudgeWork :
    (∃ s : State, s.fab.items = [item] ∧ computeUp s = true ∧
      (s.heat.loops.cells.find? fun g => g.2.ctx == item.ctx && (g.2.st != .stopped || loopInFlight g.2 != 0)).isNone = true) ∧
    (∃ s : State, s.fab.items = [item] ∧ computeUp s = true ∧
      ((s.heat.loops.cells.find? fun g => g.2.ctx == item.ctx && (g.2.st != .stopped || loopInFlight g.2 != 0)).map Prod.fst) = some 0 ∧
      ((s.loop 0).slots.get 0).st = .free) ∧
    (live.build.hasHeat = true ∧ live.heat.lastPeriod + max 10 (fld live.heat.cfg 0 16) * usTu ≤ live.now) ∧
    (computeUp (settlePoison (withLoop .running id live)) = true ∧ loopLive ((settlePoison (withLoop .running id live)).loop 0) = true ∧
      loopRecovers (settlePoison (withLoop .running id live)) 0 = false ∧
      liveSeqs ((settlePoison (withLoop .running id live)).loop 0) = []) ∧
    (∃ s2 : State, computeUp (settlePoison starved) = true ∧ loopLive ((settlePoison starved).loop 0) = true ∧
      loopRecovers (settlePoison starved) 0 = false ∧ ((settlePoison starved).loop 0).kvWaitMs ≠ 0 ∧
      ((settlePoison starved).loop 0).lastSpill + ((settlePoison starved).loop 0).kvWaitMs * msTu = (settlePoison starved).now ∧
      (sortBy (fun a b => a.2.starvedSince.getD 0 < b.2.starvedSince.getD 0) ((liveSeqs ((settlePoison starved).loop 0)).filter fun p =>
        p.2.st == .decode && p.2.kvWait && p.2.starvedSince.any fun t => t + ((settlePoison starved).loop 0).kvWaitMs * msTu ≤
          (settlePoison starved).now)).findSome? (spillChoice (settlePoison starved) 0) = some (0, 1) ∧
      s2 = updLoop 0 (fun g => { g with lastSpill := (settlePoison starved).now }) (settlePoison starved) ∧
      tierRoom s2 (pageBytes (s2.mem.pools.get 0)) 0 (tierUsed s2) = some []) ∧
    (∃ s : State, s.judge.waiting = [jobJ] ∧ jobOrphan s jobJ = false ∧ s.judge.jobs.length = 15) ∧
    (∀ b ∈ [true, false], ∃ j s, computeUp s = true ∧
      ((abandonJobs s).judge.jobs.find? fun j => j.err.isNone && j.at_ < j.n) = some j ∧ j.out = 0 ∧ j.started = b) :=
  ⟨⟨{ live with fab := { live.fab with items := [item] } }, by decide +kernel⟩,
    ⟨{ withLoop .running id live with fab := { live.fab with items := [item] } }, by decide +kernel⟩, by decide +kernel, by decide +kernel,
    ⟨_, by decide +kernel, by decide +kernel, by decide +kernel, by decide +kernel, by decide +kernel, by decide +kernel, rfl,
      by decide +kernel⟩,
    ⟨updJudge (fun g => { g with waiting := [jobJ], jobs := (List.range 15).map fun _ => jobJ }) (withProg .run id live), by decide +kernel⟩,
    fun b _ => by
      cases b
      · exact ⟨jobJ, updJudge (fun g => { g with jobs := [jobJ] }) (withProg .run id live), by decide +kernel⟩
      · exact ⟨{ jobJ with started := true }, updJudge (fun g => { g with jobs := [{ jobJ with started := true }] })
          (withProg .run id live), by decide +kernel⟩⟩

/-- An empty heap of one stack and 4 KiB has room for the one page of a pool, whatever the free values are. -/
theorem pool_of {s : State} {p : Pool} {b : Nat} (hh : heapOf s (poolPart p) = some (b, 12)) (hu : usedBlocks s (poolPart p) = [])
    (hm : s.build.memStacks = 1) (hp : perStack p * pageBytes p = 4096) : ∃ bases, poolBlocks s p = some bases := by
  have h4 : pow2Ceil 4096 = 4096 := by decide +kernel
  have hr : List.range 1 = [0] := rfl
  simp [poolBlocks, hh, hu, hm, hp, h4, hr, freeBlock, findBlock, Nat.mod_one]

/-- RCK_POOL_CFG for pages of 4 KiB of one token, one page on each stack, in partition 0. -/
def poolCfg : W64 := 0x100010001
/-- Pool 0 with that configuration. -/
def withPool (s : State) : State := updMem (fun m => { m with pools := m.pools.upd 0 (poolWrite poolCfg) }) s
/-- Pool 0 enabled. -/
def poolOn (s : State) : State := updMem (fun m => { m with pools := m.pools.upd 0 fun p => { p with enabled := true } }) s
/-- Page table 1 of pool 0. -/
def withTab (s : State) : State := updMem (fun m => { m with tabs := m.tabs.set 1 { PageTab.reset with isTable := true } }) s
/-- A copy piece ready to be launched. -/
def copyPc : CopyPiece := ⟨1, .job 1 0, 0, 0, 0, 0, 64, msgOf .piece, [], none, false, true, false⟩
/-- Memory's answer to the read of a map of one region of 2 KiB. -/
def mapBytes : MemRead := ⟨leBytes 1 64 ++ leBytes (0x800 * 2 ^ 96) 16, .ok⟩
/-- The image in force gives each cluster 4 KiB of scratchpad. -/
def withSpad (s : State) : State := updRig (fun r => { r with now := { r.now with spadKib := 4 } }) s
/-- Slide has read the map of slot 0: 64 bytes and one region. -/
abbrev mapRead (s : State) : State := ownRead islSld (fld (s.map 0).map 6 50 * 64) (s.slot 0).ctxId 80 s
/-- A save holds context 0x11 at cluster 0. -/
def heldSave (s : State) : State := updSld (fun d => { d with held := [(0x11, 0, 0)] }) s
/-- A restore of context 0x11 at cluster 0, of counters that were not valid. -/
def restoreJob : SaveJob := { vacateJob with kind := .restore, clusters := [⟨0, .waitRow, [], false, 0, 0, 0⟩] }

theorem witness_MemoryCommandsAct :
    (poolSel live = 0 ∧ (live.mem.pools.get 0).enabled = false ∧
      fld ((updMem (fun m => { m with pools := m.pools.upd 0 (poolWrite 0) }) live).mem.pools.get 0).cfg 0 16 = 0) ∧
    (fld ((withPool live).mem.pools.get 0).cfg 0 16 ≠ 0 ∧ pageTokens ((withPool live).mem.pools.get 0) ≠ 0 ∧
      perStack ((withPool live).mem.pools.get 0) ≠ 0 ∧ (poolBlocks (withPool live) ((withPool live).mem.pools.get 0)).isNone = true) ∧
    (∃ bases, poolBlocks (withPool (withHeap live)) ((withPool (withHeap live)).mem.pools.get 0) = some bases) ∧
    (((poolOn live).mem.pools.get 0).enabled = true ∧
      ((poolOn live).mem.tabs.cells.any fun t => t.2.isTable && t.2.pool == 0) = false ∧
      ((withTab (poolOn live)).mem.tabs.cells.any fun t => t.2.isTable && t.2.pool == 0) = true) ∧
    (∃ s : State, computeUp s = true ∧ nextPiece s = some copyPc ∧ treeRefuses s 0 = false ∧ partMode s 0 = 0) ∧
    (sldSlot (withCtx 0 .live live) = 0 ∧ ((withCtx 0 .live live).map 0).busy = 0 ∧ ((withCtx 0 .live live).slot 0).st ≠ .free ∧
      (mapRegions mapBytes.bytes).length = 1 ∧ firstBadRegion (mapRead (withCtx 0 .live live)) 0 [] (mapRegions mapBytes.bytes) = some 0 ∧
      firstBadRegion (mapRead (withSpad (withCtx 0 .live live))) 0 [] (mapRegions mapBytes.bytes) = none ∧
      slotHeld (withCtx 0 .live live) 0 = false ∧ slotHeld (heldSave (withCtx 0 .live live)) 0 = true) ∧
    (∃ s : State, (s.map (sldSlot s)).busy ≠ 0) ∧
    (∃ (x : ClJob) (s : State), computeUp s = true ∧ (s.row 0).resident = none ∧
      (s.sld.jobs.find? fun j => j.kind == .restore && !j.failed && j.clusters.any fun x => x.cluster == 0 && x.st == .waitRow)
        = some restoreJob ∧
      (restoreJob.clusters.find? fun x => x.cluster == 0) = some x ∧ x.valid = false) :=
  ⟨by decide +kernel, by decide +kernel, pool_of (b := 0x400000) (by decide +kernel) (by decide +kernel) (by decide +kernel) (by decide +kernel),
    by decide +kernel, ⟨updSld (fun d => { d with pieces := [copyPc] }) live, by decide +kernel⟩, by decide +kernel,
    ⟨updMap 0 (fun c => { c with busy := 1 }) live, by decide +kernel⟩,
    ⟨0, .waitRow, [], false, 0, 0, 0⟩, updSld (fun d => { d with jobs := [restoreJob] }) live, by decide +kernel⟩

/-! ### Witnesses: Stroke -/

/-- Stroke enabled. -/
def strokeOn (s : State) : State := updStk (fun k => { k with cfg := k.cfg ||| 1 }) s
/-- An alert on both lines. -/
def alert (a : Alert) (s : State) : State := updStk (fun k => { k with oc := a, th := a }) s

theorem witness_StrokeCommandsAct :
    (live.build.hasStroke = true ∧ computeUp live = true ∧ bit live.stk.cfg 0 = false ∧ bit (strokeOn live).stk.cfg 0 = true) ∧
    (live.ump.porN = true ∧ computeUp (inSt .clear live) = false) ∧
    (stkOn (strokeOn live) = true ∧ (strokeOn live).stk.period < (strokeOn live).now / 4000) ∧
    (stkOn live = false ∧ live.stk.period < live.now / 4000) ∧
    (live.stk.chans.get 9).at_ / 4000 ≠ live.now / 4000 ∧
    ((updStk (fun k => { k with chans := k.chans.upd 9 fun x => { x with at_ := 1000000000 } }) live).stk.chans.get 9).at_ / 4000 =
      live.now / 4000 ∧
    (9 : BitVec 4).toNat + 1 = 10 ∧
    (∀ b ∈ [true, false], (alertOf b live.stk).event = false ∧ (alertOf b live.stk).stuck = false ∧
      (alertOf b (alert { Alert.reset with stuck := true } live).stk).stuck = true ∧
      (alertOf b (alert { Alert.reset with event := true, since := 999992000 } live).stk).event = true ∧
      (alertOf b (alert { Alert.reset with event := true, since := 999992000 } live).stk).stuck = false ∧
      999992000 + 2 * usTu = live.now ∧ live.now < 999992001 + 2 * usTu ∧ 799999999 + 50 * msTu < live.now ∧
      800000000 + 50 * msTu = live.now) ∧
    ((1 : BitVec 4).toNat ∈ usedChans (strokeOn live) ∧
      max ((strokeOn live).stk.chans.get 1).at_ (strokeOn live).stk.since + 10 * usTu ≤ live.now ∧
      (strokeOn live).stk.stale = [] ∧ 1 ∉ (updStk (fun k => { k with stale := [0] }) (strokeOn live)).stk.stale) := by
  decide +kernel

/-! ### Witnesses: time, trace, counters -/

/-- TKP_CFG with pulse mode `m`, and a load register one above the time. -/
def pulseMode (m : Nat) (load : Nat) (s : State) : State := updTkp (fun k => { k with cfg := w64 m, load := w64 load }) s

theorem witness_TimeInputsAct :
    (∀ m ∈ [0, 1, 2, 3], (pulseMode m 0 live).ump.porN = true ∧
      newEvent (pulseMode m 0 live) (pulseMode m 0 live).tkp.pulseStuck (pulseMode m 0 live).tkp.lastPulse = true ∧
      fld (pulseMode m 0 live).tkp.cfg 0 2 = m) ∧
    newEvent (updTkp (fun k => { k with lastPulse := some 999992001 }) live) false (some 999992001) = false ∧
    (live.now - fld (pulseMode 2 1000000000 live).tkp.cfg 22 16 = (pulseMode 2 1000000000 live).tkp.load.toNat) ∧
    ((pulseMode 2 999999999 live).tkp.load.toNat < live.now - fld (pulseMode 2 999999999 live).tkp.cfg 22 16) ∧
    (∃ s : State, inputLast s (2 : BitVec 2).toNat = some 799999999 ∧ inputStuck s (2 : BitVec 2).toNat = false ∧
      799999999 + 50 * msTu < s.now) ∧
    (∃ s : State, inputLast s (0 : BitVec 2).toNat = some 800000000 ∧ inputStuck s (0 : BitVec 2).toNat = true ∧
      800000000 + 50 * msTu = s.now) :=
  ⟨by decide +kernel, by decide +kernel, by decide +kernel, by decide +kernel,
    ⟨updErg (fun e => { e with trig1Last := some 799999999 }) live, by decide +kernel⟩,
    updTkp (fun k => { k with pulseStuck := true, lastPulse := some 800000000 }) live, by decide +kernel⟩

/-- A stream 0 with a ring of 64 KiB at 0x100000 and a status line. -/
def goodStream (s : State) : State := updStream 0 (fun st => { st with ring := 0x100010, statusLine := 0x40 }) s
/-- A record that has waited since `t`. -/
def oldRec (t : Nat) : TraceRec := ⟨1, islMar, t, [0, 0]⟩

theorem witness_TraceAndCountersAct :
    (live.ump.porN = true ∧ selStream live = 0 ∧ live.build.hasWake = true ∧ (live.stream 0).enabled = false ∧
      streamOk ((updStream 0 (fun st => { st with filter := (1 : W64) &&& filterMask &&& ~~~1 }) live).stream 0) = false ∧
      streamOk ((updStream 0 (fun st => { st with filter := (1 : W64) &&& filterMask &&& ~~~1 }) (goodStream live)).stream 0) = true) ∧
    (∃ s : State, (s.stream 7).recs.head? = some (oldRec 999992000) ∧ (oldRec 999992000).stamp + 4 * max 100 (fld s.wake.cfg 0 16) = s.now ∧
      (s.stream 7).enabled = true) ∧
    (live.build.hasErg = true ∧ computeUp live = true ∧ live.erg.lastSample + 400 * max 1 (fld live.erg.cfg 0 16) ≤ live.now ∧
      ergActive live = true ∧ bit live.erg.cfg 19 = false ∧
      bit (updErg (fun e => { e with lastSample := live.now, intervals := e.intervals + 1 })
        (each (List.range 4) sampleHist (each (List.range 64) sampleCounter live))).erg.cfg 19 = false) ∧
    (∃ s : State, s.ump.porN = true ∧ s.build.hasErg = true ∧ (freezeFields 0 s).erg.frozen = true) ∧
    (newEvent (updErg (fun e => { e with trig1Last := some 999992001 }) live) false (some 999992001) = false ∧
      newEvent live (inputStuck live 2) (inputLast live 2) = true ∧ bit live.erg.freeze 2 = false ∧
      bit (updErg (fun e => { e with freeze := 4 }) live).erg.freeze 2 = true) ∧
    (∃ s : State, s.build.hasErg = true ∧ s.erg.frozen = true ∧ s.erg.trigOut0 = false ∧ s.erg.freezeTime = s.now) :=
  ⟨by decide +kernel, ⟨updStream 7 (fun st => { st with recs := [oldRec 999992000], enabled := true }) live, by decide +kernel⟩,
    by decide +kernel, ⟨updErg (fun e => { e with frozen := true }) live, by decide +kernel⟩, by decide +kernel,
    updErg (fun e => { e with frozen := true, freezeTime := 1000000000 }) live, by decide +kernel⟩

/-- Histogram 3 set up by the word `c`. -/
def withHist (c : Nat) (s : State) : State :=
  updErg (fun e => { e with hists := e.hists.upd 3 fun g => { g with cfg := w64 c } }) s
/-- The configuration of histogram 3 there. -/
abbrev hcfg (c : Nat) : W64 := ((withHist c live).erg.hists.get 3).cfg

theorem witness_HistogramsBinByTheirScale :
    (bit (hcfg 0x88084001) 31 = true ∧ fld (hcfg 0x88084001) 0 8 = 1 ∧ bit (hcfg 0x88084001) 14 = true ∧
      (some (0x11 : CtxId)).map BitVec.toNat ≠ some (fld (hcfg 0x88084001) 15 16)) ∧
    (bit (hcfg 0x80000601) 14 = false ∧ bit (hcfg 0x80000601) 8 = false ∧ fld (hcfg 0x80000601) 9 5 = 3 ∧ min 31 (256 / 2 ^ 3) = 31) ∧
    (bit (hcfg 0x8008C701) 14 = true ∧ some 0x11 = some (fld (hcfg 0x8008C701) 15 16) ∧ bit (hcfg 0x8008C701) 8 = true ∧
      fld (hcfg 0x8008C701) 9 5 = 3 ∧ 7 < 2 ^ 3 ∧ 2 ^ 3 ≤ 8 ∧ min 31 (Nat.log2 8 - 3 + 1) = 1) ∧
    ergCounts 1 live = true ∧ ergCounts 1 (inSt .clear live) = false ∧ ergCounts 9 (inSt .clear live) = true := by decide +kernel

/-! ### Witnesses: errors, supervision, reset -/

/-- Slot 3 of the error log holds a record whose action is `why`. -/
def logged (why : PendWhy) (s : State) : State := updUmp (fun u => { u with log := u.log.set 3 ⟨LogRec.zero, true, why⟩ }) s
/-- Engine 0 of cluster 0 has not answered a pre-emption for 5 ms. -/
def preemptHung (s : State) : State := withEng (fun g => { g with preReq := true, preSince := 979999999 }) s
/-- A narrow request of tag 1023 that went out at `t`. -/
def waitsSince (t : Nat) (late : Bool) (s : State) : State :=
  updPorts (fun p => { p with nm := [{ memQ with at_ := t, late := late }] }) s

/-- Interrupts on, for records of class 2 and more. -/
def irqOn (s : State) : State := updUmp (fun u => { u with cfg := w64 0x2800 }) s

theorem witness_LogSlotsAreFreedAndInterrupt :
    (live.ump.porN = true ∧ slotPending (logged .nothing live) 3 = false ∧ (8 : BitVec 16).getLsbD 3 = true ∧ slotPending (logged .reset (inSt .clear live)) 3 = true) ∧
    ((∃ i, logSlotFor (irqOn live) 2 = some i ∧ true = true) ∧ bit (irqOn live).ump.cfg 11 = true ∧ fld (irqOn live).ump.cfg 12 3 = 2 ∧
      (irqOn live).ump.irqWaiting = false) ∧
    ((∃ i, logSlotFor live 2 = some i ∧ true = true) ∧ bit live.ump.cfg 11 = false) ∧
    (∃ i, logSlotFor (updUmp (fun u => { u with irqWaiting := true }) (irqOn live)) 1 = some i ∧ true = true) :=
  ⟨by decide +kernel, ⟨some_of (f := fun _ => true) (by decide +kernel), by decide +kernel⟩,
    ⟨some_of (f := fun _ => true) (by decide +kernel), by decide +kernel⟩, some_of (f := fun _ => true) (by decide +kernel)⟩

theorem witness_ErrorsAndWatchdogsAct :
    (∃ s : State, s.rig.fwRunning = true ∧ s.ump.rst ≠ .dead ∧ s.ump.lastBeat + wdTime s 16 = s.now) ∧
    (engBuilt (preemptHung live) 0 0 = true ∧ engineHung (preemptHung live) ((preemptHung live).eng 0 0) = true ∧
      ((preemptHung live).eng 0 0).running = none ∧ ((preemptHung live).eng 0 0).presented = none) ∧
    (∃ s : State, computeUp s = true ∧ unitHung s 514 = true) ∧
    (∃ (q : Awaited), awaited (waitsSince 992000000 true live) 0 0 1023 = some q ∧ q.late = true ∧ q.at_ + 2 * msTu = live.now) ∧
    (∃ (q : Awaited), awaited (waitsSince 996000000 false live) 0 0 1023 = some q ∧ q.late = false ∧ q.at_ + msTu = live.now) ∧
    (blank live = false ∧ live.ump.rst = .run) :=
  ⟨⟨{ live with rig := { live.rig with fwRunning := true }, ump := { live.ump with lastBeat := 960000000 } }, by decide +kernel⟩,
    by decide +kernel, ⟨updCore 1 (fun c => { c with st := .exec, since := 799999999 }) live, by decide +kernel⟩,
    ⟨⟨islMar, 0x6000, 0x11, 992000000, true⟩, rfl, by decide +kernel⟩, ⟨⟨islMar, 0x6000, 0x11, 996000000, false⟩, rfl, by decide +kernel⟩, by decide +kernel⟩

/-- Clusters 0 and 1 wait for their reset, in the state `x` of the compute reset; or cluster 1 alone. -/
def rstWait (x : RstSt) (s : State) : State := inSt x (each [0, 1] (fun s c => updRow c (fun r => { r with rstReq := true }) s) s)
def rstWait1 (x : RstSt) (s : State) : State := inSt x (updRow 1 (fun r => { r with rstReq := true, rstAt := 920000000 }) s)
/-- A poisoned shared object 1 with a golden copy. -/
def golden (s : State) : State :=
  poisonObj 1 (updObj 1 (fun o => { o with shared := true, golden := true, goldenAddr := 0x30000 }) (withObj .live 1 s))

theorem witness_ResetGoesFromPhaseToPhase :
    (∃ s : State, s.ump.rst = .quiesce ∧ quiesced s = true ∧
      (each ((List.range s.build.clusters).flatMap fun c => rowReports (s.row c)) collectOne s).ump.rst = .quiesce) ∧
    (∃ s : State, s.ump.rst = .capture ∧ s.ump.capturedAt + msTu = s.now ∧ 1 ∉ s.ump.lateRows ∧ s.ump.dumpBusy = false) ∧
    (((rstWait .engReset live).row 1).rstReq = true ∧
      resetsOwed (updRow 1 (fun r => { r with rstReq := false, rstDone := true }) (rstWait .engReset live)) = true ∧
      resetsOwed (updRow 1 (fun r => { r with rstReq := false, rstDone := true }) (rstWait1 .engReset live)) = false ∧
      (live.row 1).rstReq = false) ∧
    (((rstWait1 .engReset live).row 1).rstReq = true ∧ ((rstWait1 .engReset live).row 1).rstAt + 20 * msTu = live.now) ∧
    (fencesDone (inSt .clear live) = true ∧ (inSt .clear live).ump.rst = .clear) ∧
    recoveryDone (inSt .recover live) = true ∧
    (computeUp (settlePoison (golden live)) = true ∧ ((settlePoison (golden live)).rack.objs.get 1).st ≠ .free ∧
      ((settlePoison (golden live)).rack.objs.get 1).poisoned = true ∧ ((settlePoison (golden live)).rack.objs.get 1).shared = true ∧
      ((settlePoison (golden live)).rack.objs.get 1).golden = true ∧ loopsBusy (settlePoison (golden live)) 1 = false ∧
      (settlePoison (golden live)).mem.refetchDue.contains 1 = true ∧ refetching (settlePoison (golden live)) 1 = false) :=
  ⟨⟨inSt .quiesce live, by decide +kernel⟩,
    ⟨updUmp (fun u => { u with capturedAt := 996000000 }) (inSt .capture live), by decide +kernel⟩,
    by decide +kernel, by decide +kernel, by decide +kernel, by decide +kernel, by decide +kernel⟩

/-! ### Witnesses: images -/

/-- The bytes of zeros. -/
abbrev zs (n : Nat) : List Byte := List.replicate n 0
/-- The sections of an image for the smallest build, from its offset 0x100: Foantong code of 64 zero bytes with its digest, the
engine classes (all 0), the crews (none) and Slide's word (all 0). -/
def imgBody : List Byte := leBytes 0 8 ++ leBytes 64 8 ++ Build.standInDigest ++ zs 4816
/-- The header of R415 and its directory of four entries, with the check code `crc`. -/
def imgHead (crc : Nat) : List Byte :=
  let b := Build.smallest
  let dir (id len off : Nat) : List Byte := leBytes (id + off * 2 ^ 32) 8 ++ leBytes len 8
  leBytes (0x52474952 + 2 ^ 32 + 3 * 2 ^ 48) 8 ++ leBytes (lndVersion / 65536 * 65536 + 0x1400 * 2 ^ 32) 8 ++ leBytes (lndBuildA b) 8 ++
  leBytes (lndBuildB b) 8 ++ leBytes (lndUnits b) 8 ++ leBytes (crc + 4 * 2 ^ 32) 8 ++ zs 16 ++
  dir 1 128 0x100 ++ dir 2 4 0x180 ++ dir 3 4608 0x1C0 ++ dir 5 64 0x13C0 ++ zs 128
/-- The whole image as memory answers it. -/
def img : MemRead := ⟨imgHead 3149427245 ++ imgBody, .ok⟩

/-- A fold that evaluates each intermediate number before it goes on. -/
def strictFold (f : Nat → Byte → Nat) : List Byte → Nat → Nat
  | [], c => c
  | x :: r, c => match f c x with
    | 0 => strictFold f r 0
    | k + 1 => strictFold f r (k + 1)
theorem strictFold_eq (f : Nat → Byte → Nat) (l : List Byte) : ∀ c, strictFold f l c = l.foldl f c := by
  induction l with
  | nil => intro c; rfl
  | cons x r ih =>
    intro c
    simp only [strictFold, List.foldl_cons]
    split <;> rename_i h <;> rw [ih, h]

/-- One step of the CRC. -/
abbrev crcStep (c : Nat) (x : Byte) : Nat := crc32Byte (c ^^^ x.toNat) 8
/-- The CRC over the first 48 bytes of the body, and then over sixteen runs of 301 zeros. -/
theorem crc_head : strictFold crcStep (leBytes 0 8 ++ leBytes 64 8 ++ Build.standInDigest) 0xFFFFFFFF = 2228268337 := by decide +kernel
theorem crc_runs :
    strictFold crcStep (zs 301) 2228268337 = 594251645 ∧
    strictFold crcStep (zs 301) 594251645 = 2359783609 ∧
    strictFold crcStep (zs 301) 2359783609 = 1378681747 ∧
    strictFold crcStep (zs 301) 1378681747 = 3948282692 ∧
    strictFold crcStep (zs 301) 3948282692 = 3115346577 ∧
    strictFold crcStep (zs 301) 3115346577 = 2507229149 ∧
    strictFold crcStep (zs 301) 2507229149 = 3028895032 ∧
    strictFold crcStep (zs 301) 3028895032 = 1969176000 ∧
    strictFold crcStep (zs 301) 1969176000 = 2304817140 ∧
    strictFold crcStep (zs 301) 2304817140 = 3560004128 ∧
    strictFold crcStep (zs 301) 3560004128 = 1457438117 ∧
    strictFold crcStep (zs 301) 1457438117 = 490961226 ∧
    strictFold crcStep (zs 301) 490961226 = 568756449 ∧
    strictFold crcStep (zs 301) 568756449 = 1528168145 ∧
    strictFold crcStep (zs 301) 1528168145 = 3616376912 ∧
    strictFold crcStep (zs 301) 3616376912 = 1145540050 := by
  decide +kernel
theorem crc32_steps (b : List Byte) : crc32 b = b.foldl crcStep 0xFFFFFFFF ^^^ 0xFFFFFFFF := rfl
theorem crc_zeros (n a b : Nat) (c d : Nat) (h : strictFold crcStep (zs a) c = d) (hn : n = a + b) :
    (zs n).foldl crcStep c = (zs b).foldl crcStep d := by
  subst hn
  rw [← h, strictFold_eq, zs, ← List.replicate_append_replicate, List.foldl_append]
theorem test_the_crc_of_the_image : crc32 imgBody = 3149427245 := by
  obtain ⟨r0, r1, r2, r3, r4, r5, r6, r7, r8, r9, r10, r11, r12, r13, r14, r15⟩ := crc_runs
  rw [crc32_steps, imgBody, List.foldl_append, ← strictFold_eq crcStep (_ ++ _ ++ _), crc_head,
    crc_zeros 4816 301 4515 _ _ r0 rfl,
    crc_zeros 4515 301 4214 _ _ r1 rfl,
    crc_zeros 4214 301 3913 _ _ r2 rfl,
    crc_zeros 3913 301 3612 _ _ r3 rfl,
    crc_zeros 3612 301 3311 _ _ r4 rfl,
    crc_zeros 3311 301 3010 _ _ r5 rfl,
    crc_zeros 3010 301 2709 _ _ r6 rfl,
    crc_zeros 2709 301 2408 _ _ r7 rfl,
    crc_zeros 2408 301 2107 _ _ r8 rfl,
    crc_zeros 2107 301 1806 _ _ r9 rfl,
    crc_zeros 1806 301 1505 _ _ r10 rfl,
    crc_zeros 1505 301 1204 _ _ r11 rfl,
    crc_zeros 1204 301 903 _ _ r12 rfl,
    crc_zeros 903 301 602 _ _ r13 rfl,
    crc_zeros 602 301 301 _ _ r14 rfl,
    crc_zeros 301 301 0 _ _ r15 rfl, zs, List.replicate_zero, List.foldl_nil]
  decide +kernel

theorem img_bytes : img.bytes = imgHead 3149427245 ++ imgBody := rfl
theorem img_header : badHeader Build.smallest img.bytes = none := by decide +kernel
theorem img_entries : badEntries Build.smallest img.bytes [] (directory img.bytes) = none := by decide +kernel
theorem img_copies : badCopyClass Build.smallest img.bytes = none := by decide +kernel
theorem img_digest : badDigest Build.smallest img.bytes = none := by decide +kernel
/-- The smallest build, self-test done and passed, with an object table and Rigger in the given state. -/
def rig (st : RigSt) (f : Rig → Rig) : State := { live with
  build := Build.smallest, rack := { Rack.reset with objBase := 0x1000000 }
  rig := f { Rig.reset with st := st, testDone := true, testPass := true, now := { Image.none with bytes := img.bytes } } }

theorem test_a_good_image_passes_its_checks : checkImage Build.smallest true img = none := by
  have crc : crc32 ((img.bytes.take (imgFld img.bytes 8 32 32)).drop 0x100) = imgFld img.bytes 0x28 0 32 := by
    have h1 : imgFld img.bytes 8 32 32 = 5120 := by decide +kernel
    have h2 : imgFld img.bytes 0x28 0 32 = 3149427245 := by decide +kernel
    have h3 : (imgHead 3149427245).length = 256 := by decide +kernel
    have h4 : imgBody.length = 4864 := by
      rw [imgBody, List.length_append, List.length_replicate]; decide +kernel
    have h5 : (img.bytes.take 5120).drop 256 = imgBody := by
      rw [img_bytes, List.take_of_length_le (Nat.le_of_eq (by rw [List.length_append, h3, h4])), ← h3, List.drop_left]
    rw [h1, h2, h5, test_the_crc_of_the_image]
  unfold checkImage
  rw [if_neg (by decide)]
  simp only [img_header, img_entries, img_copies, img_digest, crc, bne_self_eq_false, Bool.false_eq_true, if_false, if_true]

/-- Rigger has read that image. -/
abbrev imgRead (s : State) : State := readImage (stageBase s) img s

theorem witness_RiggerCommandsFollowItsState :
    (rigUp (rig .blank id) = true ∧ (rig .blank id).rig.testDone = true ∧ (rig .blank id).rack.objBase ≠ 0 ∧
      checkImage Build.smallest true ⟨[], .ok⟩ = some ⟨1, 0, 0⟩) ∧
    (rigUp (rig .applied id) = true ∧ swapLocked (rig .applied id) = false ∧ sameSection (imgRead (rig .applied id)) img.bytes 1 = true ∧
      sameSection (imgRead (rig .applied id)) img.bytes 5 = true ∧ sameSection (rig .applied id) img.bytes 5 = true ∧
      shapeUndefined (imgRead (rig .applied id)) (imageOf Build.smallest 0 img.bytes) = false ∧ blockQuiet (rig .applied id) = true) ∧
    (∃ s : State, rigUp s = true ∧ s.rig.st = .staged ∧ s.rig.staged = some Image.none ∧ swapLocked s = false) ∧
    (∃ s : State, rigUp s = true ∧ s.rig.st = .staged ∧ s.rig.staged = some Image.none ∧ swapLocked s = true) ∧
    (∀ st ∈ [RigSt.switched, .retiring], computeUp (rig st id) = true ∧ oldEntries (rig st id) = false ∧ oldHeats (rig st id) = false ∧
      oldCopies (rig st id) = false ∧ oldTrees (rig st id) = false ∧ oldPieces (rig st id) = false) ∧
    ((rig .applied id).ump.porN = true ∧ (rig .applied id).mar.seatEnable = 0 ∧ (rig .applied id).rig.testPass = true ∧
      (rig .applied id).rig.lock = false) :=
  ⟨by decide +kernel, by decide +kernel, ⟨rig .staged (fun r => { r with staged := some Image.none }), by decide +kernel⟩,
    ⟨rig .staged (fun r => { r with staged := some Image.none, lock := true, swapOk := false }), by decide +kernel⟩,
    by decide +kernel, by decide +kernel⟩

theorem witness_RiggerCommandsFollowItsState_rest :
    (∃ s : State, rigUp s = true ∧ s.rig.testDone = false) ∧
    (∃ s : State, rigUp s = true ∧ s.rig.testDone = true ∧ s.rig.st = .blank ∧ s.rack.objBase = 0) ∧
    (∃ s : State, rigUp s = true ∧ s.rig.st = .applied ∧ s.rig.lock = true ∧ swapLocked s = true) ∧
    (∃ s : State, rigUp s = true ∧ s.rig.st = .applied ∧ s.rig.lock = false ∧ blockQuiet s = false) ∧
    (∃ s : State, s.ump.porN = true ∧ s.rig.st ≠ .blank ∧ s.rig.testPass = true ∧ bit s.mar.seatEnable 0 = true) :=
  ⟨⟨rig .blank (fun r => { r with testDone := false }), by decide +kernel⟩,
    ⟨updRack (fun k => { k with objBase := 0 }) (rig .blank id), by decide +kernel⟩,
    ⟨rig .applied (fun r => { r with lock := true, swapOk := false }), by decide +kernel⟩, ⟨withCtx 3 .live (rig .applied id), by decide +kernel⟩,
    updMar (fun m => { m with seatEnable := 1 }) (rig .applied id), by decide +kernel⟩

/-! ### Single steps with the results the spec states -/

/-- The state a command leaves, or the one it found when it stops. -/
def after (c : Instr) (s : State) : State := match exec c s with | .next t => t | .fault _ => s | .refused _ => s
/-- The answer of a 64-bit read of the register window. -/
def rd (addr : BitVec 25) (s : State) : W64 := (after (.readClear true addr) s).ports.hostRead

/-- The check value of R87. -/
theorem test_crc16_check_value : crc16 [0x31, 0x32, 0x33, 0x34, 0x35, 0x36, 0x37, 0x38, 0x39] = 0x906E := by decide +kernel
/-- The known answer of Philox4x32-10 (R289) for a zero counter and a zero key. -/
theorem test_philox_known_answer : philox (0, 0, 0, 0) (0, 0) 10 = 0x6627E8D5 := by decide +kernel
/-- Reset values of R7, R98, R152, R366, R374 and R410. -/
theorem test_reset_registers :
    rd 0x0 State.reset = 0x03010003 ∧ State.reset.mar.seatCfg = 0x3200C8 ∧
    State.reset.cox.cfg = 4096 ∧ State.reset.wake.cfg = 0xA07D0 ∧ State.reset.erg.cfg = 0x10000A ∧ State.reset.ump.wd = 0xA3205 := by
  decide +kernel
/-- One clock cycle of an empty queue is 40 tu: 10 ns. -/
theorem test_an_idle_cycle : (match step live with | .next t => t.now | .fault _ => 0 | .refused _ => 0) = 1000000040 := by decide +kernel
/-- CREATE with context 0x11 of weight 3 in MAR_CTX_DESC; KILL of it is logged with class 3, E_CONTEXT_KILLED. -/
theorem test_create_and_kill :
    ((after .create (updSlot 0 (fun x => { x with desc := 0x300000011 }) live)).slot 0).weight = 3 ∧
    ((after .kill (withCtx 0 .live live)).slot 0).st = .failed ∧
    ((after .kill (withCtx 0 .live live)).ump.log.get 0).entry.cls = 3 ∧
    ((after .kill (withCtx 0 .live live)).ump.log.get 0).entry.code = 0x60 := by
  decide +kernel
/-- The last reference gone, an object's entry is free with the next generation (R60, R65). -/
theorem test_the_last_reference_frees :
    ((after (.refSub 1) (withObj .freeing 1 live)).rack.objs.get 1).st = .free ∧
    ((after (.refSub 1) (withObj .freeing 1 live)).rack.objs.get 1).gen = 1 := by
  decide +kernel
/-- ADDC wraps at 2^64 and sets Z (R122); LOOP counts down from 0 to 2^64 - 1 and branches (R125). -/
theorem test_addc_wraps_and_loop_counts :
    ((after (.wAddc 0) (onWord (fun p => { p with regs := p.regs.set 5 0xFFFFFFFFFFFFFFFF }) [0x5511, 0, 1, 0] live)).prog? 0).map
      (fun p => (p.regs.get 5, p.z, p.pc)) = some (0, true, 1) ∧
    ((after (.wLoop 0) (onWord id [0x504, 3, 0, 0] live)).prog? 0).map (fun p => (p.regs.get 5, p.pc)) = some (0xFFFFFFFFFFFFFFFF, 3) := by
  decide +kernel
/-- SHL by 65 shifts by 1 (R122). -/
theorem test_shift_takes_six_bits :
    ((after (.wAddc 0) (onWord (fun p => { p with regs := p.regs.set 5 3 }) [0x505511, 0, 65, 0] live)).prog? 0).map
      (fun p => p.regs.get 5) = some 6 := by
  decide +kernel
/-- A reserved opcode fails the entry with class 2, E_BAD_OPCODE (R119). -/
theorem test_a_reserved_opcode_fails :
    ((after (.wNop 0) (onWord id [0x99, 0, 0, 0] live)).work? (.entry 0 5)).map (·.failed) = some (some (2, 0xA0)) := by
  decide +kernel
/-- SIGNALF issues one MAXU of the value in the program's context (R73, R132). -/
theorem test_signalf_issues_maxu :
    (after (.wSignalf 0) (onWord id [0x21, 0x5000, 9, 0] live)).ports.at_.map (fun q => (q.op, q.addr, q.ctx, q.opnd)) =
      [(opMaxu, 0x5000, 0x11, 9)] := by
  decide +kernel
/-- A pre-emption acknowledged that was not asked for is against the port's protocol (R205). -/
theorem test_pre_ack_without_request :
    exec (.preAckRise 0 0) live = .fault (.portProtocol "eng_pre_ack") := rfl
/-- An arrival for a context that is not resident is parked; a second one adds to it (R226, R227). -/
theorem test_arrivals_are_parked :
    ((after (.arrival 1 3 5 0x11) (after (.arrival 1 3 4 0x11) live)).row 1).parked = [(0x11, 3, 9)] := by decide +kernel
/-- A class-4 error begins the compute reset with its cause (R391, R394). -/
theorem test_driver_reset_begins_quiesce :
    (after .driverReset live).ump.rst = .quiesce ∧ (after .driverReset live).ump.cause = 0x1CB := by decide +kernel
/-- LOCK keeps its bits (R429). -/
theorem test_lock_holds :
    ((after (.lock 0) (after (.lock 1) live)).rig.lock, (after (.lock 2) (after (.lock 1) live)).rig.swapOk) = (true, false) := by
  decide +kernel

end Sys2Proof.Tests
end

/-! Operations on references (R63, R65): the checks of `refAddOp` and `refSubOp` one by one, and what a command or a word does
when one of them fails. -/
namespace Sys2Proof.Machine

section References
variable {who : Option CtxId} {h : W32} {n k seat : Nat} {e : BitVec 16} {s : State} {p : Prog} {w : CWord}

/-! ### The checks in their order -/

/-- The access check of R65 fails exactly for a context that is not the owner of an object that is not shared. -/
theorem objDenied_iff {o : Obj} : objDenied o who = true ↔ ∃ c, who = some c ∧ o.shared = false ∧ c ≠ o.owner := by
  cases who with
  | none => simp [objDenied]
  | some c => simp [objDenied, eq_comm (a := c)]

/-- Access in R65's own words passes the check. -/
theorem objDenied_eq_false {o : Obj} (ha : ∀ c, who = some c → o.shared = true ∨ c = o.owner) : objDenied o who = false := by
  rw [Bool.eq_false_iff, ne_eq, objDenied_iff]
  rintro ⟨c, hc, hshared, howner⟩
  rcases ha c hc with hs | ho
  · simp [hshared] at hs
  · exact howner ho

theorem refAddOp_of_denied (hs : objStale s h = false) (hd : objDenied (objOf s h) who = true) :
    refAddOp who h n s = .error eObjectAccess := by
  simp [refAddOp, hs, hd]

theorem refSubOp_of_denied (hs : objStale s h = false) (hd : objDenied (objOf s h) who = true) :
    refSubOp who h n s = .error eObjectAccess := by
  simp [refSubOp, hs, hd]

theorem refAddOp_of_overflow (hs : objStale s h = false) (hd : objDenied (objOf s h) who = false)
    (hf : (objOf s h).st ≠ .forced) (ho : 0xFFFFFFFF < (objOf s h).refs + n) :
    refAddOp who h n s = .error eRefOverflow := by
  simp [refAddOp, hs, hd, hf, ho]

theorem refSubOp_of_underflow (hs : objStale s h = false) (hd : objDenied (objOf s h) who = false)
    (hu : (objOf s h).refs < n) : refSubOp who h n s = .error eRefUnderflow := by
  simp [refSubOp, hs, hd, hu]

/-! ### A host command whose operation fails (R70) -/

@[simp] theorem objStatus_objs : (objStatus n h s).rack.objs = s.rack.objs := rfl

theorem powered_of_porN (hp : s.ump.porN = true) (t : State) : powered s t = .next t := by
  simp [powered, hp]

theorem objCommand_error (hb : blank s = false) : objCommand h (.error e) s = objStatus (objResult e) h s := by
  simp [objCommand, hb]

/-- A failed host command writes the status registers and leaves the object table as it was. -/
theorem powered_objCommand_error_objs (hp : s.ump.porN = true) (hb : blank s = false) :
    Gives (powered s (objCommand h (.error e) s)) fun t => t.rack.objs = s.rack.objs :=
  ⟨objStatus (objResult e) h s, by rw [powered_of_porN hp, objCommand_error hb], objStatus_objs⟩

theorem exec_refAdd_error_objs (hp : s.ump.porN = true) (hb : blank s = false) (he : refAddOp none h 1 s = .error e) :
    Gives (exec (.refAdd h) s) fun t => t.rack.objs = s.rack.objs := by
  have hx : exec (.refAdd h) s = powered s (objCommand h (refAddOp none h 1 s) s) := rfl
  rw [hx, he]
  exact powered_objCommand_error_objs hp hb

theorem exec_refSub_error_objs (hp : s.ump.porN = true) (hb : blank s = false) (he : refSubOp none h 1 s = .error e) :
    Gives (exec (.refSub h) s) fun t => t.rack.objs = s.rack.objs := by
  have hx : exec (.refSub h) s = powered s (objCommand h (refSubOp none h 1 s) s) := rfl
  rw [hx, he]
  exact powered_objCommand_error_objs hp hb

/-! ### A word whose operation fails (R141, R142) -/

/-- A failed operation is logged with the handle in info; the entry fails with class 1. -/
theorem rackWord_error : rackWord k seat p (.error e) h s = ownerError p.owner 1 { wordRec s k seat p e with info := h.toNat } s :=
  rfl

/-- REFADD counts itself and then hands its operation to Rack. -/
theorem exec_wRefadd_of_issues (hi : Issues s k 0x52 seat p w) :
    exec (.wRefadd k) s = .next (refaddWord k seat p w (countWord k seat p s)) :=
  congrArg Host.Outcome.next (runWord_free hi refaddWord)

/-- REFSUB counts itself and then hands its operation to Rack or puts it off. -/
theorem exec_wRefsub_of_issues (hi : Issues s k 0x53 seat p w) :
    exec (.wRefsub k) s = .next (refsubWord k seat p w (countWord k seat p s)) :=
  congrArg Host.Outcome.next (runWord_free hi refsubWord)

theorem refaddWord_eq_rackWord : refaddWord k seat p w s =
    rackWord k seat p (refAddOp (some p.ctx) (w32 (operandV p.regs w).toNat) (refCount w) (unreplayable p.owner s))
      (w32 (operandV p.regs w).toNat) (unreplayable p.owner s) :=
  rfl

/-- With opf[28] = 1 the drop is not put off. -/
theorem refsubWord_eq_rackWord (hnow : w.opf % 2 = 1) : refsubWord k seat p w s =
    rackWord k seat p (refSubOp (some p.ctx) (w32 (operandV p.regs w).toNat) (refCount w) (unreplayable p.owner s))
      (w32 (operandV p.regs w).toNat) (unreplayable p.owner s) :=
  if_pos (beq_iff_eq.2 hnow)

end References

/-- Settles O20: each failing check by its own lemma, the host commands by their status registers, the words by `rackWord`. -/
theorem failedReferencesLeaveTheEntry : Obligations.FailedReferencesLeaveTheEntry := by
  unfold Obligations.FailedReferencesLeaveTheEntry
  refine ⟨fun who h n s hs => ⟨fun c hc hshared howner => ?denied, fun ha => ⟨fun hu => ?underflow, fun hf ho => ?overflow⟩⟩,
    fun h e s hp hb => ⟨exec_refAdd_error_objs hp hb, exec_refSub_error_objs hp hb⟩, ?words⟩
  case denied =>
    have hd : objDenied (objOf s h) who = true := objDenied_iff.2 ⟨c, hc, hshared, howner⟩
    exact ⟨refAddOp_of_denied hs hd, refSubOp_of_denied hs hd⟩
  case underflow => exact refSubOp_of_underflow hs (objDenied_eq_false ha) hu
  case overflow => exact refAddOp_of_overflow hs (objDenied_eq_false ha) hf ho
  case words =>
    rintro k seat p w _ e s _ rfl rfl
    constructor
    · intro hi he
      rw [exec_wRefadd_of_issues hi, refaddWord_eq_rackWord, he, rackWord_error]
    · intro hi hnow he
      rw [exec_wRefsub_of_issues hi, refsubWord_eq_rackWord hnow, he, rackWord_error]

end Sys2Proof.Machine

/-! Erg's histograms (R369): the bin of a value on either scale, what a histogram that takes a value changes, and that one whose
context filter the value does not pass changes nothing. -/
namespace Sys2Proof.Machine

section Histograms
variable {want : Bool} {i : Option Nat} {cfg : W64} {id v h n : Nat} {ctx : Option CtxId} {s : State}

/-! ### The context filter -/

theorem qualOk_iff : qualOk want n i = true ↔ want = false ∨ i = some n := by
  unfold qualOk
  cases want <;> simp

theorem qualOk_eq_false (hw : want = true) (hi : i ≠ some n) : qualOk want n i = false :=
  Bool.eq_false_iff.2 fun hq => (qualOk_iff.1 hq).elim (fun hf => Bool.false_ne_true (hf.symm.trans hw)) hi

/-! ### The bin of a value -/

theorem histBin_linear (hm : bit cfg 8 = false) : histBin cfg v = min 31 (v / 2 ^ fld cfg 9 5) := by
  simp [histBin, hm]

theorem histBin_log_below (hm : bit cfg 8 = true) (hv : v < 2 ^ fld cfg 9 5) : histBin cfg v = 0 := by
  simp [histBin, hm, hv]

theorem histBin_log_above (hm : bit cfg 8 = true) (hv : 2 ^ fld cfg 9 5 ≤ v) :
    histBin cfg v = min 31 (Nat.log2 v - fld cfg 9 5 + 1) := by
  simp [histBin, hm, Nat.not_lt.2 hv]

/-- The two scales, the log one with its two ranges, leave a value one bin. -/
theorem eq_histBin {b : Nat} (linear : bit cfg 8 = false → b = min 31 (v / 2 ^ fld cfg 9 5))
    (below : bit cfg 8 = true → v < 2 ^ fld cfg 9 5 → b = 0)
    (above : bit cfg 8 = true → 2 ^ fld cfg 9 5 ≤ v → b = min 31 (Nat.log2 v - fld cfg 9 5 + 1)) : b = histBin cfg v := by
  cases hm : bit cfg 8 with
  | false => rw [linear hm, histBin_linear hm]
  | true =>
    rcases Nat.lt_or_ge v (2 ^ fld cfg 9 5) with hv | hv
    · rw [below hm hv, histBin_log_below hm hv]
    · rw [above hm hv, histBin_log_above hm hv]

/-! ### A value at a histogram -/

/-- The histogram with a value counted in its bin. -/
def Hist.binned (g : Hist) (v : Nat) : Hist := { g with bins := g.bins.upd (histBin g.cfg v) fun n => satAdd 32 n 1 }

theorem Hist.binned_get_bin (g : Hist) (v : Nat) :
    (g.binned v).bins.get (histBin g.cfg v) = min 0xFFFFFFFF (g.bins.get (histBin g.cfg v) + 1) :=
  (tab_get_upd ..).trans (if_pos rfl)

theorem Hist.binned_get_other (g : Hist) {v k : Nat} (hk : k ≠ histBin g.cfg v) : (g.binned v).bins.get k = g.bins.get k :=
  (tab_get_upd ..).trans (if_neg hk)

theorem histOne_of_filtered
    (hf : qualOk (bit (s.erg.hists.get h).cfg 14) (fld (s.erg.hists.get h).cfg 15 16) (ctx.map BitVec.toNat) = false) :
    histOne id v ctx s h = s := by
  simp [histOne, hf]

theorem histOne_of_passed (he : bit (s.erg.hists.get h).cfg 31 = true) (hid : fld (s.erg.hists.get h).cfg 0 8 = id)
    (hf : qualOk (bit (s.erg.hists.get h).cfg 14) (fld (s.erg.hists.get h).cfg 15 16) (ctx.map BitVec.toNat) = true) :
    histOne id v ctx s h =
      { s with erg := { s.erg with hists := s.erg.hists.set h ((s.erg.hists.get h).binned v) } } := by
  simp [histOne, he, hid, hf, Hist.binned]

/-! ### A value at Erg -/

theorem ergValue_of_counts {q : Qual} (hc : ergCounts id s = true) :
    ergValue id v q s = ergCount id 1 q (each (List.range 4) (histOne id v q.ctx) s) :=
  if_pos hc

end Histograms

/-- Settles O56: a value the filter rejects leaves the state; one it passes changes the histogram's own bin, and `eq_histBin` says
which that is. -/
theorem histogramsBinByTheirScale : Obligations.HistogramsBinByTheirScale := by
  unfold Obligations.HistogramsBinByTheirScale
  refine ⟨?_, fun id v q s hc => ergValue_of_counts hc⟩
  rintro id v h sh b ctx g s t rfl he hid rfl rfl
  refine ⟨fun hw hctx => histOne_of_filtered (qualOk_eq_false hw hctx), fun hf linear below above => ?_⟩
  obtain rfl := eq_histBin linear below above
  rw [histOne_of_passed he hid (qualOk_iff.2 hf)]
  have hself : (s.erg.hists.set h ((s.erg.hists.get h).binned v)).get h = (s.erg.hists.get h).binned v :=
    (tab_get_set ..).trans (if_pos rfl)
  dsimp only
  rw [hself]
  exact ⟨Hist.binned_get_bin _ v, fun k => Hist.binned_get_other _, fun j hj => (tab_get_set ..).trans (if_neg hj), rfl⟩

end Sys2Proof.Machine

/-! Umpire's error log (R381): what a write to UMP_LOG_STATUS.valid frees, what a record that takes a slot writes there, and when
its interrupt is raised. -/
namespace Sys2Proof.Machine

section ErrorLog
variable {bits : BitVec 16} {why : PendWhy} {r : LogRec} {l : LogSlot} {i cls : Nat} {s : State}

/-! ### Freeing slots -/

/-- The slot when it holds no record any more. -/
def LogSlot.freed (l : LogSlot) : LogSlot := { l with valid := false }

/-- One slot of the log freed. -/
def freeSlot (s : State) (i : Nat) : State := updUmp (fun u => { u with log := u.log.upd i LogSlot.freed }) s

/-- The slots that a write of `bits` frees in `s`. -/
def slotsToFree (bits : BitVec 16) (s : State) : List Nat := (List.range 16).filter fun i => bits.getLsbD i && !(slotPending s i)

theorem mem_slotsToFree : i ∈ slotsToFree bits s ↔ i < 16 ∧ bits.getLsbD i = true ∧ slotPending s i = false := by
  simp [slotsToFree]

theorem freeSlot_log_get (s : State) (i j : Nat) :
    (freeSlot s i).ump.log.get j = if j = i then (s.ump.log.get i).freed else s.ump.log.get j := tab_get_upd ..

@[simp] theorem LogSlot.freed_freed (l : LogSlot) : l.freed.freed = l.freed := rfl

/-- Freeing slots one after another frees those of the list and leaves the others. -/
theorem each_freeSlot_log_get (is : List Nat) (s : State) (i : Nat) :
    (each is freeSlot s).ump.log.get i = if i ∈ is then (s.ump.log.get i).freed else s.ump.log.get i := by
  induction is generalizing s with
  | nil => rfl
  | cons j is ih =>
    have hcons : each (j :: is) freeSlot s = each is freeSlot (freeSlot s j) := rfl
    rw [hcons, ih, freeSlot_log_get]
    by_cases hij : i = j
    · simp [hij]
    · simp [hij]

theorem logFreeOp_log_get (bits : BitVec 16) (s : State) (i : Nat) : (logFreeOp bits s).ump.log.get i =
    if i ∈ slotsToFree bits s then (s.ump.log.get i).freed else s.ump.log.get i := each_freeSlot_log_get ..

/-! ### A record that takes a slot -/

/-- The error noted in its island's hang ring (R387). -/
def noteError (r : LogRec) (s : State) : State :=
  hangEv r.island 0x0A (put r.cls 0 7 + put r.code.toNat 7 16 + put r.info 32 32) s

@[simp] theorem noteError_log : (noteError r s).ump.log = s.ump.log := by rw [noteError, hangEv_eq]
@[simp] theorem noteError_cfg : (noteError r s).ump.cfg = s.ump.cfg := by rw [noteError, hangEv_eq]
@[simp] theorem noteError_irqWaiting : (noteError r s).ump.irqWaiting = s.ump.irqWaiting := by rw [noteError, hangEv_eq]
@[simp] theorem noteError_ports : (noteError r s).ports = s.ports := hangEv_ports ..

theorem logSlotFor_noteError (r : LogRec) (s : State) (cls : Nat) : logSlotFor (noteError r s) cls = logSlotFor s cls := by
  simp [logSlotFor]

/-- What the slot that a record takes holds (R379, R380). -/
def newSlot (why : PendWhy) (r : LogRec) (s : State) : LogSlot :=
  ⟨{ r with time := s.now, nested := (List.range 16).any (slotPending s) }, true, why⟩

/-- Slot `i` written, once the records whose action is finished are settled. -/
def writeSlot (i : Nat) (l : LogSlot) (s : State) : State := updUmp (fun u => { u with log := (settleLog s).set i l }) s

/-- A record of class `cls` raises the interrupt (R381). -/
def errorIrqDue (cls : Nat) (s : State) : Bool :=
  bit s.ump.cfg 11 && decide (fld s.ump.cfg 12 3 ≤ cls) && !s.ump.irqWaiting

/-- The interrupt of a record of class `cls`, if it is due. -/
def errorIrq (cls : Nat) (s : State) : State :=
  if errorIrqDue cls s then raiseIrq (fld s.ump.cfg 0 11) (updUmp (fun u => { u with irqWaiting := true }) s) else s

theorem errorIrqDue_iff :
    errorIrqDue cls s = true ↔ bit s.ump.cfg 11 = true ∧ fld s.ump.cfg 12 3 ≤ cls ∧ s.ump.irqWaiting = false := by
  simp [errorIrqDue, and_assoc]

theorem errorIrqDue_eq_false (h : bit s.ump.cfg 11 = false ∨ cls < fld s.ump.cfg 12 3 ∨ s.ump.irqWaiting = true) :
    errorIrqDue cls s = false := by
  rw [Bool.eq_false_iff, ne_eq, errorIrqDue_iff]
  rintro ⟨hen, hcls, hfree⟩
  rcases h with hoff | hlow | hbusy
  · simp [hen] at hoff
  · omega
  · simp [hfree] at hbusy

theorem errorIrq_of_due (hd : errorIrqDue cls s = true) :
    errorIrq cls s = raiseIrq (fld s.ump.cfg 0 11) (updUmp (fun u => { u with irqWaiting := true }) s) := if_pos hd

theorem errorIrq_of_not_due (hd : errorIrqDue cls s = false) : errorIrq cls s = s :=
  if_neg (Bool.eq_false_iff.1 hd)

@[simp] theorem errorIrq_log : (errorIrq cls s).ump.log = s.ump.log := by
  unfold errorIrq
  split <;> rfl

theorem errorIrqDue_written : errorIrqDue cls (writeSlot i l (noteError r s)) = errorIrqDue cls s := by
  simp [errorIrqDue, writeSlot]

/-- Erg freezes on a record of class `cls` when it is set up to (R372). -/
def freezeOnError (cls : Nat) (s : State) : State :=
  if bit s.erg.freeze 3 && decide (fld s.erg.freeze 4 3 ≤ cls) then freezeStart s else s

theorem freezeOnError_eq (cls : Nat) (s : State) : freezeOnError cls s = { s with erg := (freezeOnError cls s).erg } := by
  unfold freezeOnError freezeStart
  repeat' split
  all_goals rfl

@[simp] theorem freezeOnError_ump : (freezeOnError cls s).ump = s.ump := by rw [freezeOnError_eq]
@[simp] theorem freezeOnError_ports : (freezeOnError cls s).ports = s.ports := by rw [freezeOnError_eq]

/-- What logging a record does in turn when a slot is free for it. -/
theorem logRec_of_slot (hi : logSlotFor s r.cls = some i) :
    logRec why r s = freezeOnError r.cls (errorIrq r.cls (writeSlot i (newSlot why r s) (noteError r s))) := by
  have hnoted : logSlotFor (noteError r s) r.cls = some i := (logSlotFor_noteError ..).trans hi
  unfold logRec
  extract_lets nested rec_ s1 u s2
  have hs2 : s2 = errorIrq r.cls (writeSlot i (newSlot why r s) (noteError r s)) := by
    change logSlotFor s1 r.cls = some i at hnoted
    simp only [s2, hnoted]
    rfl
  change freezeOnError r.cls s2 = _
  rw [hs2]

theorem logRec_log_get (hi : logSlotFor s r.cls = some i) : (logRec why r s).ump.log.get i = newSlot why r s := by
  rw [logRec_of_slot hi, freezeOnError_ump, errorIrq_log]
  exact (tab_get_set ..).trans (if_pos rfl)

theorem logRec_irq_of_due (hi : logSlotFor s r.cls = some i) (hd : errorIrqDue r.cls s = true) :
    (logRec why r s).ports.irqs = s.ports.irqs ++ [fld s.ump.cfg 0 11] ∧ (logRec why r s).ump.irqWaiting = true := by
  rw [logRec_of_slot hi, errorIrq_of_due (errorIrqDue_written.trans hd)]
  simp [raiseIrq, writeSlot]

theorem logRec_irq_of_not_due (hi : logSlotFor s r.cls = some i) (hd : errorIrqDue r.cls s = false) :
    (logRec why r s).ports.irqs = s.ports.irqs ∧ (logRec why r s).ump.irqWaiting = s.ump.irqWaiting := by
  rw [logRec_of_slot hi, errorIrq_of_not_due (errorIrqDue_written.trans hd)]
  simp [writeSlot]

/-! ### The driver's commands -/

theorem exec_logFree (hp : s.ump.porN = true) : exec (.logFree bits) s = .next (logFreeOp bits s) := powered_of_porN hp _

theorem exec_logStatusRead (hp : s.ump.porN = true) : exec .logStatusRead s = .next (logStatusReadOp s) := powered_of_porN hp _

end ErrorLog

/-- Settles O57: a write frees the slots of `slotsToFree`, and a record that takes a slot interrupts exactly when `errorIrqDue`. -/
theorem logSlotsAreFreedAndInterrupt : Obligations.LogSlotsAreFreedAndInterrupt := by
  unfold Obligations.LogSlotsAreFreedAndInterrupt
  refine ⟨fun bits i s hp hi => ⟨_, exec_logFree hp, ?freed, ?ignored⟩, ?logged, fun s hp => ⟨_, exec_logStatusRead hp, rfl, rfl, rfl⟩⟩
  case freed =>
    intro hbit hpend
    exact (logFreeOp_log_get ..).trans (if_pos (mem_slotsToFree.2 ⟨hi, hbit, hpend⟩))
  case ignored =>
    intro hkept
    refine (logFreeOp_log_get ..).trans (if_neg fun hmem => ?_)
    obtain ⟨-, hbit, hpend⟩ := mem_slotsToFree.1 hmem
    rcases hkept with hzero | hpending
    · simp [hbit] at hzero
    · simp [hpend] at hpending
  case logged =>
    rintro why r i s _ rfl hi
    rw [logRec_log_get hi]
    exact ⟨rfl, rfl, fun hen hcls hfree => logRec_irq_of_due hi (errorIrqDue_iff.2 ⟨hen, hcls, hfree⟩),
      fun hnot => logRec_irq_of_not_due hi (errorIrqDue_eq_false hnot)⟩

end Sys2Proof.Machine

/-! What every command answers: no refusal, the fault for an absent unit only outside the build, and otherwise a state that keeps
what `Keeps` names. -/
namespace Sys2Proof.Machine

section Outcomes
variable {s t : State} {c : Instr}

/-- A command that refuses nothing, and that ends in the fault for an absent unit only where it is not well formed. -/
def Answers (wf : Bool) : Out → Prop
  | .next _ => True
  | .fault (.portProtocol _) => True
  | .fault (.notBuilt _) => wf = false
  | .refused _ => False

theorem Answers.ne_refused {wf : Bool} {o : Out} (h : Answers wf o) (r : Refusal) : o ≠ .refused r := by
  rintro rfl
  exact h

theorem Answers.ne_notBuilt {wf : Bool} {o : Out} (h : Answers wf o) (hw : wf = true) (u : String) : o ≠ .fault (.notBuilt u) := by
  rintro rfl
  exact Bool.false_ne_true (Eq.trans (Eq.symm h) hw)

/-- A check of the build that a well-formed command has passed. -/
theorem answers_unless_built {wf b : Bool} {o : Out} {u : String} (hb : wf = true → b = true) (ho : Answers wf o) :
    Answers wf (if !b then .fault (.notBuilt u) else o) := by
  cases b with
  | true => exact ho
  | false => exact Bool.eq_false_iff.2 fun hw => Bool.false_ne_true (hb hw)

theorem answers_unless_lacking {wf : Bool} {n c : Nat} {o : Out} {u : String} (hb : wf = true → c < n) (ho : Answers wf o) :
    Answers wf (if n ≤ c then .fault (.notBuilt u) else o) := by
  split
  · next hc => exact Bool.eq_false_iff.2 fun hw => absurd (hb hw) (Nat.not_lt.2 hc)
  · exact ho

/-- A check of a port's own protocol. -/
theorem answers_unless_violated {wf b : Bool} {o : Out} {port : String} (ho : Answers wf o) :
    Answers wf (if b then .fault (.portProtocol port) else o) := by
  cases b
  · exact ho
  · trivial

/-- A branch that goes on with a state. -/
theorem answers_next_or {wf : Bool} {p : Prop} [Decidable p] {o : Out} (ho : Answers wf o) :
    Answers wf (if p then .next t else o) := by
  split
  · trivial
  · exact ho

theorem ringCmd_answers {wf : Bool} (f : State → State) : Answers wf (ringCmd f s) := answers_unless_violated trivial
theorem hsigCmd_answers {wf : Bool} (f : State → State) : Answers wf (hsigCmd f s) := answers_unless_violated trivial
theorem loopCmd_answers {wf : Bool} (f : State → State) : Answers wf (loopCmd f s) := answers_unless_violated trivial

theorem crossTake_answers {kind : Nat} {msg : List W64} {go : State → State} :
    Answers (crossingMsg s.build msg) (crossTake kind msg s go) := by
  refine answers_unless_built (fun hw => ?_) (answers_unless_violated (answers_next_or trivial))
  rw [crossingMsg, Bool.and_eq_true] at hw
  exact hw.1

theorem engine_answers {c e : Nat} {o : Out} {u : String} (ho : Answers (s.build.isEngine c e) o) :
    Answers (s.build.isEngine c e) (if !(engBuilt s c e) then .fault (.notBuilt u) else o) := answers_unless_built id ho

theorem cluster_answers {c : Nat} {wf : Bool} {o : Out} {u : String} (hc : wf = true → s.build.isCluster c = true)
    (ho : Answers wf o) : Answers wf (if s.build.clusters ≤ c then .fault (.notBuilt u) else o) :=
  answers_unless_lacking (fun hw => of_decide_eq_true (hc hw)) ho

theorem watch_answers {e : Nat} {o : Out} {u : String} (ho : Answers (s.build.isWatch e) o) :
    Answers (s.build.isWatch e) (if !(watchBuilt s e) then .fault (.notBuilt u) else o) := answers_unless_built id ho

theorem and_left_of_eq_true {a b : Bool} (h : (a && b) = true) : a = true := (Bool.and_eq_true_iff.1 h).1

theorem exec_answers (c : Instr) (s : State) : Answers (c.wf s.build) (exec c s) := by
  cases c
  case bind | unbind | restart | abandon | pin | unpin | update => exact ringCmd_answers _
  case hostSignal | hostFail => exact hsigCmd_answers _
  case loopStart | loopStartClear | loopStop | loopDrain | reload => exact loopCmd_answers _
  case crossingSignal | crossingAck | crossingReject => exact crossTake_answers
  case mapRegister | unregister => exact answers_unless_violated trivial
  case linkDown =>
    show Answers s.build.hasCrossing (if s.build.hasCrossing then _ else _)
    cases s.build.hasCrossing <;> trivial
  case linkUp => exact answers_unless_built id (answers_unless_violated trivial)
  case catchCmd | preAckRise | preAckFall =>
    refine engine_answers (answers_next_or ?_)
    dsimp only
    split <;> trivial
  case finish =>
    refine engine_answers (answers_next_or ?_)
    dsimp only
    split
    · trivial
    · exact answers_next_or trivial
  case engineErrorReport =>
    exact engine_answers (answers_next_or (answers_unless_violated (answers_next_or (answers_next_or trivial))))
  case rpResponse =>
    refine cluster_answers (fun hw => and_left_of_eq_true (and_left_of_eq_true hw)) ?_
    split
    · trivial
    · exact answers_next_or (answers_next_or trivial)
  case holdComplete => exact cluster_answers and_left_of_eq_true trivial
  case arrival | restoreBegin | rowlockReportTimeout | clusterResetLate => exact cluster_answers id trivial
  case clusterResetDone =>
    exact cluster_answers id (answers_unless_violated (answers_next_or trivial))
  case mwResponse =>
    refine watch_answers (answers_next_or (answers_unless_violated ?_))
    split <;> trivial
  case notice => exact watch_answers (answers_next_or trivial)
  case wkResponse =>
    dsimp only [exec, execWkResponse]
    split
    · trivial
    · split
      · trivial
      · exact answers_next_or (answers_next_or (answers_next_or (answers_next_or trivial)))
  case wdResponse =>
    dsimp only [exec, execWdResponse]
    split
    · trivial
    · exact answers_next_or (answers_next_or (answers_next_or trivial))
  case registerWrite | nmResponse | hmResponse | atResponse =>
    dsimp only [exec, execRegisterWrite, execNmResponse, execHmResponse, execAtResponse]
    split <;> trivial
  all_goals trivial

/-- Every command but POR_N_ASSERT keeps what `Keeps` names. -/
theorem exec_keeps (hc : c ≠ .porNAssert) : KeepsOut s (exec c s) := by
  have h : Keeps s s := Keeps.refl s
  cases c with
  | porNAssert => exact absurd rfl hc
  | porNRelease => exact execPorNRelease_keeps h
  | selftestDone => exact execSelftestDone_keeps h
  | registerWrite => exact execRegisterWrite_keeps h
  | readClear => exact execReadClear_keeps h
  | create => exact execCreate_keeps h
  | stop => exact execStop_keeps h
  | resume => exact execResume_keeps h
  | kill => exact execKill_keeps h
  | teardown => exact execTeardown_keeps h
  | setWeight => exact execSetWeight_keeps h
  | contextFreed => exact execContextFreed_keeps h
  | objectRegister => exact execObjectRegister_keeps h
  | refAdd => exact execRefAdd_keeps h
  | refSub => exact execRefSub_keeps h
  | objectFree => exact execObjectFree_keeps h
  | forceFree => exact execForceFree_keeps h
  | objectQuery => exact execObjectQuery_keeps h
  | hostSignal => exact execHostSignal_keeps h
  | hostFail => exact execHostFail_keeps h
  | doorbell => exact execDoorbell_keeps h
  | doorbellStorm => exact execDoorbellStorm_keeps h
  | stormLook => exact execStormLook_keeps h
  | stormEnd => exact execStormEnd_keeps h
  | invalidate => exact execInvalidate_keeps h
  | dbRelease => exact execDbRelease_keeps h
  | entryFetched => exact execEntryFetched_keeps h
  | entryReread => exact execEntryReread_keeps h
  | bind => exact execBind_keeps h
  | unbind => exact execUnbind_keeps h
  | restart => exact execRestart_keeps h
  | abandon => exact execAbandon_keeps h
  | pin => exact execPin_keeps h
  | unpin => exact execUnpin_keeps h
  | update => exact execUpdate_keeps h
  | seatPolicy => exact execSeatPolicy_keeps h
  | irqHoldoffEnd => exact execIrqHoldoffEnd_keeps h
  | entryTimeout => exact execEntryTimeout_keeps h
  | coreTakeSeat => exact execCoreTakeSeat_keeps h
  | sliceYield => exact execSliceYield_keeps h
  | seatResume => exact execSeatResume_keeps h
  | wNop => exact execWNop_keeps h
  | wEnd => exact execWEnd_keeps h
  | wJump => exact execWJump_keeps h
  | wBranch => exact execWBranch_keeps h
  | wLoop => exact execWLoop_keeps h
  | wCallc => exact execWCallc_keeps h
  | wRetc => exact execWRetc_keeps h
  | wSetc => exact execWSetc_keeps h
  | wAddc => exact execWAddc_keeps h
  | wLoadc => exact execWLoadc_keeps h
  | wStorec => exact execWStorec_keeps h
  | wAtomc => exact execWAtomc_keeps h
  | wWaitf => exact execWWaitf_keeps h
  | wSignalf => exact execWSignalf_keeps h
  | wSignalx => exact execWSignalx_keeps h
  | wWaitt => exact execWWaitt_keeps h
  | waittRelease => exact execWaittRelease_keeps h
  | waitTimeout => exact execWaitTimeout_keeps h
  | wLaunch => exact execWLaunch_keeps h
  | wCrewlaunch => exact execWCrewlaunch_keeps h
  | treeAccept => exact execTreeAccept_keeps h
  | wBarrier => exact execWBarrier_keeps h
  | wSavectx => exact execWSavectx_keeps h
  | wLoadctx => exact execWLoadctx_keeps h
  | wAlloc => exact execWAlloc_keeps h
  | wFree => exact execWFree_keeps h
  | wRefadd => exact execWRefadd_keeps h
  | wRefsub => exact execWRefsub_keeps h
  | wKvgrow => exact execWKvgrow_keeps h
  | wKvtrim => exact execWKvtrim_keeps h
  | wJudge => exact execWJudge_keeps h
  | wEnqueue => exact execWEnqueue_keeps h
  | wMark => exact execWMark_keeps h
  | wHeatend => exact execWHeatend_keeps h
  | courseRecord => exact execCourseRecord_keeps h
  | coursePatch => exact execCoursePatch_keeps h
  | courseRetire => exact execCourseRetire_keeps h
  | courseQuery => exact execCourseQuery_keeps h
  | piece => exact execPiece_keeps h
  | crewPiece => exact execCrewPiece_keeps h
  | cancel => exact execCancel_keeps h
  | hold => exact execHold_keeps h
  | release => exact execRelease_keeps h
  | cancelSend => exact execCancelSend_keeps h
  | chunkRequest => exact execChunkRequest_keeps h
  | rpResponse => exact execRpResponse_keeps h
  | present => exact execPresent_keeps h
  | catchCmd => exact execCatchCmd_keeps h
  | finish => exact execFinish_keeps h
  | engineErrorReport => exact execEngineErrorReport_keeps h
  | pieceReport => exact execPieceReport_keeps h
  | activeYield => exact execActiveYield_keeps h
  | preAckRise => exact execPreAckRise_keeps h
  | preAckFall => exact execPreAckFall_keeps h
  | holdComplete => exact execHoldComplete_keeps h
  | alignedStart => exact execAlignedStart_keeps h
  | staggerStart => exact execStaggerStart_keeps h
  | nmResponse => exact execNmResponse_keeps h
  | atResponse => exact execAtResponse_keeps h
  | hmResponse => exact execHmResponse_keeps h
  | mwResponse => exact execMwResponse_keeps h
  | notice => exact execNotice_keeps h
  | noticeLost => exact execNoticeLost_keeps h
  | wdResponse => exact execWdResponse_keeps h
  | wkResponse => exact execWkResponse_keeps h
  | pollRead => exact execPollRead_keeps h
  | lingerExpiry => exact execLingerExpiry_keeps h
  | arrival => exact execArrival_keeps h
  | arrivalStall => exact execArrivalStall_keeps h
  | crossingSignal => exact execCrossingSignal_keeps h
  | crossingAck => exact execCrossingAck_keeps h
  | crossingReject => exact execCrossingReject_keeps h
  | ackFlush => exact execAckFlush_keeps h
  | resend => exact execResend_keeps h
  | giveUp => exact execGiveUp_keeps h
  | linkDown => exact execLinkDown_keeps h
  | linkReset => exact execLinkReset_keeps h
  | linkUp => exact execLinkUp_keeps h
  | loopStart => exact execLoopStart_keeps h
  | loopStartClear => exact execLoopStartClear_keeps h
  | loopStop => exact execLoopStop_keeps h
  | loopDrain => exact execLoopDrain_keeps h
  | reload => exact execReload_keeps h
  | rqDoorbell => exact execRqDoorbell_keeps h
  | requestPoll => exact execRequestPoll_keeps h
  | requestNew => exact execRequestNew_keeps h
  | requestCancel => exact execRequestCancel_keeps h
  | rqRingRestart => exact execRqRingRestart_keeps h
  | resultConsumed => exact execResultConsumed_keeps h
  | gateRelease => exact execGateRelease_keeps h
  | gateRetry => exact execGateRetry_keeps h
  | heatPlace => exact execHeatPlace_keeps h
  | heatSaveDone => exact execHeatSaveDone_keeps h
  | heatSwitchDone => exact execHeatSwitchDone_keeps h
  | heatGrowDone => exact execHeatGrowDone_keeps h
  | heatRunDone => exact execHeatRunDone_keeps h
  | heatJudgeDone => exact execHeatJudgeDone_keeps h
  | heatCommit => exact execHeatCommit_keeps h
  | heatTimeout => exact execHeatTimeout_keeps h
  | kvSpill => exact execKvSpill_keeps h
  | accountingItem => exact execAccountingItem_keeps h
  | accountingPeriod => exact execAccountingPeriod_keeps h
  | judgeJobAccept => exact execJudgeJobAccept_keeps h
  | judgeRequest => exact execJudgeRequest_keeps h
  | poolEnable => exact execPoolEnable_keeps h
  | poolDisable => exact execPoolDisable_keeps h
  | copyPieceLaunch => exact execCopyPieceLaunch_keeps h
  | mapRegister => exact execMapRegister_keeps h
  | unregister => exact execUnregister_keeps h
  | restoreBegin => exact execRestoreBegin_keeps h
  | strokeEnable => exact execStrokeEnable_keeps h
  | strokeDisable => exact execStrokeDisable_keeps h
  | strokePeriod => exact execStrokePeriod_keeps h
  | telemetrySample => exact execTelemetrySample_keeps h
  | alertBegin => exact execAlertBegin_keeps h
  | alertEnd => exact execAlertEnd_keeps h
  | stuckAlert => exact execStuckAlert_keeps h
  | alertUnstuck => exact execAlertUnstuck_keeps h
  | telemetryStale => exact execTelemetryStale_keeps h
  | tsPulse => exact execTsPulse_keeps h
  | stuckInput => exact execStuckInput_keeps h
  | inputUnstuck => exact execInputUnstuck_keeps h
  | streamEnable => exact execStreamEnable_keeps h
  | streamConsumed => exact execStreamConsumed_keeps h
  | traceFlush => exact execTraceFlush_keeps h
  | statusLinePublish => exact execStatusLinePublish_keeps h
  | timeRecord => exact execTimeRecord_keeps h
  | sampleInterval => exact execSampleInterval_keeps h
  | pubEnable => exact execPubEnable_keeps h
  | freezeStart => exact execFreezeStart_keeps h
  | freezeEnd => exact execFreezeEnd_keeps h
  | trigIn => exact execTrigIn_keeps h
  | trig1Clear => exact execTrig1Clear_keeps h
  | logFree => exact execLogFree_keeps h
  | logStatusRead => exact execLogStatusRead_keeps h
  | engineWatchdog => exact execEngineWatchdog_keeps h
  | unitWatchdog => exact execUnitWatchdog_keeps h
  | firmwareHeartbeat => exact execFirmwareHeartbeat_keeps h
  | firmwareWatchdog => exact execFirmwareWatchdog_keeps h
  | responseWatchdog => exact execResponseWatchdog_keeps h
  | driverReset => exact execDriverReset_keeps h
  | quiesceDone => exact execQuiesceDone_keeps h
  | rowlockReportTimeout => exact execRowlockReportTimeout_keeps h
  | captureDone => exact execCaptureDone_keeps h
  | clusterResetDone => exact execClusterResetDone_keeps h
  | clusterResetLate => exact execClusterResetLate_keeps h
  | clearDone => exact execClearDone_keeps h
  | recoverDone => exact execRecoverDone_keeps h
  | dumpRequest => exact execDumpRequest_keeps h
  | refetchStart => exact execRefetchStart_keeps h
  | load => exact execLoad_keeps h
  | stage => exact execStage_keeps h
  | swap => exact execSwap_keeps h
  | rigCancel => exact execRigCancel_keeps h
  | swapOldDrained => exact execSwapOldDrained_keeps h
  | swapRetired => exact execSwapRetired_keeps h
  | applyQuiesced => exact execApplyQuiesced_keeps h
  | lock => exact execLock_keeps h
  | seatEnable => exact execSeatEnable_keeps h
  | timeLock => exact execTimeLock_keeps h
  | freezeInstant => exact execFreezeInstant_keeps h

theorem exec_next_keeps (hc : c ≠ .porNAssert) (he : exec c s = .next t) : Keeps s t := by
  have h : KeepsOut s (exec c s) := exec_keeps hc
  rwa [he] at h

end Outcomes

/-- Settles O1: the step is defined by the front of the queue. -/
theorem stepRunsTheFrontCommand : Obligations.StepRunsTheFrontCommand := fun _ _ _ => rfl

/-- Settles O3: no arm of the dispatch refuses. -/
theorem noCommandIsRefused : Obligations.NoCommandIsRefused := fun c s r => (exec_answers c s).ne_refused r

/-- Settles O4: a command that names an absent unit is not well formed. -/
theorem wellFormedCommandsNameBuiltUnits : Obligations.WellFormedCommandsNameBuiltUnits :=
  fun c s u hw => (exec_answers c s).ne_notBuilt hw u

/-- Settles O5: POR_N_ASSERT names both fields, and every other command keeps them. -/
theorem commandsKeepQueueAndBuild : Obligations.CommandsKeepQueueAndBuild := by
  intro c s t he
  by_cases hc : c = .porNAssert
  · subst hc
    obtain rfl := Host.Outcome.next.inj he
    exact ⟨rfl, rfl⟩
  · have hk : Keeps s t := exec_next_keeps hc he
    exact ⟨hk.pending, hk.build⟩

section Steps
variable {s t : State}

/-- The queue is no part of what `Keeps` names but itself. -/
theorem step_keeps (hp : s.pending.head? ≠ some .porNAssert) (ht : step s = .next t) :
    Keeps { s with pending := s.pending.tail } t := by
  obtain ⟨q, hq⟩ : ∃ q, s.pending = q := ⟨_, rfl⟩
  unfold step at ht
  rw [hq] at ht hp ⊢
  cases q with
  | nil =>
    obtain rfl := Host.Outcome.next.inj ht
    have hs : { s with pending := [] } = s := by rw [← hq]
    rw [List.tail_nil, hs]
    exact tick_keeps s
  | cons c rest => exact exec_next_keeps (fun hc => hp (congrArg some hc)) ht

/-- A step that runs POR_N_ASSERT leaves the block in reset. -/
theorem step_porNAssert (hp : s.pending.head? = some .porNAssert) (ht : step s = .next t) :
    t = porNAssertOp { s with pending := s.pending.tail } := by
  obtain ⟨rest, hq⟩ : ∃ rest, s.pending = .porNAssert :: rest := by
    cases hs : s.pending with
    | nil => rw [hs] at hp; cases hp
    | cons c rest => rw [hs] at hp; exact ⟨rest, congrArg (· :: rest) (Option.some.inj hp)⟩
  unfold step at ht
  rw [hq] at ht ⊢
  exact (Host.Outcome.next.inj ht).symm

/-- What every other command keeps, and reset meets, every step keeps. -/
theorem stepKeeps_of_keeps {inv : State → Prop} (hq : ∀ s : State, inv s → inv { s with pending := s.pending.tail })
    (hk : ∀ s t : State, Keeps s t → inv s → inv t) (hr : ∀ s, inv (porNAssertOp s)) : StepKeeps inv := by
  intro s t hi ht
  by_cases hp : s.pending.head? = some .porNAssert
  · rw [step_porNAssert hp ht]
    exact hr _
  · exact hk _ _ (step_keeps hp ht) (hq s hi)

end Steps

/-- Settles O6: `Keeps.dead` over the step. -/
theorem onlyPorNLeavesDead : Obligations.OnlyPorNLeavesDead := fun _ _ hd hp ht => (step_keeps hp ht).dead hd

/-- Settles O7: `Keeps.time` over the step. -/
theorem masterTimeNeverDecreases : Obligations.MasterTimeNeverDecreases := fun _ _ hp ht => (step_keeps hp ht).time

/-- Settles O8: `Keeps.lock` over the step. -/
theorem lockHoldsUntilPorN : Obligations.LockHoldsUntilPorN := fun _ _ hl hp ht => (step_keeps hp ht).lock hl

section AtReset

/-- Every slot of a table filled with a FREE one is FREE. -/
theorem idsDistinct_const {x : Slot} (hx : x.st = .free) : IdsDistinct (Tab.const x) :=
  ⟨hx, fun _ _ _ _ hi => absurd hx hi⟩

theorem tagsDistinct_reset : TagsDistinct Ports.reset :=
  ⟨List.nodup_nil, List.nodup_nil, List.nodup_nil, List.nodup_nil⟩

theorem hangBounded_const : HangBounded (Tab.const []) := fun _ => Nat.zero_le _

theorem lastSlotFive_const {l : LogSlot} (hl : l.valid = false) : LastSlotFive (Tab.const l) :=
  fun hv => absurd (Eq.trans (Eq.symm hl) hv) Bool.false_ne_true

end AtReset

/-- Settles O9: only CREATE gives a slot an id, one that no slot holds (`updSlot_new`); reset frees every slot. -/
theorem contextIdsStayDistinct : Obligations.ContextIdsStayDistinct :=
  stepKeeps_of_keeps (fun _ h => h) (fun _ _ hk => hk.ids) fun _ => idsDistinct_const rfl

/-- Settles O10: a request takes the least tag that its port does not hold (`nodup_snoc`); reset empties the ports. -/
theorem portTagsStayDistinct : Obligations.PortTagsStayDistinct :=
  stepKeeps_of_keeps (fun _ h => h) (fun _ _ hk => hk.tags) fun _ => tagsDistinct_reset

/-- Settles O11: `hangEv_keeps` and `logRec_keeps` over the step; reset empties the rings and the log. -/
theorem errorRecordsKeepTheirBounds : Obligations.ErrorRecordsKeepTheirBounds :=
  ⟨stepKeeps_of_keeps (fun _ h => h) (fun _ _ hk => hk.hang) fun _ => hangBounded_const,
    stepKeeps_of_keeps (fun _ h => h) (fun _ _ hk => hk.last) fun _ => lastSlotFive_const rfl⟩

/-- Settles O12: every table is filled with its reset entry and every port is empty. -/
theorem resetMeetsTheInvariants : Obligations.ResetMeetsTheInvariants :=
  ⟨idsDistinct_const rfl, tagsDistinct_reset, hangBounded_const, lastSlotFive_const rfl⟩

/-- Settles O13: each field's reset value is the one the spec states, and a table without entries reads its default everywhere. -/
theorem resetLeavesTheSpecsValues : Obligations.ResetLeavesTheSpecsValues :=
  ⟨rfl, rfl, rfl, rfl, rfl, fun _ => rfl, rfl, fun _ => rfl, fun _ => rfl, rfl, fun _ => ⟨rfl, rfl⟩, fun _ _ => rfl, fun _ => rfl⟩

end Sys2Proof.Machine

/-! The control words of flow and arithmetic (R121, R122, R125, R161): a word that works on its own program alone is one change of
that program after another. -/
namespace Sys2Proof.Machine

section OwnProgram
variable {k seat op : Nat} {p q : Prog} {w : CWord} {s t : State}

/-- A word has left its program as `q` and changed nothing else but what the frame of a word allows. -/
def WordLeaves (seat : Nat) (s : State) (q : Prog) (t : State) : Prop := WordFrame seat s t ∧ t.prog? seat = some q

theorem Issues.leaves (h : Issues s k op seat p w) : WordLeaves seat s p.counted (countWord k seat p s) := ⟨h.frame, h.counted⟩

theorem WordLeaves.updProg (h : WordLeaves seat s q t) (f : Prog → Prog) : WordLeaves seat s (f q) (Machine.updProg seat f t) :=
  ⟨h.1.updProg f, by rw [updProg_prog, h.2, Option.map_some]⟩

theorem WordLeaves.advance (h : WordLeaves seat s q t) : WordLeaves seat s q.past (Machine.advance seat t) :=
  h.updProg fun p => { p with pc := p.pc + 1 }

theorem WordLeaves.wakeEv (h : WordLeaves seat s q t) (i n : Nat) (b : Bool) (c : Option CtxId) (l : List W64) :
    WordLeaves seat s q (Machine.wakeEv i n b c l t) :=
  ⟨h.1.wakeEv i n b c l, by unfold State.prog? State.seat; rw [wakeEv_mar]; exact h.2⟩

/-- Counting a word takes no time. -/
theorem Issues.now_counted (h : Issues s k op seat p w) : (countWord k seat p s).now = s.now := congrArg Tkp.now h.frame.tkp

/-- A word that no full resource holds back answers what its meaning makes of the counted state. -/
theorem Issues.gives_free (h : Issues s k op seat p w) (go : WordMeaning)
    (hq : WordLeaves seat s q (go k seat p w (countWord k seat p s))) :
    Gives (.next (runWord op false go k s)) (WordLeaves seat s q) :=
  ⟨_, congrArg Host.Outcome.next (runWord_free h go), hq⟩

/-! ### Flow -/

theorem wNop_gives (h : Issues s k 0x00 seat p w) : Gives (exec (.wNop k) s) (WordLeaves seat s p.counted.past) :=
  h.gives_free nopWord h.leaves.advance

theorem wJump_gives (h : Issues s k 0x02 seat p w) (ha : operandA p.regs w < p.len) :
    Gives (exec (.wJump k) s) (WordLeaves seat s { p.counted with pc := operandA p.regs w }) := by
  refine h.gives_free jumpWord ?_
  unfold jumpWord
  rw [if_neg (Nat.not_le.2 ha)]
  exact h.leaves.updProg fun p' => { p' with pc := operandA p.regs w }

theorem wBranch_gives (h : Issues s k 0x03 seat p w) (ha : fld w.w1 0 24 < p.len) :
    Gives (exec (.wBranch k) s) (WordLeaves seat s
      (if branchTaken w.sub (p.regs.get w.ra) (operandV p.regs w) p.z p.f
        then { p.counted with pc := fld w.w1 0 24 } else p.counted.past)) := by
  refine h.gives_free branchWord ?_
  unfold branchWord
  rw [if_neg (Nat.not_le.2 ha)]
  split
  · exact h.leaves.updProg fun p' => { p' with pc := fld w.w1 0 24 }
  · exact h.leaves.advance

/-- A program whose loop register counts down (R125). -/
def Prog.looped (w : CWord) (n : W64) (p : Prog) : Prog := { p with regs := p.regs.set w.rd n, z := zOf n, zown := none }

theorem wLoop_gives (h : Issues s k 0x04 seat p w) (ha : fld w.w1 0 24 < p.len) :
    Gives (exec (.wLoop k) s) (WordLeaves seat s { p.counted with
      regs := p.regs.set w.rd (p.regs.get w.rd - 1), z := zOf (p.regs.get w.rd - 1), zown := none,
      pc := if p.regs.get w.rd - 1 = 0 then p.pc + 1 else fld w.w1 0 24 }) := by
  refine h.gives_free loopWord ?_
  have hl : WordLeaves seat s (p.counted.looped w (p.regs.get w.rd - 1))
      (updProg seat (Prog.looped w (p.regs.get w.rd - 1)) (countWord k seat p s)) := h.leaves.updProg _
  unfold loopWord
  rw [if_neg (Nat.not_le.2 ha)]
  by_cases hz : p.regs.get w.rd - 1 = 0
  · simp only [if_pos hz]
    exact hl.advance
  · simp only [if_neg hz]
    exact hl.updProg fun p' => { p' with pc := fld w.w1 0 24 }

theorem wRetc_gives {fr : Frame} {rest : List Frame} (h : Issues s k 0x06 seat p w) (hf : p.frames = fr :: rest) :
    Gives (exec (.wRetc k) s) (WordLeaves seat s { p.counted with
      frames := rest, pc := fr.retPc, base := fr.base, len := fr.len, tag := fr.tag,
      regs := (((p.regs.set 12 fr.c12).set 13 fr.c13).set 14 fr.c14).set 15 fr.c15 }) := by
  refine h.gives_free retcWord ?_
  unfold retcWord
  rw [hf]
  exact h.leaves.updProg _

/-! ### Arithmetic -/

theorem wSetc_gives (h : Issues s k 0x10 seat p w) :
    Gives (exec (.wSetc k) s) (WordLeaves seat s { p.counted.past with regs := p.regs.set w.rd (match w.sub with
      | 0 => operandV p.regs w
      | 1 => w64 s.now
      | 2 => flagsWord p.z p.f
      | _ => selfWord p.ctx p.owner seat k) }) := by
  refine h.gives_free setcWord ?_
  unfold setcWord
  rw [h.now_counted]
  exact WordLeaves.advance (h.leaves.updProg _)

theorem wAddc_gives (h : Issues s k 0x11 seat p w) :
    Gives (exec (.wAddc k) s) (WordLeaves seat s { p.counted.past with
      regs := p.regs.set w.rd (addcResult w.sub (p.regs.get w.ra) (operandV p.regs w)),
      z := zOf (addcResult w.sub (p.regs.get w.ra) (operandV p.regs w)), zown := none }) :=
  h.gives_free addcWord (WordLeaves.advance (h.leaves.updProg _))

theorem addcResult_shl (a v : W64) : (addcResult 5 a v).toNat = a.toNat * 2 ^ (v.toNat % 64) % 2 ^ 64 := by
  rw [addcResult, BitVec.toNat_shiftLeft, Nat.shiftLeft_eq]

theorem addcResult_shr (a v : W64) : (addcResult 6 a v).toNat = a.toNat / 2 ^ (v.toNat % 64) := by
  rw [addcResult, BitVec.toNat_ushiftRight, Nat.shiftRight_eq_div_pow]

theorem zOf_iff (a : W64) : zOf a = true ↔ a = 0 := beq_iff_eq

end OwnProgram

/-- Settles O27: each word by what its meaning makes of the counted program. -/
theorem flowWordsSetThePc : Obligations.FlowWordsSetThePc := fun _ _ _ _ _ =>
  ⟨wNop_gives, wJump_gives, wBranch_gives, wLoop_gives, fun _ _ => wRetc_gives⟩

/-- Settles O28: the two words as for O27, and each sub-operation by its own equation. -/
theorem arithmeticWordsWriteOneRegister : Obligations.ArithmeticWordsWriteOneRegister :=
  ⟨fun _ _ _ _ _ => ⟨wSetc_gives, wAddc_gives⟩,
    fun a v => ⟨rfl, rfl, rfl, rfl, rfl, addcResult_shl a v, addcResult_shr a v, rfl, zOf_iff a⟩⟩

end Sys2Proof.Machine

/-! The control words of memory, waiting and signalling (R126, R128, R129, R132, R133, R145): the equation of each word's meaning where
its checks pass, where a full resource holds it, and where a check fails. -/
namespace Sys2Proof.Machine

section MemoryWords
variable {k seat op : Nat} {p : Prog} {w : CWord} {ctx : CtxId} {s : State}

/-! ### How a row answers a word that issues -/

/-- A word that no full resource can hold back. -/
theorem next_free (h : Issues s k op seat p w) {go : WordMeaning} {t : State} (ht : go k seat p w (countWord k seat p s) = t) :
    Host.Outcome.next (runWord op false go k s) = (.next t : Out) :=
  congrArg Host.Outcome.next ((runWord_free h go).trans ht)

/-- A word that a full resource could hold back, and that leaves the cores alone. -/
theorem next_of_cox (h : Issues s k op seat p w) {go : WordMeaning} {t : State} (ht : go k seat p w (countWord k seat p s) = t)
    (hx : t.cox = (countWord k seat p s).cox) : Host.Outcome.next (runWord op true go k s) = (.next t : Out) :=
  congrArg Host.Outcome.next ((runWord_of_cox h true go ((congrArg State.cox ht).trans hx)).trans ht)

/-- A word that a full resource could hold back, and that does not. -/
theorem next_of_notHeld (h : Issues s k op seat p w) {go : WordMeaning} {t : State} (ht : go k seat p w (countWord k seat p s) = t)
    (hn : NotHeld k t) : Host.Outcome.next (runWord op true go k s) = (.next t : Out) :=
  congrArg Host.Outcome.next ((runWord_of_notHeld h true go (ht ▸ hn)).trans ht)

/-- A word that a full resource holds back has not issued: its core stalls in the state before it (R149). -/
theorem next_of_held (h : Issues s k op seat p w) {go : WordMeaning} {t : State} {y : Stall} (hy : y = .order ∨ y = .tree)
    (ht : go k seat p w (countWord k seat p s) = stallCore k y t) :
    Host.Outcome.next (runWord op true go k s) = (.next (stallCore k y s) : Out) := by
  rw [runWord_issues h, ht]
  rcases hy with rfl | rfl <;> simp [stallCore]

/-- A word that a unit works on: its core holds it, and it has issued (R150). -/
theorem next_of_unit (h : Issues s k op seat p w) {go : WordMeaning} {t : State}
    (ht : go k seat p w (countWord k seat p s) = stallCore k .unit t) :
    Host.Outcome.next (runWord op true go k s) = (.next (stallCore k .unit t) : Out) :=
  congrArg Host.Outcome.next (runWord_of_stall h true go t .unit (by decide) (by decide) ht)

@[simp] theorem advance_cox : (advance seat s).cox = s.cox := rfl
@[simp] theorem moreReqs_cox (o : Owner) : (moreReqs o s).cox = s.cox := rfl
@[simp] theorem unreplayable_cox (o : Owner) : (unreplayable o s).cox = s.cox := rfl

/-! ### LOADC, STOREC and ATOMC -/

/-- What LOADC makes of a state with a tag free on the narrow path. -/
def loadcSent (k seat : Nat) (p : Prog) (w : CWord) (ctx : CtxId) (s : State) : State :=
  advance seat (updProg seat (fun p => { p with zown := some (0, leastFree (s.ports.nm.map (·.tag)) s.ports.nm.length 0) })
    (issueNm false (operandA p.regs w) ctx [] (memSize w.sub) seat (.loadc p.owner seat w.rd (memSize w.sub) p.pos)
      (islCox k) (moreReqs p.owner s)))

theorem loadcWord_eq (hc : actCtx s p w = .ok ctx) (ha : operandA p.regs w % memSize w.sub = 0)
    (hp : poisonedAt s (operandA p.regs w) (memSize w.sub) = false) :
    loadcWord k seat p w s = if portTags ≤ s.ports.nm.length then stallCore k .order s else loadcSent k seat p w ctx s := by
  simp [loadcWord, hc, ha, hp, loadcSent]

/-- What STOREC makes of a state with a tag free on the narrow path. -/
def storecSent (k seat : Nat) (p : Prog) (w : CWord) (ctx : CtxId) (s : State) : State :=
  advance seat (issueNm true (operandA p.regs w) ctx (leBytes (operandV p.regs w).toNat (memSize w.sub)) (memSize w.sub) seat
    (.storec p.owner seat p.pos) (islCox k) (moreReqs p.owner s))

theorem storecWord_eq (hc : actCtx s p w = .ok ctx) (ha : operandA p.regs w % memSize w.sub = 0) :
    storecWord k seat p w s = if portTags ≤ s.ports.nm.length then stallCore k .order s else storecSent k seat p w ctx s := by
  simp [storecWord, hc, ha, storecSent]

/-- The operand that ATOMC compares with (R126). -/
def atomcCmp (p : Prog) (w : CWord) : W64 := if w.opf % 2 == 1 then p.regs.get w.rd else w.w3

/-- ATOMC of an operation that a replay would repeat makes its entry unreplayable (R393). -/
def atomcMarked (p : Prog) (w : CWord) (s : State) : State :=
  if w.sub = opAdd ∨ w.sub = opSwap ∨ w.sub = opCas then unreplayable p.owner s else s

@[simp] theorem atomcMarked_cox : (atomcMarked p w s).cox = s.cox := by
  unfold atomcMarked
  split <;> rfl

/-- What ATOMC makes of a state with a tag free on the atomic port. -/
def atomcSent (k seat : Nat) (p : Prog) (w : CWord) (ctx : CtxId) (s : State) : State :=
  advance seat (updProg seat (fun p => { p with zown := some (1, leastFree (s.ports.at_.map (·.tag)) s.ports.at_.length 0) })
    (issueAt w.sub (operandA p.regs w) ctx (operandV p.regs w) (atomcCmp p w)
      (.atomc p.owner seat w.rd (if w.sub = opCas then some (atomcCmp p w) else none) p.pos) (islCox k)
      (moreReqs p.owner (atomcMarked p w s))))

theorem atomcWord_eq (hc : actCtx s p w = .ok ctx) (ha : operandA p.regs w % 8 = 0) (hp : poisonedAt s (operandA p.regs w) 8 = false) :
    atomcWord k seat p w s = if portTags ≤ s.ports.at_.length then stallCore k .order s else atomcSent k seat p w ctx s := by
  simp [atomcWord, hc, ha, hp, atomcSent, atomcCmp, atomcMarked, or_assoc]

@[simp] theorem loadcSent_cox : (loadcSent k seat p w ctx s).cox = s.cox := by simp [loadcSent]
@[simp] theorem storecSent_cox : (storecSent k seat p w ctx s).cox = s.cox := by simp [storecSent]
@[simp] theorem atomcSent_cox : (atomcSent k seat p w ctx s).cox = s.cox := by simp [atomcSent]

end MemoryWords

/-- Settles O30: each word's equation, a free tag leaving the cores alone and a full port holding the word. -/
theorem memoryWordsSendOneRequest : Obligations.MemoryWordsSendOneRequest := by
  rintro k seat p w ctx s _ rfl hc
  refine ⟨fun h ha hp ht => ?loadc, fun h ha ht => ?storec, fun h ha hp ht cmp s2 hcmp hs2 => ?atomc,
    fun ht ha => ⟨fun h hp => ?loadcHeld, fun h => ?storecHeld⟩, fun ht ha hp h => ?atomcHeld⟩
  case loadc => exact next_of_cox h ((loadcWord_eq hc ha hp).trans (if_neg (Nat.not_le.2 ht))) loadcSent_cox
  case storec => exact next_of_cox h ((storecWord_eq hc ha).trans (if_neg (Nat.not_le.2 ht))) storecSent_cox
  case atomc =>
    subst hcmp hs2
    exact next_of_cox h ((atomcWord_eq hc ha hp).trans (if_neg (Nat.not_le.2 ht))) atomcSent_cox
  case loadcHeld => exact next_of_held h (.inl rfl) ((loadcWord_eq hc ha hp).trans (if_pos ht))
  case storecHeld => exact next_of_held h (.inl rfl) ((storecWord_eq hc ha).trans (if_pos ht))
  case atomcHeld => exact next_of_held h (.inl rfl) ((atomcWord_eq hc ha hp).trans (if_pos ht))

section WaitWords
variable {k seat : Nat} {p : Prog} {w : CWord} {ctx : CtxId} {s : State}

/-! ### Waiting and signalling -/

/-- A fence word's operands are good: an aligned address, and bit 63 of the value clear (R128, R132, R133). -/
def fenceOk (p : Prog) (w : CWord) : Prop := operandA p.regs w % 8 = 0 ∧ bit (operandV p.regs w) 63 = false

theorem fenceOk_check (hf : fenceOk p w) : (operandA p.regs w % 8 != 0 || bit (operandV p.regs w) 63) = false := by
  simp [hf.1, hf.2]

theorem waitfWord_eq (hf : fenceOk p w) (hc : actCtx s p w = .ok ctx) (hp : poisonedAt s (operandA p.regs w) 8 = false) :
    waitfWord k seat p w s = stallCore k .unit (registerWait seat (operandA p.regs w) ctx (operandV p.regs w) none
      (updProg seat (fun q => { q with
        issuedAt := s.now, deadline := deadlineOf s.now w.imm, park := .waitf w.rd w.soft (operandA p.regs w),
        released := false }) s)) := by
  simp [waitfWord, fenceOk_check hf, hc, hp]

theorem signalfWord_eq (hf : fenceOk p w) (hc : actCtx s p w = .ok ctx) :
    signalfWord k seat p w s = localSignal seat p (operandA p.regs w) (operandV p.regs w) ctx s := by
  simp [signalfWord, fenceOk_check hf, hc]

theorem signalxWord_local (hf : fenceOk p w) (hc : actCtx s p w = .ok ctx) (hd : w16 w.imm = chipId s) :
    signalxWord k seat p w s = localSignal seat p (operandA p.regs w) (operandV p.regs w) ctx s := by
  simp [signalxWord, fenceOk_check hf, hc, hd]

/-- The record of a SIGNALX to another chip (R233). -/
def signalRec (seat : Nat) (p : Prog) (w : CWord) (ctx : CtxId) (s : State) : OutRec :=
  ⟨w16 w.imm, w32 (s.stb.nextSeq.get (w16 w.imm).toNat), p.owner, seat, ctx, operandA p.regs w, operandV p.regs w, p.pos, false,
    s.now, s.now⟩

/-- The record kept until its answer, with the next sequence number taken. -/
def signalKept (seat : Nat) (p : Prog) (w : CWord) (ctx : CtxId) (s : State) : State :=
  moreReqs p.owner (updStb (fun b => { b with
    nextSeq := b.nextSeq.set (w16 w.imm).toNat ((signalRec seat p w ctx s).seq.toNat + 1),
    outs := b.outs ++ [signalRec seat p w ctx s] }) s)

theorem signalxWord_remote (hf : fenceOk p w) (hc : actCtx s p w = .ok ctx) (hd : w16 w.imm ≠ chipId s) :
    signalxWord k seat p w s =
      if 4096 ≤ s.stb.outs.length ∨ 256 ≤ (s.stb.outs.filter fun o => o.dst == w16 w.imm).length then stallCore k .order s
      else advance seat (sendSignal (signalRec seat p w ctx s) false (signalKept seat p w ctx s)) := by
  simp [signalxWord, fenceOk_check hf, hc, hd, signalRec, signalKept]

theorem sendSignal_down {o : OutRec} {b : Bool} (hl : s.stb.link ≠ .up) : sendSignal o b s = s := by
  simp [sendSignal, hl]

@[simp] theorem sendSignal_cox (o : OutRec) (b : Bool) : (sendSignal o b s).cox = s.cox := by
  unfold sendSignal
  split <;> simp

@[simp] theorem localSignal_cox (a : Nat) (v : W64) : (localSignal seat p a v ctx s).cox = s.cox := by simp [localSignal]

@[simp] theorem signalKept_cox : (signalKept seat p w ctx s).cox = s.cox := rfl
theorem signalKept_link : (signalKept seat p w ctx s).stb.link = s.stb.link := rfl

/-- The time that WAITT waits for (R129). -/
def waittTarget (p : Prog) (w : CWord) (s : State) : Nat :=
  if w.opf % 2 == 1 then (s.now + (operandV p.regs w).toNat) % 2 ^ 64 else (operandV p.regs w).toNat

theorem waittWord_eq : waittWord k seat p w s =
    if waittTarget p w s ≤ s.now then advance seat (noteRelease seat p 2 0 false false false s)
    else parkSeat k seat (.waitt (waittTarget p w s)) s := rfl

end WaitWords

/-- Settles O31: each word's equation where its operands are good. -/
theorem waitAndSignalWordsAct : Obligations.WaitAndSignalWordsAct := by
  rintro k seat p w s _ rfl
  refine ⟨fun ctx hc ha hv => ⟨?waitf, ?signalf, ?own, ?down, ?remote⟩, ?waitt⟩
  case waitf => exact fun h hp => next_free h (waitfWord_eq ⟨ha, hv⟩ hc hp)
  case signalf => exact fun h => next_free h (signalfWord_eq ⟨ha, hv⟩ hc)
  case own => exact fun h hd => next_of_cox h (signalxWord_local ⟨ha, hv⟩ hc hd) (by simp)
  case down =>
    intro h hd hall hdst hl
    refine next_of_cox h ((signalxWord_remote ⟨ha, hv⟩ hc hd).trans ?_) rfl
    rw [if_neg (by omega), sendSignal_down (signalKept_link.trans_ne hl)]
    rfl
  case remote =>
    rintro _ rfl
    refine ⟨fun h hd hall hdst => ?_, fun h hd hfull => ?_⟩
    · exact next_of_cox h ((signalxWord_remote ⟨ha, hv⟩ hc hd).trans (if_neg (by omega))) (by simp)
    · exact next_of_held h (.inl rfl) ((signalxWord_remote ⟨ha, hv⟩ hc hd).trans (if_pos hfull))
  case waitt =>
    rintro _ rfl
    exact ⟨fun h ht => next_free h (waittWord_eq.trans (if_pos ht)),
      fun h ht => next_free h (waittWord_eq.trans (if_neg (Nat.not_le.2 ht)))⟩

section FailingWords
variable {k seat c : Nat} {e : BitVec 16} {p : Prog} {w : CWord} {ctx : CtxId} {s : State}

/-! ### Words that fail a check -/

theorem loadcWord_misaligned (hc : actCtx s p w = .ok ctx) (ha : operandA p.regs w % memSize w.sub ≠ 0) :
    loadcWord k seat p w s = wordFailAt k seat p 1 eBadOperand (operandA p.regs w) s := by simp [loadcWord, hc, ha]
theorem storecWord_misaligned (hc : actCtx s p w = .ok ctx) (ha : operandA p.regs w % memSize w.sub ≠ 0) :
    storecWord k seat p w s = wordFailAt k seat p 1 eBadOperand (operandA p.regs w) s := by simp [storecWord, hc, ha]
theorem atomcWord_misaligned (hc : actCtx s p w = .ok ctx) (ha : operandA p.regs w % 8 ≠ 0) :
    atomcWord k seat p w s = wordFailAt k seat p 1 eBadOperand (operandA p.regs w) s := by simp [atomcWord, hc, ha]

theorem loadcWord_refused (hc : actCtx s p w = .error (c, e)) :
    loadcWord k seat p w s = wordFailAt k seat p c e (operandA p.regs w) s := by simp [loadcWord, hc]
theorem storecWord_refused (hc : actCtx s p w = .error (c, e)) :
    storecWord k seat p w s = wordFailAt k seat p c e (operandA p.regs w) s := by simp [storecWord, hc]
theorem atomcWord_refused (hc : actCtx s p w = .error (c, e)) :
    atomcWord k seat p w s = wordFailAt k seat p c e (operandA p.regs w) s := by simp [atomcWord, hc]

theorem fence_check_fails (hf : operandA p.regs w % 8 ≠ 0 ∨ bit (operandV p.regs w) 63 = true) :
    (operandA p.regs w % 8 != 0 || bit (operandV p.regs w) 63) = true := by simpa using hf

theorem waitfWord_badFence (hf : operandA p.regs w % 8 ≠ 0 ∨ bit (operandV p.regs w) 63 = true) :
    waitfWord k seat p w s = wordFailAt k seat p 1 eFenceValue (operandA p.regs w) s := if_pos (fence_check_fails hf)
theorem signalfWord_badFence (hf : operandA p.regs w % 8 ≠ 0 ∨ bit (operandV p.regs w) 63 = true) :
    signalfWord k seat p w s = wordFailAt k seat p 1 eFenceValue (operandA p.regs w) s := if_pos (fence_check_fails hf)
theorem signalxWord_badFence (hf : operandA p.regs w % 8 ≠ 0 ∨ bit (operandV p.regs w) 63 = true) :
    signalxWord k seat p w s = wordFailAt k seat p 1 eFenceValue (operandA p.regs w) s := if_pos (fence_check_fails hf)

end FailingWords

/-- Settles O32: the failing check of each word comes before anything it does. -/
theorem wordsCheckTheirOperandsFirst : Obligations.WordsCheckTheirOperandsFirst := by
  rintro k seat p w s _ rfl
  refine ⟨fun h ht => next_free h (if_pos ht), fun h ht => next_free h (if_pos ht), fun h ht => next_free h (if_pos ht),
    fun ctx hc hn => ?misaligned, fun c e hc hn => ?refused, fun hf => ?fence⟩
  case misaligned =>
    exact ⟨fun h ha => next_of_notHeld h (loadcWord_misaligned hc ha) hn,
      fun h ha => next_of_notHeld h (storecWord_misaligned hc ha) hn, fun h ha => next_of_notHeld h (atomcWord_misaligned hc ha) hn⟩
  case refused =>
    exact ⟨fun h => next_of_notHeld h (loadcWord_refused hc) hn, fun h => next_of_notHeld h (storecWord_refused hc) hn,
      fun h => next_of_notHeld h (atomcWord_refused hc) hn⟩
  case fence =>
    exact ⟨fun h => next_free h (waitfWord_badFence hf), fun h => next_free h (signalfWord_badFence hf),
      fun h hn => next_of_notHeld h (signalxWord_badFence hf) hn⟩

section TimedWaits
variable {seat t rd a mask : Nat} {soft mem : Bool} {p : Prog} {s : State}

/-! ### Parked waits that time ends -/

theorem waittReleaseOp_due (hp : s.prog? seat = some p) (hk : p.park = .waitt t) (hr : p.released = false)
    (hs : (s.seat seat).st = .wait) (ht : t ≤ s.now) (hu : computeUp s = true) :
    waittReleaseOp seat s = releaseProg seat (noteRelease seat p 2 0 false false true s) := by
  simp [waittReleaseOp, hp, hk, hr, hs, ht, hu]

/-- A WAITF whose timeout has passed waits for a read that is in flight (R218). -/
theorem waitTimeoutOp_waitf (hp : s.prog? seat = some p) (hd : p.deadline = some t) (ht : t ≤ s.now) (hr : p.released = false)
    (hu : computeUp s = true) (hk : p.park = .waitf rd soft a) : waitTimeoutOp seat s =
      if readOut s (s.stb.waiters.get seat) then updWaiter seat (fun w => { w with timedOut := true }) s
      else failWait seat p s := by
  simp [waitTimeoutOp, hp, hd, hr, hu, hk, Nat.not_lt.2 ht]

theorem waitTimeoutOp_barrier (hp : s.prog? seat = some p) (hd : p.deadline = some t) (ht : t ≤ s.now) (hr : p.released = false)
    (hu : computeUp s = true) (hk : p.park = .barrier mask mem) : waitTimeoutOp seat s = failWait seat p s := by
  simp [waitTimeoutOp, hp, hd, hr, hu, hk, Nat.not_lt.2 ht]

end TimedWaits

/-- Settles O33: each parked wait by the branch of its park. -/
theorem parkedWaitsEndByTime : Obligations.ParkedWaitsEndByTime := by
  refine ⟨fun seat t p s hp hk hr hs ht hu => ?waitt, fun seat t rd a soft p s hp hd ht hr hu hk ho => ?failed,
    fun seat t rd a soft p s hp hd ht hr hu hk ho => ?inFlight, fun seat t mask mem p s hp hd ht hr hu hk => ?barrier⟩
  case waitt => exact congrArg Host.Outcome.next (waittReleaseOp_due hp hk hr hs ht hu)
  case failed =>
    exact congrArg Host.Outcome.next ((waitTimeoutOp_waitf hp hd ht hr hu hk).trans (if_neg (Bool.eq_false_iff.1 ho)))
  case inFlight => exact congrArg Host.Outcome.next ((waitTimeoutOp_waitf hp hd ht hr hu hk).trans (if_pos ho))
  case barrier => exact congrArg Host.Outcome.next (waitTimeoutOp_barrier hp hd ht hr hu hk)

end Sys2Proof.Machine

/-! The control words of launching, saving, memory management, references and calls (R125, R134 to R144, R160, R167, R266, R276, R311,
R312, R326, R328): the equation of each word's meaning where its checks pass. -/
namespace Sys2Proof.Machine

section LaunchWords
variable {k seat : Nat} {p : Prog} {w : CWord} {ctx : CtxId} {m : LaunchMsg} {n : Nat} {s : State}

/-! ### Launching -/

theorem launchOrHold_enters (hg : groupFull s p.owner m.group n = false) (ht : treeRefuses s (seatTree s seat) = false) :
    launchOrHold k seat p m n s = advance seat (enterTree (seatTree s seat) m (addGroup p.owner m.group n s)) := by
  simp [launchOrHold, hg, ht]

theorem launchOrHold_held (h : groupFull s p.owner m.group n = true ∨ treeRefuses s (seatTree s seat) = true) :
    launchOrHold k seat p m n s = stallCore k .tree s := by
  simp only [launchOrHold, Bool.or_eq_true, h, if_true]

theorem launchWord_eq (hc : actCtx s p w = .ok ctx) (hv : (operandV p.regs w).toNat < 2 ^ 25)
    (hcl : fld (operandV p.regs w) 0 9 < s.build.clusters) (he : fld (operandV p.regs w) 9 3 < s.build.engines)
    (h1 : 1 ≤ fld (operandV p.regs w) 12 13) (hn : fld (operandV p.regs w) 12 13 ≤ 4096) (ha : operandA p.regs w % 64 = 0) :
    launchWord k seat p w s = launchOrHold k seat p { progMsg s seat p ctx .piece (w.opf % 4) with
      target := fld (operandV p.regs w) 0 9, engine := fld (operandV p.regs w) 9 3,
      count := fld (operandV p.regs w) 12 13, piece := operandA p.regs w } 1 s := by
  have hz : fld (operandV p.regs w) 12 13 ≠ 0 := by omega
  simp only [launchWord, hc]
  refine if_neg ?_
  simp [Nat.not_le.2 hcl, Nat.not_le.2 he, hz, Nat.not_lt.2 hn, ha]
  omega

theorem crewlaunchWord_eq {crew : Crew} (hc : actCtx s p w = .ok ctx) (hv : (operandV p.regs w).toNat < 2 ^ 22)
    (hcr : crew = crewFor s (progMsg s seat p ctx .crewPiece (w.opf % 4)).epoch (fld (operandV p.regs w) 0 6))
    (hd : crew.defined = true) (he : fld (operandV p.regs w) 6 3 < s.build.engines)
    (h1 : 1 ≤ fld (operandV p.regs w) 9 13) (hn : fld (operandV p.regs w) 9 13 ≤ 4096) (ha : operandA p.regs w % 64 = 0)
    (hst : fld w.w3 0 32 % 64 = 0) :
    crewlaunchWord k seat p w s = launchOrHold k seat p { progMsg s seat p ctx .crewPiece (w.opf % 4) with
      target := fld (operandV p.regs w) 0 6, engine := fld (operandV p.regs w) 6 3, count := fld (operandV p.regs w) 9 13,
      piece := operandA p.regs w, stride := fld w.w3 0 32 / 64, aligned := crew.aligned } crew.members.length s := by
  have hz : fld (operandV p.regs w) 9 13 ≠ 0 := by omega
  subst hcr
  simp only [crewlaunchWord, hc]
  refine if_neg ?_
  simp [hd, Nat.not_le.2 he, hz, Nat.not_lt.2 hn, ha, hst]
  omega

theorem barrierWord_eq (hv : (operandV p.regs w).toNat < 32) : barrierWord k seat p w s =
    if barrierMet s seat p.owner (fld (operandV p.regs w) 0 4) (bit (operandV p.regs w) 4) then advance seat s
    else parkSeat k seat (.barrier (fld (operandV p.regs w) 0 4) (bit (operandV p.regs w) 4))
      (updProg seat (fun p => { p with issuedAt := s.now, deadline := deadlineOf s.now w.imm }) s) :=
  if_neg (Nat.not_le.2 hv)

/-- The launch that a stalled core holds is issued again (R136, R149). -/
theorem treeAcceptOp_eq {e : RespErr} (hu : computeUp s = true) (hs : (s.core k).st = .stall) (ht : (s.core k).stall = .tree)
    (hr : running s k = some (seat, p)) (hw : wordAtPc s k p = some (e, w)) : treeAcceptOp k s =
      if w.op == 0x30 then launchWord k seat p w (runCore k s)
      else if w.op == 0x31 then crewlaunchWord k seat p w (runCore k s) else runCore k s := by
  simp [treeAcceptOp, hu, hs, ht, hr, hw]

end LaunchWords

/-- Settles O34: each word is `launchOrHold` of its message, which enters or is held. -/
theorem launchWordsEnterTheTree : Obligations.LaunchWordsEnterTheTree := by
  rintro k seat p w s _ rfl
  refine ⟨?launch, ?crew, ?barrier, ?accept⟩
  case launch =>
    rintro ctx m hc hv hcl he h1 hn ha rfl
    exact ⟨fun h hg ht => next_free h ((launchWord_eq hc hv hcl he h1 hn ha).trans (launchOrHold_enters hg ht)),
      fun h hx => next_free h ((launchWord_eq hc hv hcl he h1 hn ha).trans (launchOrHold_held hx))⟩
  case crew =>
    rintro ctx m crew hc hv hcr hd he h1 hn ha hst rfl
    exact ⟨fun h hg ht => next_free h ((crewlaunchWord_eq hc hv hcr hd he h1 hn ha hst).trans (launchOrHold_enters hg ht)),
      fun h hx => next_free h ((crewlaunchWord_eq hc hv hcr hd he h1 hn ha hst).trans (launchOrHold_held hx))⟩
  case barrier =>
    exact fun hv => ⟨fun h hm => next_free h ((barrierWord_eq hv).trans (if_pos hm)),
      fun h hm => next_free h ((barrierWord_eq hv).trans (if_neg (Bool.eq_false_iff.1 hm)))⟩
  case accept =>
    intro e hu hs ht hr hw
    have hx := treeAcceptOp_eq hu hs ht hr hw
    exact ⟨fun ho => congrArg Host.Outcome.next (hx.trans (by simp [ho])),
      fun ho => congrArg Host.Outcome.next (hx.trans (by simp [ho]))⟩

section SaveWords
variable {k seat : Nat} {p : Prog} {w : CWord} {ctx : CtxId} {cs : List Nat} {scope target : Nat} {s : State}

/-! ### Saving and restoring -/

theorem savectxWord_starts {h : Nat} (hc : actCtx s p w = .ok ctx) (hv : (operandV p.regs w).toNat < 128)
    (ha : operandA p.regs w % 4096 = 0)
    (hsc : saveScope s (jobMsg s seat p ctx (w.opf % 4)).epoch (operandV p.regs w).toNat = some (cs, scope, target))
    (hr : (ctxRegions s ctx).isEmpty = false) (hg : groupFull s p.owner (w.opf % 4) cs.length = false)
    (hb : cs.any (heldBySave s ctx) = false) (ht : treeRefuses s (seatTree s seat) = false) (hh : freeHold s cs = some h) :
    savectxWord k seat p w s = advance seat (startSave (if operandA p.regs w = 0 then .vacate else .save)
      (.prog p.owner seat (w.opf % 4)) ctx (operandA p.regs w) h (seatTree s seat) cs
      { jobMsg s seat p ctx (w.opf % 4) with scope := scope, target := target }
      (addGroup p.owner (w.opf % 4) cs.length (unreplayable p.owner s))) := by
  have hgood : (128 ≤ (operandV p.regs w).toNat || operandA p.regs w % 4096 != 0) = false := by simp [Nat.not_le.2 hv, ha]
  simp only [savectxWord, hc, hgood, hsc, hr, hb, hg, ht, hh, Bool.false_eq_true, if_false]

theorem loadctxWord_starts {header : MemRead} (hc : actCtx s p w = .ok ctx) (hv : (operandV p.regs w).toNat < 128)
    (ha : operandA p.regs w % 4096 = 0)
    (hsc : saveScope s (jobMsg s seat p ctx (w.opf % 4)).epoch (operandV p.regs w).toNat = some (cs, scope, target))
    (hr : (ctxRegions s ctx).isEmpty = false) (hg : groupFull s p.owner (w.opf % 4) cs.length = false)
    (hp : poisonedAt s (operandA p.regs w) 4096 = false) (he : header.err = .ok) (hf : headerFits header.bytes ctx cs = true) :
    loadctxWord header k seat p w s = advance seat (startRestore (.prog p.owner seat (w.opf % 4)) ctx (operandA p.regs w)
      (some (leAt header.bytes 4 4)) cs (jobMsg s seat p ctx (w.opf % 4)) (addGroup p.owner (w.opf % 4) cs.length
        (unreplayable p.owner (ownRead islSld (operandA p.regs w) ctx 128 s)))) := by
  have hgood : (128 ≤ (operandV p.regs w).toNat || operandA p.regs w % 4096 != 0) = false := by simp [Nat.not_le.2 hv, ha]
  simp only [loadctxWord, hc, hgood, hsc, hr, hp, hg, he, hf, Bool.not_true, Bool.false_eq_true, if_false]

@[simp] theorem addGroup_cox (o : Owner) (g n : Nat) : (addGroup o g n s).cox = s.cox := rfl
@[simp] theorem ownRead_cox (i a : Nat) (c : CtxId) (n : Nat) : (ownRead i a c n s).cox = s.cox := rfl

end SaveWords

/-- Settles O35: the word that starts a job leaves the cores alone. -/
theorem saveAndLoadWordsStartJobs : Obligations.SaveAndLoadWordsStartJobs := by
  rintro k seat p w ctx cs scope target s _ rfl hc hv ha hsc hr hg
  constructor
  · rintro h _ hi hb ht hh rfl
    exact next_of_cox hi (savectxWord_starts hc hv ha hsc hr hg hb ht hh) (by simp)
  · rintro header _ hi hp he hf rfl
    exact next_of_cox hi (loadctxWord_starts hc hv ha hsc hr hg hp he hf) (by simp)

section ReferenceWords
variable {k seat i : Nat} {p : Prog} {w : CWord} {o : Work} {d : Drop} {s t : State}

/-! ### References -/

theorem allocWord_given (h0 : (operandV p.regs w).toNat ≠ 0) (h64 : (operandV p.regs w).toNat % 64 = 0)
    (ha : allocObject p.ctx (ctxPartition s p.ctx) (operandV p.regs w).toNat (bit w.w3 0) s = .ok (i, t)) :
    allocWord k seat p w s = advance seat (updProg seat (fun q => { q with
      regs := (q.regs.set w.rd (w64 (t.rack.objs.get i).base)).set w.ra (w64 (mkHandle i (t.rack.objs.get i).gen).toNat),
      f := if w.soft then false else q.f }) (unreplayable p.owner t)) := by
  simp [allocWord, h0, h64, ha]

/-- With opf[28] = 1 FREE drops the reference at once (R142). -/
theorem freeWord_eq_rackWord (hnow : w.opf % 2 = 1) : freeWord k seat p w s =
    rackWord k seat p (freeOp (some p.ctx) (w32 (operandV p.regs w).toNat) (unreplayable p.owner s))
      (w32 (operandV p.regs w).toNat) (unreplayable p.owner s) := if_pos (beq_iff_eq.2 hnow)

theorem rackWord_ok (h : W32) : rackWord k seat p (.ok t) h s = advance seat t := rfl

theorem deferDrop_room (ho : s.work? p.owner = some o) (hd : o.drops.length < 256) :
    deferDrop k seat p d s = advance seat (updWork p.owner (fun x => { x with drops := x.drops ++ [d] }) s) := by
  simp [deferDrop, ho, Nat.not_le.2 hd]

theorem refsubWord_deferred (hl : w.opf % 2 = 0) :
    refsubWord k seat p w s = deferDrop k seat p ⟨w32 (operandV p.regs w).toNat, refCount w, false⟩ s := by
  simp [refsubWord, hl]

theorem freeWord_deferred (hl : w.opf % 2 = 0) :
    freeWord k seat p w s = deferDrop k seat p ⟨w32 (operandV p.regs w).toNat, 1, true⟩ s := by
  simp [freeWord, hl]

end ReferenceWords

/-- Settles O36: at once by `rackWord`, put off by `deferDrop`. -/
theorem referenceWordsAct : Obligations.ReferenceWordsAct := by
  rintro k seat p w s _ rfl
  refine ⟨?alloc, ?now, ?later⟩
  case alloc =>
    rintro i s2 _ hi h0 h64 ha rfl
    exact next_free hi (allocWord_given h0 h64 ha)
  case now =>
    rintro h s2 rfl
    refine ⟨fun hi he => next_free hi ?_, fun hi hnow he => next_free hi ?_, fun hi hnow he => next_free hi ?_⟩
    · rw [refaddWord_eq_rackWord, he, rackWord_ok]
    · rw [refsubWord_eq_rackWord hnow, he, rackWord_ok]
    · rw [freeWord_eq_rackWord hnow, he, rackWord_ok]
  case later =>
    rintro h o rfl ho hd hl
    exact ⟨fun hi => next_free hi ((refsubWord_deferred hl).trans (deferDrop_room ho hd)),
      fun hi => next_free hi ((freeWord_deferred hl).trans (deferDrop_room ho hd))⟩

section KvWords
variable {k seat : Nat} {p : Prog} {w : CWord} {m : MemRead} {s : State}

/-! ### The key/value cache -/

/-- What a list starts from: its own read made, nothing written yet. -/
def kvRead (p : Prog) (w : CWord) (s : State) : KvRun :=
  ⟨ownRead islRck (operandA p.regs w) p.ctx (16 * (operandV p.regs w).toNat) s, [], [], none, none⟩

/-- A list whose records are all good to take is taken record by record (R311, R312). -/
theorem kvWord_runs {one : CtxId → Nat → Nat → Nat → List Byte → KvRun → Nat → KvRun} {frees : Nat → Bool}
    (hv : (operandV p.regs w).toNat < 65536) (ha : operandA p.regs w % 16 = 0)
    (hp : poisonedAt s (operandA p.regs w) (16 * (operandV p.regs w).toNat) = false) (he : m.err = .ok)
    (hm : ∀ i, i < (operandV p.regs w).toNat → tabMoves s (hIdx (w32 (leAt m.bytes (16 * i) 4))) = false) {r : KvRun}
    (hr : r = (List.range (operandV p.regs w).toNat).foldl
      (one p.ctx (w.imm % 16) (operandA p.regs w) (operandV p.regs w).toNat m.bytes) (kvRead p w s)) :
    kvWord m one frees k seat p w s = kvBegin k p w
      (if ((List.range (operandV p.regs w).toNat).any fun i => frees (leAt m.bytes (16 * i) 8)) = true
       then { r with st := unreplayable p.owner r.st } else r) := by
  have hmoves : ((List.range (operandV p.regs w).toNat).any
      fun i => tabMoves s (hIdx (w32 (leAt m.bytes (16 * i) 4)))) = false := by
    rw [List.any_eq_false]
    exact fun i hi => Bool.eq_false_iff.1 (hm i (List.mem_range.1 hi))
  subst hr
  simp only [kvWord, Nat.not_le.2 hv, ha, hp, he, hmoves, if_false, bne_self_eq_false, Bool.false_eq_true]
  rfl

end KvWords

/-- Settles O37: both words are `kvWord`, each with its own records. -/
theorem kvWordsWorkThroughTheirList : Obligations.KvWordsWorkThroughTheirList := by
  rintro k seat p w m s _ rfl hv ha hp he hm
  exact ⟨fun r hr hi => next_free hi (kvWord_runs hv ha hp he hm hr), fun r hr hi => next_free hi (kvWord_runs hv ha hp he hm hr)⟩

section OtherWords
variable {k seat : Nat} {p : Prog} {w : CWord} {ctx : CtxId} {s : State}

/-! ### JUDGE, ENQUEUE and MARK -/

theorem judgeWord_hands (h0 : (operandV p.regs w).toNat ≠ 0) (hn : (operandV p.regs w).toNat ≤ 4096)
    (ha : operandA p.regs w % 64 = 0) (hr : fld w.w3 0 56 % 64 = 0) (hg : groupFull s p.owner (w.opf % 4) 1 = false) :
    judgeWord k seat p w s = stallCore k .unit (newJob (.prog p.owner seat (w.opf % 4)) p.ctx (operandV p.regs w).toNat
      (operandA p.regs w) (fld w.w3 0 56) (addGroup p.owner (w.opf % 4) 1 s)) := by
  simp [judgeWord, h0, Nat.not_lt.2 hn, ha, hr, hg]

theorem enqueueWord_reads (ha : operandA p.regs w % 64 = 0) (hv : (operandV p.regs w).toNat < 4096)
    (hc : enqueueCheck s p w (operandV p.regs w).toNat = .ok ctx) (hp : poisonedAt s (operandA p.regs w) 64 = false) :
    enqueueWord k seat p w s = stallCore k .unit (issueNm false (operandA p.regs w) ctx [] 64 seat (.enqImage k p.owner)
      islMar (moreReqs p.owner s)) := by
  simp [enqueueWord, ha, Nat.not_le.2 hv, hc, hp]

/-- The tag that MARK leaves its program with (R144). -/
def markTag (p : Prog) (w : CWord) : Nat := if w.opf % 2 == 1 then fld w.w1 0 48 else p.tag

theorem markWord_quiet (hq : w.opf / 2 % 2 = 1) :
    markWord k seat p w s = advance seat (updProg seat (fun p' => { p' with tag := markTag p w }) s) := by
  simp [markWord, hq, markTag]

theorem markWord_traced (hq : w.opf / 2 % 2 ≠ 1) : markWord k seat p w s =
    advance seat (wakeEv (islCox k) 4 true (some p.ctx)
      [w64 (put seat 0 6 + put p.ctx.toNat 6 16 + put p.pc 22 24), w64 (markTag p w), operandV p.regs w]
      (updProg seat (fun p' => { p' with tag := markTag p w }) s)) := by
  simp [markWord, hq, markTag]

theorem wMark_gives (h : Issues s k 0x90 seat p w) : Gives (exec (.wMark k) s) fun t =>
    WordLeaves seat s { p.counted.past with tag := markTag p w } t ∧ (w.opf / 2 % 2 = 1 → t.wake = (countWord k seat p s).wake) := by
  have ht : WordLeaves seat s { p.counted with tag := markTag p w }
      (updProg seat (fun p' => { p' with tag := markTag p w }) (countWord k seat p s)) := h.leaves.updProg _
  by_cases hq : w.opf / 2 % 2 = 1
  · exact ⟨_, next_free h (markWord_quiet hq), ht.advance, fun _ => rfl⟩
  · exact ⟨_, next_free h (markWord_traced hq), (ht.wakeEv ..).advance, fun hx => absurd hx hq⟩

end OtherWords

/-- Settles O38: JUDGE and ENQUEUE stall their core for a unit, MARK works on its own program. -/
theorem judgeEnqueueAndMarkAct : Obligations.JudgeEnqueueAndMarkAct := by
  rintro k seat p w s _ rfl
  refine ⟨fun hi h0 hn ha hr hg => next_of_unit hi (judgeWord_hands h0 hn ha hr hg),
    fun ctx hi ha hv hc hp => next_free hi (enqueueWord_reads ha hv hc hp), fun hi => ?_⟩
  obtain ⟨t, he, hl, hq⟩ := wMark_gives hi
  exact ⟨t, he, hl.1, hl.2, hq⟩

section EndingWords
variable {k seat l h r : Nat} {c : Count} {p : Prog} {w : CWord} {pin : Pin} {s t : State}

/-! ### END, HEATEND, RETC with no frame left, CALLC -/

theorem endOf_entry (ho : p.owner = .entry r c) : endOf k seat p s = endProgram seat s := by simp [endOf, ho]

theorem endOf_heat (ho : p.owner = .heat l h) : endOf k seat p s = heatEnd k seat p s := by simp [endOf, ho]

theorem heatEnd_ok (hz : p.regs.get 12 = 0) : heatEnd k seat p s = endProgram seat s := if_pos hz

theorem heatEnd_failed (ho : p.owner = .heat l h) (hz : p.regs.get 12 ≠ 0) : heatEnd k seat p s =
    ownerError (.heat l h) 1 { wordRec s k seat p eHeatCourseStatus with info := fld (p.regs.get 12) 0 32 } s := by
  rw [heatEnd, if_neg hz, ho]

theorem heatendWord_heat (ho : p.owner = .heat l h) : heatendWord k seat p w s = heatEnd k seat p s := by simp [heatendWord, ho]

theorem heatendWord_entry (ho : p.owner = .entry r c) : heatendWord k seat p w s = wordFail k seat p 2 eBadOpcode s := by
  simp [heatendWord, ho]

theorem retcWord_last (hf : p.frames = []) : retcWord k seat p w s = endOf k seat p s := by simp [retcWord, hf]

theorem callcWord_enters (hd : callDepth p < 7)
    (hr : resolveCourse p.owner p.ctx (w32 (fld w.w1 0 32)) (fld w.w1 32 16) s = .ok (pin, t)) (hl : pin.layout = 0) :
    callcWord k seat p w s = enterCourse seat pin (operandV p.regs w) t := by
  simp [callcWord, Nat.not_le.2 hd, hr, hl]

end EndingWords

/-- Settles O29: each word by the owner of its program and, for a heat, by c12. -/
theorem programsEndAndCall : Obligations.ProgramsEndAndCall := by
  intro k seat p w s
  refine ⟨fun r c hi ho => next_free hi (endOf_entry ho), fun l h hi ho hz => next_free hi ((endOf_heat ho).trans (heatEnd_ok hz)),
    fun l h hi ho hz => next_free hi ((heatendWord_heat ho).trans (heatEnd_ok hz)),
    fun pin s1 hi hd hr hl => next_free hi (callcWord_enters hd hr hl),
    fun r c hi hf ho => next_free hi ((retcWord_last hf).trans (endOf_entry ho)),
    fun l h hi hf ho hz => next_free hi ((retcWord_last hf).trans ((endOf_heat ho).trans (heatEnd_ok hz))), ?failed,
    fun r c hi ho => next_free hi (heatendWord_entry ho), fun hi hd => next_free hi (if_pos hd)⟩
  rintro l h ho hz _ rfl
  exact ⟨fun hi => next_free hi ((endOf_heat ho).trans (heatEnd_failed ho hz)),
    fun hi => next_free hi ((heatendWord_heat ho).trans (heatEnd_failed ho hz)),
    fun hi hf => next_free hi ((retcWord_last hf).trans ((endOf_heat ho).trans (heatEnd_failed ho hz)))⟩

end Sys2Proof.Machine

/-! The clock cycle of an empty queue (R351, R356), and por_n (R44, R412). -/
namespace Sys2Proof.Machine

section Folds
variable {α σ : Type} {f : σ → α → σ} {s : σ} {l : List α}

/-- A fold whose steps all leave the state as it is. -/
theorem each_eq_self (hf : ∀ a ∈ l, f s a = s) : each l f s = s := by
  induction l with
  | nil => rfl
  | cons a l ih =>
    have ha : f s a = s := hf a List.mem_cons_self
    exact (congrArg (each l f) ha).trans (ih fun b hb => hf b (List.mem_cons_of_mem a hb))

/-- What one step of a fold reaches and every step keeps, the fold reaches. -/
theorem each_reaches {P : σ → Prop} {a : α} (ha : a ∈ l) (hset : ∀ t, P (f t a)) (hkeep : ∀ t b, P t → P (f t b)) :
    P (each l f s) := by
  induction l generalizing s with
  | nil => cases ha
  | cons b l ih =>
    rcases List.mem_cons.1 ha with rfl | hl
    · exact each_induct l f _ hkeep (hset s)
    · exact ih hl

end Folds

section Clock
variable {s t : State}

/-- The time and the fraction of a tu after a cycle. -/
def cycleTotal (s : State) : Nat := s.tkp.frac + (40 * (1000000000 + trimPpb s.tkp.cfg)).toNat

/-- What the other units do in a cycle. -/
def cycleWork (s : State) : State :=
  lazyWriteBack (transferTx (settleVacated (countRefusals (cycleTotal s / 1000000000) (noteRefusals s))))

theorem tick_on (hp : s.ump.porN = true) : tick s = { cycleWork s with tkp := { (cycleWork s).tkp with
    now := s.tkp.now + cycleTotal s / 1000000000, frac := cycleTotal s % 1000000000 } } := by
  simp only [tick, hp, Bool.not_true, Bool.false_eq_true, if_false]
  rfl

theorem tick_off (hp : s.ump.porN = false) : tick s = s := by simp [tick, hp]

theorem step_of_empty (hq : s.pending = []) : step s = .next (tick s) := by
  unfold step
  rw [hq]

theorem cycleTotal_untrimmed (hc : s.tkp.cfg = 0) (hf : s.tkp.frac = 0) : cycleTotal s = 40 * 1000000000 := by
  rw [cycleTotal, hc, hf]
  rfl

/-! ### A cycle in which nothing waits for the clock -/

theorem noteRefusals_quiet (h : QuietCycle s) : noteRefusals s = s := by
  unfold noteRefusals
  extract_lets root input trees
  have hroots : each trees root s = s :=
    each_eq_self fun t ht => if_pos (beq_iff_eq.2 (h.roots t (List.mem_range.1 ht)).symm)
  rw [hroots]
  exact each_eq_self fun c hc => each_eq_self fun t ht =>
    if_pos (beq_iff_eq.2 (h.inputs c t hc (List.mem_range.1 ht)).symm)

/-- Only the refusal counters of trees differ (R209, R383). -/
def TreesCount (s t : State) : Prop :=
  t = { s with fab := { s.fab with trees := t.fab.trees } } ∧
  ∀ i, t.tree i = { s.tree i with refusedTu := (t.tree i).refusedTu, stallSince := (t.tree i).stallSince }

theorem treesCount_refl (s : State) : TreesCount s s := ⟨rfl, fun _ => rfl⟩

theorem TreesCount.updTree (h : TreesCount s t) {i : Nat} {f : Tree → Tree}
    (hf : ∀ x, f x = { x with refusedTu := (f x).refusedTu, stallSince := (f x).stallSince }) :
    TreesCount s (Machine.updTree i f t) := by
  constructor
  · conv_lhs => rw [h.1]
    rfl
  · intro j
    rw [updTree_tree]
    split
    · subst j
      rw [hf, h.2 i]
    · exact h.2 j

theorem countRefusals_counts (n : Nat) (s : State) : TreesCount s (countRefusals n s) := by
  refine each_induct (P := TreesCount s) _ _ _ (fun t i h => ?_) (treesCount_refl s)
  split
  · exact h.updTree fun _ => rfl
  · split
    · exact h.updTree fun _ => rfl
    · exact h

theorem cycleWork_quiet (h : QuietCycle s) : TreesCount s (cycleWork s) := by
  unfold cycleWork
  rw [noteRefusals_quiet h]
  have hc := countRefusals_counts (cycleTotal s / 1000000000) s
  have hv : settleVacated (countRefusals (cycleTotal s / 1000000000) s) = countRefusals (cycleTotal s / 1000000000) s := by
    unfold settleVacated
    rw [hc.1]
    simp only [h.settled]
    rfl
  have ht : transferTx (countRefusals (cycleTotal s / 1000000000) s) = countRefusals (cycleTotal s / 1000000000) s := by
    unfold transferTx
    rw [hc.1]
    simp only [h.sent]
  have hl : lazyWriteBack (countRefusals (cycleTotal s / 1000000000) s) = countRefusals (cycleTotal s / 1000000000) s := by
    unfold lazyWriteBack
    rw [hc.1]
    simp only [h.clean, List.isEmpty_nil, Bool.true_or, if_true]
  rw [hv, ht, hl]
  exact hc

end Clock

/-- Settles O2: the time's arithmetic, and for a quiet cycle what `TreesCount` leaves. -/
theorem emptyQueuePassesOneClockCycle : Obligations.EmptyQueuePassesOneClockCycle := by
  refine ⟨fun s hq hp => ⟨_, step_of_empty hq, ?time⟩, fun s hq hp h => ⟨_, step_of_empty hq, ?quiet⟩,
    fun s hq hp hc hf => ⟨_, step_of_empty hq, ?untrimmed⟩, fun s hq hp => ?off⟩
  case time =>
    rw [tick_on hp]
    refine ⟨?_, Nat.mod_lt _ (by decide)⟩
    show (s.tkp.now + cycleTotal s / 1000000000) * 1000000000 + cycleTotal s % 1000000000 = _
    unfold cycleTotal
    omega
  case quiet =>
    obtain ⟨he, ht⟩ := cycleWork_quiet h
    rw [tick_on hp]
    refine ⟨?_, ?_, ?_, ?_, ?_, ?_, ?_, ht⟩
    · rw [he]
    all_goals dsimp only
    all_goals rw [he]
  case untrimmed =>
    rw [tick_on hp]
    dsimp only
    rw [cycleTotal_untrimmed hc hf]
    exact ⟨rfl, rfl⟩
  case off => rw [step_of_empty hq, tick_off hp]

section PowerOn
variable {s t : State}

/-! ### por_n -/

theorem powered_off (hp : s.ump.porN = false) : powered s t = .next s := by simp [powered, hp]

/-- Only the Rowlocks differ. -/
def RowsOnly (s t : State) : Prop := t = { s with fab := { s.fab with rows := t.fab.rows } }

theorem RowsOnly.updRow (h : RowsOnly s t) (c : Nat) (f : Rowlock → Rowlock) : RowsOnly s (Machine.updRow c f t) := by
  obtain ⟨rows, rfl⟩ : ∃ rows, t = { s with fab := { s.fab with rows := rows } } := ⟨_, h⟩
  rfl

theorem requestResets_rows (s : State) : RowsOnly s (requestResets s) :=
  each_induct (P := RowsOnly s) _ _ _ (fun _ _ h => h.updRow ..) rfl

theorem requestResets_asks {c : Nat} (hc : c < s.build.clusters) :
    ((requestResets s).row c).rstReq = true ∧ ((requestResets s).row c).rstDone = false := by
  refine each_reaches (P := fun t : State => (t.row c).rstReq = true ∧ (t.row c).rstDone = false) (List.mem_range.2 hc)
    (fun t => ?_) fun t b h => ?_
  · rw [updRow_row_self]
    exact ⟨rfl, rfl⟩
  · rw [updRow_row]
    split
    · exact ⟨rfl, rfl⟩
    · exact h

theorem ringCmd_off {f : State → State} (hp : s.ump.porN = false) (ha : abandoning (s.ring (ringSel s)) = false) :
    ringCmd f s = .next s := by
  rw [ringCmd, ha, if_neg Bool.false_ne_true, powered_off hp]

theorem selftestDoneOp_ready {failing : List Nat} (hp : s.ump.porN = true) (ht : s.rig.testDone = false) (hr : s.ump.rst = .run)
    (ho : resetsOwed s = false) : selftestDoneOp failing s =
      updRig (fun r => { r with
        testDone := true, testPass := ((builtIslands s.build).filter failing.contains).isEmpty,
        firstIsland := ((builtIslands s.build).filter failing.contains).foldl min
          (((builtIslands s.build).filter failing.contains).headD 0),
        failedCount := ((builtIslands s.build).filter failing.contains).length }) s := by
  simp [selftestDoneOp, hp, ht, hr, ho]

end PowerOn

/-- Settles O14: while por_n is 0 every listed command is `powered`; its rise asks every Rowlock for its handshake. -/
theorem porNResetsAndSelfTestReports : Obligations.PorNResetsAndSelfTestReports := by
  refine ⟨fun _ => rfl, fun s hp => ?release, fun failing s hp ht hr ho => ?selftest, fun s hp => ?off, fun s hp => ?ringsAndMaps⟩
  case release =>
    have he : porNReleaseOp s = requestResets (updUmp (fun u => { u with porN := true }) s) := by simp [porNReleaseOp, hp]
    refine ⟨_, congrArg Host.Outcome.next he, ?_, fun c hc => requestResets_asks hc, ?_, ?_, ?_, ?_⟩
    all_goals rw [requestResets_rows]
    all_goals rfl
  case selftest =>
    refine ⟨_, congrArg Host.Outcome.next (selftestDoneOp_ready hp ht hr ho), rfl, ?_, rfl, rfl, rfl, rfl⟩
    simp
  case off =>
    have h : ∀ t, powered s t = .next s := fun t => powered_off hp
    exact ⟨h _, h _, h _, h _, h _, h _, h _, h _, fun _ => h _, fun _ _ => h _,
      fun _ => ⟨h _, h _, h _, h _, h _, h _, h _, fun _ => ⟨h _, h _⟩⟩, fun _ => h _, fun _ => h _, fun _ => h _,
      fun _ => ⟨h _, h _, h _, h _, h _, h _, h _, h _, h _⟩⟩
  case ringsAndMaps =>
    refine ⟨fun ha => ?_, fun hb => ?_⟩
    · have h : ∀ f, ringCmd f s = .next s := fun f => ringCmd_off hp ha
      exact ⟨h _, h _, h _, h _, h _, fun _ => h _, fun _ => h _⟩
    · have h : ∀ t, (if (s.map (sldSlot s)).busy != 0 then .fault (.portProtocol "SLD_CTX_CMD") else powered s t : Out) = .next s :=
        fun t => by rw [hb, if_neg (by decide), powered_off hp]
      exact ⟨h _, fun _ => h _⟩

end Sys2Proof.Machine

/-! The register window (R8, R9, R21): what a write reaches, and what a read clears. -/
namespace Sys2Proof.Machine

section Window
variable {s t : State} {a : Nat} {wide : Bool}

theorem execRegisterWrite_free {addr : BitVec 25} {data : W64} (hb : busyReg s (regOfAddr s (winAddr wide addr)) = none) :
    exec (.registerWrite wide addr data) s = .next (winWrite wide (winAddr wide addr) data s) := by
  show execRegisterWrite wide addr data s = _
  simp only [execRegisterWrite, hb]

theorem winWrite_off {d : W64} (hp : s.ump.porN = false) : winWrite wide a d s = s := by simp [winWrite, hp]

/-- A register that no busy bit guards may be written at any time. -/
theorem busyReg_unguarded (h : a ∉ [0x10100, 0x10108, 0x10110, 0x10118, 0x10120, 0x10128, 0x10150, 0x30F00, 0x30F08, 0x30F10,
    0x40008, 0x40010, 0x40018, 0x60010, 0x60018, 0x60020, 0x60028]) : busyReg s a = none := by
  simp only [List.mem_cons, List.not_mem_nil, or_false, not_or] at h
  simp [busyReg, h]

/-- The low bits of a value written through 32 bits. -/
theorem low32_and_fmask (d : W64) : w64 (fld d 0 32) &&& fmask 0 10 = d &&& 0x3FF := by
  have hf : fld d 0 32 = d.toNat % 2 ^ 32 := by simp [fld, nbits]
  apply BitVec.eq_of_toNat_eq
  rw [hf, BitVec.toNat_and, BitVec.toNat_and, w64, BitVec.toNat_ofNat]
  have hl : (fmask 0 10).toNat = 2 ^ 10 - 1 := by decide
  have hr : (0x3FF : W64).toNat = 2 ^ 10 - 1 := by decide
  rw [hl, hr, Nat.and_two_pow_sub_one_eq_mod, Nat.and_two_pow_sub_one_eq_mod]
  omega

/-- MAR_CTX_SEL takes its ten bits (R55). -/
theorem write32_ctxSel (d : W64) : write32 0x1F000 (fld d 0 32) s = { s with mar := { s.mar with ctxSel := d &&& 0x3FF } } := by
  have hr : regAt s 0x1F000 = r32 (fld s.mar.ctxSel 0 10) := rfl
  have hw : writeReg 0x1F000 (w64 (fld d 0 32)) s = updMar (fun m => { m with ctxSel := w64 (fld d 0 32) &&& fmask 0 10 }) s := rfl
  simp only [write32, hr, r32, hw, low32_and_fmask]
  rfl

/-! ### Reads -/

/-- What no read of the window changes. -/
def readView (s : State) :=
  (s.cox, s.rig, s.rack, s.mem, s.heat, s.tkp, s.build, s.ports.nm, s.ports.at_, s.ports.hm, s.ports.irqs)

theorem readView_ite {c : Prop} [Decidable c] {u : State} (ht : readView t = readView s) (hu : readView u = readView s) :
    readView (if c then t else u) = readView s := by
  split
  · exact ht
  · exact hu

theorem clearErg_readView (off : Nat) (s : State) : readView (clearErg off s) = readView s := by
  unfold clearErg
  split
  · rfl
  · split
    · rfl
    · split <;> rfl

theorem clearStb_readView (off : Nat) (s : State) : readView (clearStb off s) = readView s := by
  unfold clearStb
  split <;> rfl

theorem clearJdg_readView (off : Nat) (s : State) : readView (clearJdg off s) = readView s := by
  unfold clearJdg
  dsimp only
  split <;> rfl

theorem clearStk_readView (off : Nat) (s : State) : readView (clearStk off s) = readView s := by
  unfold clearStk
  split <;> rfl

theorem clearBhs_readView (off : Nat) (s : State) : readView (clearBhs off s) = readView s := by
  unfold clearBhs
  split <;> rfl

theorem clearReg_readView (a : Nat) (s : State) : readView (clearReg a s) = readView s := by
  unfold clearReg
  refine readView_ite ?_ ?_
  · split
    · exact readView_ite rfl rfl
    · exact readView_ite rfl rfl
    · rfl
  · split
    · exact readView_ite rfl rfl
    · split
      · exact readView_ite rfl rfl
      · rfl
    · exact readView_ite rfl (clearStb_readView _ s)
    · exact readView_ite rfl (clearJdg_readView _ s)
    · exact readView_ite rfl rfl
    · exact readView_ite rfl (clearStk_readView _ s)
    · exact clearErg_readView _ s
    · exact readView_ite rfl rfl
    · exact readView_ite rfl rfl
    · exact clearBhs_readView _ s
    · rfl

/-- The answer to a read, and to an interrupt that the read answers (R381). -/
theorem readAnswered_readView (v : W64) (c : Prop) [Decidable c] (s : State) :
    readView (updPorts (fun p => { p with hostRead := v }) (if c then updUmp (fun u => { u with irqWaiting := false }) s else s)) =
      readView s := by
  split <;> rfl

/-- A read answers the register's value and changes nothing of `readView`. -/
theorem readOp_on (hp : s.ump.porN = true) :
    (readOp wide a s).ports.hostRead = w64 (if wide then read64 s a else read32 s a) ∧ readView (readOp wide a s) = readView s := by
  have hclear : readView (if wide && (regAt s a).isSome && a < 0x1000000 then clearReg a s else s) = readView s :=
    readView_ite (clearReg_readView a s) rfl
  simp only [readOp, hp, Bool.not_true, Bool.false_eq_true, if_false]
  exact ⟨rfl, (readAnswered_readView ..).trans hclear⟩

theorem readOp_off (hp : s.ump.porN = false) : readOp wide a s = { s with ports := { s.ports with hostRead := 0 } } := by
  simp only [readOp, hp, Bool.not_false, if_true]
  rfl

end Window

/-- Settles O15: a write by `winWrite`, a read by `readOp`, and both while por_n is 0. -/
theorem registerAccessesReachOneRegister : Obligations.RegisterAccessesReachOneRegister := by
  refine ⟨fun wide addr data s hb => execRegisterWrite_free hb, fun addr data s ha hp => ?ctxSel, fun wide addr s hp => ?read,
    fun wide addr s hp => congrArg Host.Outcome.next (readOp_off hp), fun wide addr data s hp hb => ?off⟩
  case ctxSel =>
    have hw : winAddr false addr = 0x1F000 := ha
    have hb : busyReg s (regOfAddr s (winAddr false addr)) = none := by
      rw [hw]
      exact busyReg_unguarded (a := 0x1F000) (by decide)
    rw [execRegisterWrite_free hb, hw, winWrite, hp, Bool.not_true, if_neg Bool.false_ne_true, if_neg (by decide),
      if_neg Bool.false_ne_true, write32_ctxSel]
  case read =>
    obtain ⟨hv, hk⟩ := readOp_on (s := s) (a := winAddr wide addr) (wide := wide) hp
    simp only [readView, Prod.mk.injEq] at hk
    exact ⟨_, rfl, hv, hk⟩
  case off => rw [execRegisterWrite_free hb, winWrite_off hp]

end Sys2Proof.Machine

/-! Commands on contexts, objects and fences from the host (R55 to R58, R70, R79): each operation with its condition met, each
with it failed, and what a freed context leaves. -/
namespace Sys2Proof.Machine

section Contexts
variable {s t u : State} {i : Nat}

/-- A command of a powered block answers what its operation makes. -/
theorem powered_next (hp : s.ump.porN = true) (h : t = u) : powered s t = .next u := by rw [powered_of_porN hp, h]

/-! ### The selected slot -/

theorem ctxRefuse_slot_self (s : State) : (ctxRefuse s).slot (ctxSlot s) = { s.slot (ctxSlot s) with cmdErr := true } :=
  updSlot_slot_self ..

theorem ctxRefuse_slot_other {i : Nat} (h : i ≠ ctxSlot s) : (ctxRefuse s).slot i = s.slot i := updSlot_slot_other _ h

theorem ctxApply_slot_self (f : Slot → Slot) (s : State) :
    (ctxApply f s).slot (ctxSlot s) = { f (s.slot (ctxSlot s)) with cmdErr := false } := updSlot_slot_self ..

theorem ctxApply_slot_other (f : Slot → Slot) (h : i ≠ ctxSlot s) : (ctxApply f s).slot i = s.slot i := updSlot_slot_other _ h

/-! ### Conditions met -/

theorem createOp_ok (h : createOk s = true) : createOp s = newShare (ctxApply loadDesc s) := if_pos h

theorem stopOp_live (hb : blank s = false) (h : (s.slot (ctxSlot s)).st = .live) : stopOp s =
    policy (each (ringsOf (ctxApply (fun x => { x with st := .stopped }) s) (s.slot (ctxSlot s)).ctxId) (fun s r => settle r s)
      (ctxApply (fun x => { x with st := .stopped }) s)) := by simp [stopOp, hb, h]

theorem resumeOp_stopped (hb : blank s = false) (h : (s.slot (ctxSlot s)).st = .stopped) : resumeOp s =
    policy (each (ringsOf (ctxApply (fun x => { x with st := .live }) s) (s.slot (ctxSlot s)).ctxId) resumeRing
      (ctxApply (fun x => { x with st := .live }) s)) := by simp [resumeOp, hb, h]

theorem killOp_held (hb : blank s = false) (h : (s.slot (ctxSlot s)).st = .live ∨ (s.slot (ctxSlot s)).st = .stopped) :
    killOp s = policy (failContext (s.slot (ctxSlot s)).ctxId 3 eContextKilled
      (logRec (ctxWhy s (s.slot (ctxSlot s)).ctxId) { LogRec.zero with
        cls := 3, code := eContextKilled, island := islMar, ctx := (s.slot (ctxSlot s)).ctxId } (ctxApply id s))) := by
  simp [killOp, hb, h]

theorem teardownOp_ended (hb : blank s = false) (h : (s.slot (ctxSlot s)).st = .stopped ∨ (s.slot (ctxSlot s)).st = .failed)
    (hr : (s.slot (ctxSlot s)).ringsBound = 0) : teardownOp s =
      let s1 := forgetCtx (s.slot (ctxSlot s)).ctxId
        (ctxApply (fun x => { x with st := .draining, errClass := 0, errCode := 0 }) s)
      if (s.map (ctxSlot s)).registered || (s.map (ctxSlot s)).busy != 0 then unregisterMap (ctxSlot s) s1 else s1 := by
  simp [teardownOp, hb, h, hr]

theorem setWeightOp_held (hb : blank s = false) (h : (s.slot (ctxSlot s)).st = .live ∨ (s.slot (ctxSlot s)).st = .stopped) :
    setWeightOp s = ctxApply (fun x => { x with weight := w16 (fld x.desc 32 16) }) s := by
  simp [setWeightOp, hb, h]

/-! ### Conditions failed -/

theorem createOp_refused (h : createOk s = false) : createOp s = ctxRefuse s := by simp [createOp, h]

theorem stopOp_refused (h : blank s = true ∨ (s.slot (ctxSlot s)).st ≠ .live) : stopOp s = ctxRefuse s := by
  rcases h with h | h <;> simp [stopOp, h]

theorem resumeOp_refused (h : blank s = true ∨ (s.slot (ctxSlot s)).st ≠ .stopped) : resumeOp s = ctxRefuse s := by
  rcases h with h | h <;> simp [resumeOp, h]

theorem killOp_refused (h : blank s = true ∨ ((s.slot (ctxSlot s)).st ≠ .live ∧ (s.slot (ctxSlot s)).st ≠ .stopped)) :
    killOp s = ctxRefuse s := by
  rcases h with h | h <;> simp [killOp, h]

theorem setWeightOp_refused (h : blank s = true ∨ ((s.slot (ctxSlot s)).st ≠ .live ∧ (s.slot (ctxSlot s)).st ≠ .stopped)) :
    setWeightOp s = ctxRefuse s := by
  rcases h with h | h <;> simp [setWeightOp, h]

theorem teardownOp_refused (h : blank s = true ∨ ((s.slot (ctxSlot s)).st ≠ .stopped ∧ (s.slot (ctxSlot s)).st ≠ .failed) ∨
    (s.slot (ctxSlot s)).ringsBound ≠ 0) : teardownOp s = ctxRefuse s := by
  rcases h with h | h | h <;> simp [teardownOp, h]

/-! ### A freed context -/

/-- What dropping the owner's references may change: Rack and the tables of its entries. -/
def RackOnly (s t : State) : Prop :=
  t = { s with rack := t.rack, mem := t.mem, heat := { s.heat with loops := t.heat.loops } }

theorem RackOnly.updObj (h : RackOnly s t) (i : Nat) (f : Obj → Obj) : RackOnly s (Machine.updObj i f t) := by
  obtain ⟨k, m, l, rfl⟩ : ∃ k m l, t = { s with rack := k, mem := m, heat := { s.heat with loops := l } } := ⟨_, _, _, h⟩
  rfl

theorem RackOnly.reclaim (h : RackOnly s t) (i : Nat) : RackOnly s (Machine.reclaim i t) := by
  obtain ⟨k, m, l, rfl⟩ : ∃ k m l, t = { s with rack := k, mem := m, heat := { s.heat with loops := l } } := ⟨_, _, _, h⟩
  unfold Machine.reclaim
  dsimp only
  split <;> rfl

theorem RackOnly.setRefs (h : RackOnly s t) (i n : Nat) : RackOnly s (Machine.setRefs i n t) := by
  unfold Machine.setRefs
  dsimp only
  split
  · exact (h.updObj i _).reclaim i
  · exact h.updObj i _

theorem RackOnly.dropOwned (h : RackOnly s t) (c : CtxId) (i : Nat) : RackOnly s (Machine.dropOwned c t i) := by
  unfold Machine.dropOwned
  dsimp only
  split
  · exact (h.updObj i _).setRefs i _
  · exact h

theorem contextFreedOp_drained (hi : i < 1024) (hd : (s.slot i).st = .draining) (hn : inflight s (s.slot i).ctxId = 0) :
    contextFreedOp i s = updSlot i (fun x => { Slot.reset with desc := x.desc, cmdErr := x.cmdErr })
      (discardSaves (s.slot i).ctxId (each (s.rack.objs.cells.map Prod.fst) (dropOwned (s.slot i).ctxId) s)) := by
  simp [contextFreedOp, hi, hd, hn]

theorem contextFreed_gives (hi : i < 1024) (hd : (s.slot i).st = .draining) (hn : inflight s (s.slot i).ctxId = 0) :
    Gives (exec (.contextFreed i) s) fun t =>
      t.slot i = { Slot.reset with desc := (s.slot i).desc, cmdErr := (s.slot i).cmdErr } ∧ (∀ j, j ≠ i → t.slot j = s.slot j) ∧
      t.mar.rings = s.mar.rings ∧ t.mar.seats = s.mar.seats ∧ t.cox = s.cox ∧
      t.sld.held = s.sld.held.filter (fun h => h.1 != (s.slot i).ctxId) ∧
      t.heat.saved = s.heat.saved.filter (fun v => v.ctx != (s.slot i).ctxId) ∧
      t.fab.trees = s.fab.trees ∧ t.fab.items = s.fab.items := by
  have hdrop : RackOnly s (each (s.rack.objs.cells.map Prod.fst) (dropOwned (s.slot i).ctxId) s) :=
    each_induct _ _ s (fun _ j h => h.dropOwned _ j) rfl
  refine ⟨_, congrArg Host.Outcome.next (contextFreedOp_drained hi hd hn), ?_⟩
  generalize each (s.rack.objs.cells.map Prod.fst) (dropOwned (s.slot i).ctxId) s = u at hdrop
  obtain ⟨k, m, l, rfl⟩ : ∃ k m l, u = { s with rack := k, mem := m, heat := { s.heat with loops := l } } := ⟨_, _, _, hdrop⟩
  exact ⟨updSlot_slot_self .., fun j hj => updSlot_slot_other _ hj, rfl, rfl, rfl, rfl, rfl, rfl, rfl⟩

end Contexts

/-- Settles O16: each command by its operation with the condition met, the freed context by what dropping its objects leaves. -/
theorem contextCommandsFollowTheStateTable : Obligations.ContextCommandsFollowTheStateTable := by
  refine ⟨fun s hp hok => ⟨_, powered_next hp (createOp_ok hok), ?create⟩, fun s hp hb h => powered_next hp (stopOp_live hb h),
    fun s hp hb h => powered_next hp (resumeOp_stopped hb h), fun s hp hb h => powered_next hp (killOp_held hb h),
    fun s hp hb h hr => powered_next hp (teardownOp_ended hb h hr),
    fun s hp hb h => ⟨_, powered_next hp (setWeightOp_held hb h), ctxApply_slot_self _ s, fun i => ctxApply_slot_other _, rfl⟩,
    fun i s hi hd hn => contextFreed_gives hi hd hn⟩
  case create =>
    have hx : (newShare (ctxApply loadDesc s)).slot (ctxSlot s) = { loadDesc (s.slot (ctxSlot s)) with cmdErr := false } :=
      ctxApply_slot_self loadDesc s
    beta_reduce
    rw [hx]
    exact ⟨rfl, rfl, rfl, rfl, rfl, rfl, fun i => ctxApply_slot_other loadDesc, rfl, rfl, rfl, rfl, rfl, rfl, rfl, rfl, rfl, rfl⟩

/-- Settles O17: each command by its operation with the condition failed. -/
theorem refusedContextCommandsSetCmdErrOnly : Obligations.RefusedContextCommandsSetCmdErrOnly :=
  ⟨fun _ hp h => powered_next hp (createOp_refused h), fun _ hp h => powered_next hp (stopOp_refused h),
    fun _ hp h => powered_next hp (resumeOp_refused h),
    fun _ hp h => ⟨powered_next hp (killOp_refused h), powered_next hp (setWeightOp_refused h)⟩,
    fun _ hp h => powered_next hp (teardownOp_refused h),
    fun s => ⟨ctxRefuse_slot_self s, fun _ => ctxRefuse_slot_other, rfl⟩⟩

section Objects
variable {s t : State} {h : W32} {i n : Nat}

/-! ### The host's operations on objects -/

theorem refAddOp_host_ok (hs : objStale s h = false) (hf : (objOf s h).st ≠ .forced) (hn : (objOf s h).refs + 1 ≤ 0xFFFFFFFF) :
    refAddOp none h 1 s = .ok (setRefs (hIdx h) ((objOf s h).refs + 1) s) := by
  simp [refAddOp, hs, hf, objDenied]
  omega

theorem refSubOp_host_ok (hs : objStale s h = false) (hn : 1 ≤ (objOf s h).refs) :
    refSubOp none h 1 s = .ok (setRefs (hIdx h) ((objOf s h).refs - 1) s) := by
  simp [refSubOp, hs, objDenied]
  omega

theorem freeOp_host_ok (hs : objStale s h = false) (hl : (objOf s h).st = .live) :
    freeOp none h s = .ok (setRefs (hIdx h) ((objOf s h).refs - 1)
      (updObj (hIdx h) (fun o => { o with st := .freeing, ownerRef := false }) s)) := by
  simp [freeOp, hs, hl]

theorem forceFreeOp_ok (hs : objStale s h = false) (hf : (objOf s h).st ≠ .forced) :
    forceFreeOp h s = .ok (setRefs (hIdx h) (if (objOf s h).ownerRef then (objOf s h).refs - 1 else (objOf s h).refs)
      (updObj (hIdx h) (fun o => { o with st := .forced, ownerRef := false }) s)) := by
  simp [forceFreeOp, hs, hf]

theorem refAddOp_stale {who : Option CtxId} (hs : objStale s h = true) : refAddOp who h n s = .error eStaleHandle := if_pos hs
theorem refSubOp_stale {who : Option CtxId} (hs : objStale s h = true) : refSubOp who h n s = .error eStaleHandle := if_pos hs
theorem freeOp_stale {who : Option CtxId} (hs : objStale s h = true) : freeOp who h s = .error eStaleHandle := if_pos hs
theorem forceFreeOp_stale (hs : objStale s h = true) : forceFreeOp h s = .error eStaleHandle := if_pos hs

theorem refAddOp_host_forced (hs : objStale s h = false) (hf : (objOf s h).st = .forced) :
    refAddOp none h n s = .error eObjectFreed := by simp [refAddOp, hs, hf, objDenied]

theorem freeOp_host_forced (hs : objStale s h = false) (hf : (objOf s h).st = .forced) :
    freeOp none h s = .error eObjectFreed := by simp [freeOp, hs, hf]

theorem forceFreeOp_forced (hs : objStale s h = false) (hf : (objOf s h).st = .forced) :
    forceFreeOp h s = .error eObjectFreed := by simp [forceFreeOp, hs, hf]

theorem objCommand_ok (hb : blank s = false) : objCommand h (.ok t) s = objStatus 0 h t := by simp [objCommand, hb]

theorem powered_objCommand_ok {res : Except (BitVec 16) State} (hp : s.ump.porN = true) (hb : blank s = false)
    (hr : res = .ok t) : powered s (objCommand h res s) = .next (objStatus 0 h t) := by
  rw [powered_of_porN hp, hr, objCommand_ok hb]

theorem powered_objCommand_error {res : Except (BitVec 16) State} {e : BitVec 16} (hp : s.ump.porN = true) (hb : blank s = false)
    (hr : res = .error e) : powered s (objCommand h res s) = .next (objStatus (objResult e) h s) := by
  rw [powered_of_porN hp, hr, objCommand_error hb]

/-- A count that is not 0 is one entry's change. -/
theorem setRefs_kept (hn : n ≠ 0) : setRefs i n s = updObj i (fun o => { o with refs := n }) s := if_neg hn

theorem updObj_self (i : Nat) (f : Obj → Obj) : (updObj i f s).rack.objs.get i = f (s.rack.objs.get i) :=
  (tab_get_upd ..).trans (if_pos rfl)

theorem updObj_other (f : Obj → Obj) {j : Nat} (hj : j ≠ i) : (updObj i f s).rack.objs.get j = s.rack.objs.get j :=
  (tab_get_upd ..).trans (if_neg hj)

/-- A count that does not reach 0 changes one entry's count and the status registers. -/
theorem objStatus_setRefs_kept (hn : n ≠ 0) :
    (objStatus 0 h (setRefs i n s)).rack.objs.get i = { s.rack.objs.get i with refs := n } ∧
    (∀ j, j ≠ i → (objStatus 0 h (setRefs i n s)).rack.objs.get j = s.rack.objs.get j) ∧
    objStatus 0 h (setRefs i n s) = { s with rack := (objStatus 0 h (setRefs i n s)).rack } := by
  rw [setRefs_kept hn]
  exact ⟨updObj_self .., fun j hj => updObj_other _ hj, rfl⟩

/-- The entry that OBJECT_REGISTER makes (R70). -/
def registeredObj (shared golden : Bool) (s : State) : Obj :=
  { Obj.reset with
    base := fld s.rack.arg0 0 56, size := fld s.rack.arg1 0 48, owner := w16 (fld s.rack.arg1 48 16), shared := shared,
    golden := golden, goldenAddr := if golden then s.rack.arg2 else 0,
    partition := ctxPartition s (w16 (fld s.rack.arg1 48 16)) }

theorem objectRegisterOp_given {shared golden : Bool} (hb : blank s = false) (ha : registerArgsOk s = true)
    (hi : freeIndex s = some i) : objectRegisterOp shared golden s =
      objStatus 0 (mkHandle i ((newObject i (registeredObj shared golden s) s.nextFree).rack.objs.get i).gen)
        (newObject i (registeredObj shared golden s) s.nextFree) := by
  simp only [objectRegisterOp, hb, ha, hi]
  rfl

theorem newObject_self (o : Obj) : (newObject i o s).rack.objs.get i =
    { o with gen := (s.rack.objs.get i).gen, refs := 1, st := .live, ownerRef := true } := updObj_self ..

end Objects

/-- Settles O18: each operation with its checks passed, and the entry it changes. -/
theorem objectCommandsActWhenTheirChecksPass : Obligations.ObjectCommandsActWhenTheirChecksPass := by
  have add : ∀ (h : W32) (s : State), s.ump.porN = true → blank s = false → objStale s h = false → (objOf s h).st ≠ .forced →
      (objOf s h).refs + 1 ≤ 0xFFFFFFFF →
      exec (.refAdd h) s = .next (objStatus 0 h (setRefs (hIdx h) ((objOf s h).refs + 1) s)) :=
    fun h s hp hb hs hf hn => powered_objCommand_ok hp hb (refAddOp_host_ok hs hf hn)
  have sub : ∀ (h : W32) (s : State), s.ump.porN = true → blank s = false → objStale s h = false → 1 ≤ (objOf s h).refs →
      exec (.refSub h) s = .next (objStatus 0 h (setRefs (hIdx h) ((objOf s h).refs - 1) s)) :=
    fun h s hp hb hs hn => powered_objCommand_ok hp hb (refSubOp_host_ok hs hn)
  refine ⟨add, sub, fun h s hp hb hs hl => powered_objCommand_ok hp hb (freeOp_host_ok hs hl),
    fun h s hp hb hs hf => powered_objCommand_ok hp hb (forceFreeOp_ok hs hf),
    fun h s hp hb hs => ⟨_, powered_objCommand_ok hp hb (by rw [hs]; rfl), rfl, rfl, rfl, rfl⟩,
    fun shared golden s i hp hb ha hi => ⟨_, powered_next hp (objectRegisterOp_given hb ha hi), ?register⟩,
    fun h s hp hb hs hf hn => ⟨_, add h s hp hb hs hf hn, objStatus_setRefs_kept (Nat.succ_ne_zero _)⟩,
    fun h s hp hb hs hn => ⟨_, sub h s hp hb hs (by omega), objStatus_setRefs_kept (by omega)⟩⟩
  case register =>
    have he := newObject_self (i := i) (s := s.nextFree) (registeredObj shared golden s)
    beta_reduce
    rw [objStatus_objs, he]
    exact ⟨rfl, rfl, rfl, rfl, rfl, rfl, rfl, rfl, by rw [← he]; rfl, fun j hj => updObj_other _ hj, rfl, rfl, rfl⟩

/-- Settles O19: each operation by its first failing check. -/
theorem objectCommandsReportTheFirstFailingCheck : Obligations.ObjectCommandsReportTheFirstFailingCheck := by
  refine ⟨fun h s hp hb hs => ?stale, fun h s hp hb hs hf => ?forced, fun h s hp hb hs hf ho => ?above, fun h s hp hb hs hz => ?below,
    fun n h s => ⟨rfl, rfl, rfl⟩⟩
  case stale =>
    exact ⟨powered_objCommand_error hp hb (refAddOp_stale hs), powered_objCommand_error hp hb (refSubOp_stale hs),
      powered_objCommand_error hp hb (freeOp_stale hs), powered_objCommand_error hp hb (forceFreeOp_stale hs),
      powered_objCommand_error hp hb (if_pos hs)⟩
  case forced =>
    exact ⟨powered_objCommand_error hp hb (refAddOp_host_forced hs hf), powered_objCommand_error hp hb (freeOp_host_forced hs hf),
      powered_objCommand_error hp hb (forceFreeOp_forced hs hf)⟩
  case above => exact powered_objCommand_error hp hb (refAddOp_of_overflow hs rfl hf ho)
  case below => exact powered_objCommand_error hp hb (refSubOp_of_underflow hs rfl (by omega))

section HostFences
variable {s t : State} {v : BitVec 63} {cls : BitVec 7} {code : BitVec 16}

theorem hsigCmd_free {f : State → State} (hf : s.ports.hsigBusy = false) (h : f s = t) : hsigCmd f s = .next t := by
  rw [hsigCmd, hf, if_neg Bool.false_ne_true, h]

theorem hostSignalOp_aligned (hb : blank s = false) (hu : computeUp s = true) (ha : hsigAddrOf s % 8 = 0) :
    hostSignalOp v s = issueAt opMaxu (hsigAddrOf s) (hsigCtxOf s) (v.setWidth 64) 0 (.hostSignal (v.setWidth 64)) islStb
      (hsigBegin s) := by simp [hostSignalOp, hb, hu, ha]

theorem hostSignalOp_unaligned (hb : blank s = false) (hu : computeUp s = true) (ha : hsigAddrOf s % 8 ≠ 0) :
    hostSignalOp v s = hsigBad s := by simp [hostSignalOp, hb, hu, ha]

theorem hostFailOp_good (hb : blank s = false) (hu : computeUp s = true) (ha : hsigAddrOf s % 8 = 0) (h1 : 1 ≤ cls.toNat)
    (h3 : cls.toNat ≤ 3) :
    hostFailOp cls code s = failFenceStart .host (hsigAddrOf s) (hsigCtxOf s) cls.toNat code (hsigBegin s) := by
  have hlo : ¬ cls.toNat < 1 := by omega
  have hhi : ¬ 3 < cls.toNat := by omega
  simp only [hostFailOp, hb, hu, ha, hlo, hhi]
  rfl

theorem hostFailOp_unaligned (hb : blank s = false) (hu : computeUp s = true) (ha : hsigAddrOf s % 8 ≠ 0) :
    hostFailOp cls code s = hsigBad s := by simp [hostFailOp, hb, hu, ha]

theorem hostFailOp_badClass (hb : blank s = false) (hu : computeUp s = true) (hc : cls.toNat = 0 ∨ 3 < cls.toNat) :
    hostFailOp cls code s = hsigBad s := by
  have hbad : (hsigAddrOf s % 8 != 0 || decide (cls.toNat < 1) || decide (3 < cls.toNat)) = true := by
    rcases hc with hc | hc <;> simp [hc]
  simp only [hostFailOp, hb, hu, hbad]
  rfl

end HostFences

/-- Settles O21: the two commands by their operations, and `hsigBad` as it is defined. -/
theorem hostSignalsReachTheFence : Obligations.HostSignalsReachTheFence := by
  refine ⟨fun v s hf hb hu ha => ⟨_, hsigCmd_free hf (hostSignalOp_aligned hb hu ha), ?signal⟩,
    fun cls code s hf hb hu ha h1 h3 => hsigCmd_free hf (hostFailOp_good hb hu ha h1 h3),
    fun v cls code s hf hb hu ha => ⟨hsigCmd_free hf (hostSignalOp_unaligned hb hu ha),
      hsigCmd_free hf (hostFailOp_unaligned hb hu ha)⟩,
    fun cls code s hf hb hu hc => hsigCmd_free hf (hostFailOp_badClass hb hu hc), fun s => ⟨rfl, rfl, rfl, rfl⟩⟩
  case signal =>
    beta_reduce
    rw [issueAt_ports, issueAt_mar, issueAt_rack, issueAt_stb]
    exact ⟨⟨_, rfl, rfl, rfl, rfl, rfl⟩, rfl, rfl, rfl, rfl, rfl⟩

end Sys2Proof.Machine

/-! What the trees, the piece fetch, the synchronisation port and the memory ports bring to the units (R19, R177 to R187, R203,
R204, R226 to R228). -/
namespace Sys2Proof.Machine

section TreeMessages
variable {s : State} {t c addr offset seat : Nat} {f : Flight} {m : LaunchMsg}

/-- The message that has reached a cluster is of its own kind. -/
theorem flightOf_atRow {k : MsgKind} (hu : computeUp s = true) (ha : atRow s t c = some f) (hk : f.msg.kind = k) :
    flightOf s t c k = some f := by simp [flightOf, hu, ha, hk]

theorem pieceOp_taken (hf : flightOf s t c .piece = some f) (hn : slotsFull s c f.msg.engine = false) :
    pieceOp t c s = settleRow c (takeSlot c f.msg.piece 0 f.msg (deliver t c f s)) := by simp [pieceOp, hf, hn]

theorem pieceOp_full (hf : flightOf s t c .piece = some f) (hn : slotsFull s c f.msg.engine = true) : pieceOp t c s = s := by
  simp [pieceOp, hf, hn]

theorem crewPieceOp_taken (hf : flightOf s t c .crewPiece = some f) (hn : slotsFull s c f.msg.engine = false) :
    crewPieceOp t c s = settleRow c (takeSlot c
      ((f.msg.piece + crewRank (crewFor s f.msg.epoch f.msg.target).members c * f.msg.stride * 64) % 2 ^ 56)
      (staggerOffset s c f.msg.engine (crewFor s f.msg.epoch f.msg.target).members.length
        (crewRank (crewFor s f.msg.epoch f.msg.target).members c)) f.msg (deliver t c f s)) := by
  simp [crewPieceOp, hf, hn]

theorem cancelOp_given (hf : flightOf s t c .cancel = some f) :
    cancelOp t c s = settleRow c (each (busyEngines (deliver t c f s) c) (fun s e =>
      each ((s.eng c e).pieces.filter (covered f.msg)) (fun s p => cutPiece c e p.id none s) s) (deliver t c f s)) := by
  simp [cancelOp, hf]

theorem holdOp_given (hf : flightOf s t c .hold = some f) : holdOp t c s = settleRow c (updRow c (fun r => { r with
    holds := r.holds.filter (fun h => h.1 != f.msg.holdId) ++ [(f.msg.holdId, ⟨f.msg.ctx, false⟩)] }) (deliver t c f s)) := by
  simp [holdOp, hf]

theorem releaseOp_given (hf : flightOf s t c .release = some f) : releaseOp t c s = settleRow c (updRow c (fun r => { r with
    holds := r.holds.filter fun h => h.1 != f.msg.holdId }) (deliver t c f s)) := by
  simp [releaseOp, hf]

theorem cancelSendOp_entry {o : Owner} {ctx : CtxId} {entry : Count} {rest : List (Option Owner × CtxId × Nat × Count)}
    (hu : computeUp s = true) (hc : s.mar.cancels = (some o, ctx, seat, entry) :: rest) (hl : launchHeld s seat = false) :
    cancelSendOp s =
      sendCancel (some o) ctx seat entry (abortOwner o (updMar (fun m => { m with cancels := rest }) s)) := by
  simp [cancelSendOp, hu, hc, hl, each]

/-! ### Slots -/

theorem updEng_eng_self (c e : Nat) (g : Engine → Engine) (s : State) : (updEng c e g s).eng c e = g (s.eng c e) := by
  simp only [State.eng, updEng, updRow_row_self, tab_get_upd, if_pos]

theorem updEng_eng_other {e e' : Nat} (g : Engine → Engine) (h : e' ≠ e) : (updEng c e g s).eng c e' = s.eng c e' := by
  simp only [State.eng, updEng, updRow_row_self, tab_get_upd, if_neg h]

theorem takeSlot_rows : RowsOnly s (takeSlot c addr offset m s) := rfl

theorem takeSlot_row_other {d : Nat} (h : d ≠ c) : (takeSlot c addr offset m s).row d = s.row d :=
  (updRow_row_other _ h).trans (updRow_row_other _ h)

theorem takeSlot_nextPiece : ((takeSlot c addr offset m s).row c).nextPiece = (s.row c).nextPiece + 1 :=
  congrArg Rowlock.nextPiece (updRow_row_self ..)

/-- A slot's row but for its piece counter is what `updEng` makes of it. -/
theorem takeSlot_eng (e : Nat) : (takeSlot c addr offset m s).eng c e =
    (updEng c m.engine (fun g => { g with pieces := g.pieces ++ [mkPiece (s.row c).nextPiece addr s.now offset m] }) s).eng c e := by
  unfold takeSlot State.eng
  dsimp only
  rw [updRow_row_self]

end TreeMessages

/-- Settles O41: each message by its operation on the flight that has reached the cluster, the slot by `takeSlot`. -/
theorem treeMessagesReachTheirCluster : Obligations.TreeMessagesReachTheirCluster := by
  refine ⟨fun t c f s hu ha => ⟨fun hk => ⟨fun hn => congrArg Host.Outcome.next (pieceOp_taken (flightOf_atRow hu ha hk) hn),
      fun hn => congrArg Host.Outcome.next (pieceOp_full (flightOf_atRow hu ha hk) hn)⟩, ?crew,
    fun hk => congrArg Host.Outcome.next (cancelOp_given (flightOf_atRow hu ha hk)),
    fun hk => congrArg Host.Outcome.next (holdOp_given (flightOf_atRow hu ha hk)),
    fun hk => congrArg Host.Outcome.next (releaseOp_given (flightOf_atRow hu ha hk)),
    fun o ctx seat entry rest hc hl => congrArg Host.Outcome.next (cancelSendOp_entry hu hc hl)⟩, ?slot⟩
  case crew =>
    rintro ms i hk rfl rfl hn
    exact congrArg Host.Outcome.next (crewPieceOp_taken (flightOf_atRow hu ha hk) hn)
  case slot =>
    rintro c addr offset m s t rfl
    refine ⟨?_, takeSlot_nextPiece, fun e he => ?_, fun d => takeSlot_row_other, takeSlot_rows⟩
    · rw [takeSlot_eng, updEng_eng_self]
    · rw [takeSlot_eng, updEng_eng_other _ he]

section Fetch
variable {s : State} {c e tag : Nat} {p : Piece} {data : List W64} {last : Bool} {err : RespErr} {q : ChunkReq}

theorem chunkRequestOp_last {n : Nat} (hu : computeUp s = true)
    (hb : best (fun a b => a.due.getD 0 < b.due.getD 0) ((s.eng c e).pieces.filter fun p => p.due.isSome && !p.cut) = some p)
    (hn : n = min 64 (p.msg.count - p.asked)) (hr : n ≤ bufferRoom (s.eng c e)) (hl : (s.row c).chunks.length < 16)
    (ht : tag = leastFree ((s.row c).chunks.map (·.tag)) 16 0) (ha : p.asked + n = p.msg.count) (hp : p.active = false) :
    chunkRequestOp c e s = hangEv (islRow c) 0x01 (5 + put tag 4 10 + put ((p.addr + 64 * p.asked) / 256) 16 48)
      (updPiece c e p.id (fun q => { q with asked := q.asked + n, due := none, dueSince := none })
        (updRow c (fun r => { r with
          chunks := r.chunks ++ [⟨tag, e, p.id, p.msg.ctx, p.asked, p.asked, n, false, p.addr + 64 * p.asked, s.now, false⟩] })
          s)) := by
  have hgo : ¬ (!computeUp s || bufferRoom (s.eng c e) < n || 16 ≤ (s.row c).chunks.length) = true := by
    simp [hu, hr, hl]
  have hend : ¬ p.asked + n < p.msg.count := by omega
  unfold chunkRequestOp
  simp only [hb, ← hn, ← ht]
  rw [if_neg hgo, if_neg hend, if_neg (by simp [hp])]

theorem execRpResponse_given (hc : c < s.build.clusters) (hq : ((s.row c).chunks.find? fun q => q.tag == tag) = some q)
    (hr : inReset s = false) (hf : q.failed = false) :
    execRpResponse c tag data last err s = .next (settleRow c (takeBeat c q data err (rspEv (islRow c) 5 tag err
      (updRow c (fun r => { r with
        chunks := if last then r.chunks.filter (fun x => x.tag != tag) else r.chunks.map (nextBeat tag err) }) s)))) := by
  simp only [execRpResponse, if_neg (Nat.not_le.2 hc), hq, hr, hf, if_neg Bool.false_ne_true]

theorem execRpResponse_unknown (hc : c < s.build.clusters) (hq : ((s.row c).chunks.find? fun q => q.tag == tag) = none) :
    execRpResponse c tag data last err s = .fault (.portProtocol "rp_rsp") := by
  simp only [execRpResponse, if_neg (Nat.not_le.2 hc), hq]

end Fetch

section Arrivals
variable {s t : State} {c : Nat} {ctr : BitVec 6} {inc : BitVec 16} {ctx : CtxId}

theorem execArrival_on (hc : c < s.build.clusters) (hp : s.ump.porN = true) (h : arrivalOp c ctr inc ctx s = t) :
    execArrival c ctr inc ctx s = .next (settleRow c t) := by
  rw [execArrival, if_neg (Nat.not_le.2 hc), powered_of_porN hp, h]

theorem arrivalOp_badCounter (hr : inReset s = false) (hn : 48 ≤ ctr.toNat) : arrivalOp c ctr inc ctx s =
    logRec .nothing { LogRec.zero with code := eBadArrival, island := islRow c, cluster := c, ctx := ctx } s := by
  simp [arrivalOp, hr, hn]

theorem arrivalOp_taken (hr : inReset s = false) (hn : ctr.toNat < 48) (hw : (s.row c).arrWait = [])
    (ht : takeArrival c ctx ctr.toNat inc.toNat s = some t) : arrivalOp c ctr inc ctx s = t := by
  simp [arrivalOp, hr, Nat.not_le.2 hn, hw, ht]

theorem arrivalOp_held (hr : inReset s = false) (hn : ctr.toNat < 48) (hw : (s.row c).arrWait = [])
    (ht : takeArrival c ctx ctr.toNat inc.toNat s = none) : arrivalOp c ctr inc ctx s =
      refuseEv (islRow c) 9 false true (updRow c (fun r => { r with
        arrHeld := some s.now, arrWait := [(ctx, ctr.toNat, inc.toNat)] }) s) := by
  simp [arrivalOp, hr, Nat.not_le.2 hn, hw, ht]

theorem arrivalStallOp_stalled {since : Nat} (hh : ((drainArrivals c 70 s).row c).arrHeld = some since)
    (hd : 10 * msTu ≤ (drainArrivals c 70 s).now - since) : arrivalStallOp c s =
      raise4 { LogRec.zero with code := eArrivalStall, island := islRow c, cluster := c } (drainArrivals c 70 s) := by
  simp only [arrivalStallOp, hh, if_pos hd]

end Arrivals

/-- Settles O42: the chunk by `chunkRequestOp`, its answer by `execRpResponse`, the arrivals by the cases of `arrivalOp`. -/
theorem chunksAndArrivalsReachTheirRowlock : Obligations.ChunksAndArrivalsReachTheirRowlock := by
  refine ⟨fun c e n tag p s hu hb hn hr hl ht ha hp => congrArg Host.Outcome.next (chunkRequestOp_last hu hb hn hr hl ht ha hp),
    fun c tag data last err q s hc hq hr hf => execRpResponse_given hc hq hr hf,
    fun c tag data last err s hc hq => execRpResponse_unknown hc hq,
    fun c ctr inc ctx s hc hp hr => ⟨fun hn => execArrival_on hc hp (arrivalOp_badCounter hr hn),
      fun t hn hw ht => execArrival_on hc hp (arrivalOp_taken hr hn hw ht),
      fun hn hw ht => execArrival_on hc hp (arrivalOp_held hr hn hw ht)⟩, ?stall⟩
  case stall =>
    rintro c since s _ hp rfl hh hd
    exact powered_next hp (arrivalStallOp_stalled hh hd)

section Responses
variable {s : State} {tag i : Nat} {data : List W64} {err : RespErr} {old : W64}

theorem execNmResponse_given {q : MemReq} (hq : (s.ports.nm.find? fun q => q.tag == tag && q.tag < portTags) = some q)
    (hn : s.ports.nm.length < portTags) : execNmResponse tag data err s = .next (memAnswer 0 q data err
      (rspEv q.isl 0 tag err (updPorts (fun p => { p with nm := dropMem s.now tag p.nm }) s))) := by
  simp only [execNmResponse, hq, if_neg (Nat.not_le.2 hn)]

theorem execAtResponse_given {q : AtReq} (hq : (s.ports.at_.find? fun q => q.tag == tag && q.tag < portTags) = some q)
    (hn : s.ports.at_.length < portTags) : execAtResponse tag old err s = .next (atAnswer q old err
      (rspEv q.isl 1 tag err (updPorts (fun p => { p with at_ := dropAt s.now tag p.at_ }) s))) := by
  simp only [execAtResponse, hq, if_neg (Nat.not_le.2 hn)]

theorem execHmResponse_given {q : MemReq} (hq : (s.ports.hm.find? fun q => q.tag == tag && q.tag < portTags) = some q) :
    execHmResponse tag data err s = .next (memAnswer 2 q data err
      (rspEv q.isl 2 tag err (updPorts (fun p => { p with hm := dropMem s.now tag p.hm }) s))) := by
  simp only [execHmResponse, hq]

/-- A beat that is not the last one leaves its request on the port. -/
theorem execWdResponse_beat {bytes : List Byte} {q : WdReq} (hq : (s.ports.wd.find? fun q => q.tag == tag) = some q)
    (hd : s.ump.rst ≠ .dead) : execWdResponse tag bytes false .ok s = .next (rspEv islJdl 3 tag .ok (updPorts (fun p => { p with
      wd := p.wd.map fun x => if x.tag == tag then wideBeat bytes .ok q else x }) s)) := by
  simp [execWdResponse, hq, hd]

theorem execWkResponse_block {b : TraceBlock}
    (hi : ((List.range 8).find? fun i => (s.stream i).blocks.any fun b => b.tag == tag && !b.answered) = some i)
    (hb : ((s.stream i).blocks.find? fun b => b.tag == tag && !b.answered) = some b) (hs : b.stale = false)
    (hu : computeUp s = true) : execWkResponse tag .ok s = .next (writeFull i 8 (updStream i (fun st =>
      popBlocks { st with blocks := st.blocks.map fun x => if x.tag == tag then { x with answered := true } else x } 64)
      (rspEv islWak 4 tag .ok s))) := by
  simp [execWkResponse, hi, hb, hs, hu]

theorem execNmResponse_unknown (hq : (s.ports.nm.find? fun q => q.tag == tag && q.tag < portTags) = none) :
    execNmResponse tag data err s = .fault (.portProtocol "nm_rsp") := by simp only [execNmResponse, hq]

theorem execHmResponse_unknown (hq : (s.ports.hm.find? fun q => q.tag == tag && q.tag < portTags) = none) :
    execHmResponse tag data err s = .fault (.portProtocol "hm_rsp") := by simp only [execHmResponse, hq]

theorem execAtResponse_unknown (hq : (s.ports.at_.find? fun q => q.tag == tag && q.tag < portTags) = none) :
    execAtResponse tag old err s = .fault (.portProtocol "at_rsp") := by simp only [execAtResponse, hq]

end Responses

/-- Settles O45: each port by the request that carries the tag, or by none. -/
theorem responsesEndTheirRequests : Obligations.ResponsesEndTheirRequests :=
  ⟨fun _ _ _ _ _ => execNmResponse_given, fun _ _ _ _ _ => execAtResponse_given, fun _ _ _ _ _ => execHmResponse_given,
    fun _ _ _ _ => execWdResponse_beat, fun _ _ _ _ => execWkResponse_block,
    fun _ _ _ _ => ⟨execNmResponse_unknown, execHmResponse_unknown⟩, fun _ _ _ _ => execAtResponse_unknown⟩

end Sys2Proof.Machine

/-! Rings, their entries and timers, and the seats of the cores (R88 to R116, R131, R148). -/
namespace Sys2Proof.Machine

section Doorbells
variable {s : State} {r t0 t : Nat}

theorem doorbellOp_built (hr : r < s.build.rings) : doorbellOp r s = knock r s := if_pos hr

theorem stormBeginOp_due (hr : r < s.build.rings) (hs : (s.ring r).storm = false) (hk : (s.ring r).knockRun = some t0)
    (hl : (s.ring r).lastDoorbell = some t) (h50 : 50 * msTu < s.now - t0) (h2 : s.now - t < 2 * usTu) :
    stormBeginOp r s = logRec .nothing { LogRec.zero with code := eDoorbellStorm, island := islMar, ring := r }
      (updRing r (fun g => { g with storm := true }) s) := by
  simp [stormBeginOp, hr, hs, hk, hl, h50, h2]

theorem stormLookOp_due (hs : (s.ring r).storm = true) (hb : (s.ring r).st ≠ .unbound)
    (hl : 2 * usTu ≤ s.now - (s.ring r).lastLook) : stormLookOp r s = lookNow r s := by simp [stormLookOp, hs, hb, hl]

theorem stormEndOp_due (hs : (s.ring r).storm = true) (hl : (s.ring r).lastDoorbell = some t) (h50 : 50 * msTu ≤ s.now - t) :
    stormEndOp r s = updRing r (fun g => { g with storm := false, knockRun := none }) s := by simp [stormEndOp, hs, hl, h50]

end Doorbells

/-- Settles O22: each operation under its conditions. -/
theorem doorbellsMakeMarshalLook : Obligations.DoorbellsMakeMarshalLook :=
  ⟨fun _ _ hp hr => powered_next hp (doorbellOp_built hr),
    fun _ _ _ _ hr hs hk hl h50 h2 => congrArg Host.Outcome.next (stormBeginOp_due hr hs hk hl h50 h2),
    fun _ _ hs hb hl => congrArg Host.Outcome.next (stormLookOp_due hs hb hl),
    fun _ _ _ hs hl h50 => ⟨_, congrArg Host.Outcome.next (stormEndOp_due hs hl h50), updRing_ring_self .., fun _ => updRing_ring_other _, rfl⟩⟩

section Entries
variable {s : State} {r : Nat} {since : Count} {w : Raw}

theorem invalidateOp_taken (hb : blank s = false) (hr : r < s.build.rings) (hu : (s.ring r).st ≠ .unbound)
    (hc : cntLt since (s.ring r).begun = false) (hl : (s.ring r).level = 0) :
    invalidateOp r since s = settle r (unoffer r (forgetReads r (fun c => !(cntLt c since)) (updRing r (fun g => { g with
      cache := g.cache.filter (fun c => cntLt c.count since), reads := g.reads.filter (fun c => cntLt c since),
      raws := g.raws.filter (fun c => cntLt c.count since),
      fetch := if cntLt since g.fetch then since else g.fetch, sawFree := g.sawFree && cntLt g.fetch since,
      held := true, holdAt := since, invalRefused := false }) s))) := by
  simp [invalidateOp, hb, Nat.not_le.2 hr, hu, hc, hl]

theorem invalidateOp_refused (hb : blank s = false) (hr : r < s.build.rings)
    (h : (s.ring r).st = .unbound ∨ cntLt since (s.ring r).begun = true ∨ 0 < (s.ring r).level) :
    invalidateOp r since s = updRing r (fun g => { g with invalRefused := true }) s := by
  have hbad : ((s.ring r).st == .unbound || cntLt since (s.ring r).begun || decide (0 < (s.ring r).level)) = true := by
    simpa [or_assoc] using h
  simp only [invalidateOp, hb, Nat.not_le.2 hr, hbad]
  rfl

theorem dbReleaseOp_built (hb : blank s = false) (hr : r < s.build.rings) :
    dbReleaseOp r s = knock r (updRing r (fun g => { g with held := false }) s) := by
  simp [dbReleaseOp, hb, Nat.not_le.2 hr]

theorem entryFetchedOp_next (hw : nextRaw (s.ring r) = some w) : entryFetchedOp r s = policy (settle r (takeRaw r w s)) := by
  simp only [entryFetchedOp, hw]

theorem entryRereadOp_due (hr : (s.ring r).raws = [w]) (hs : w.second = false) (he : w.err = .ok) (ho : enOwn w.words = true)
    (hc : enCheck w.words ≠ entryCrc w.words) (ht : 2 * usTu ≤ s.now - w.at_) :
    entryRereadOp r s = readEntry r w.count true (dropRaw r w.count s) := by
  simp [entryRereadOp, hr, hs, he, ho, hc, ht]

end Entries

/-- Settles O23: each operation under its conditions. -/
theorem entriesAreFetchedTakenAndForgotten : Obligations.EntriesAreFetchedTakenAndForgotten :=
  ⟨fun _ _ _ hb hr hu hc hl => congrArg Host.Outcome.next (invalidateOp_taken hb hr hu hc hl),
    fun _ _ _ hb hr h => ⟨_, congrArg Host.Outcome.next (invalidateOp_refused hb hr h), updRing_ring_self ..,
      fun _ => updRing_ring_other _, rfl⟩,
    fun _ _ hb hr => congrArg Host.Outcome.next (dbReleaseOp_built hb hr),
    fun _ _ _ hw => congrArg Host.Outcome.next (entryFetchedOp_next hw),
    fun _ _ _ hr hs he ho hc ht => congrArg Host.Outcome.next (entryRereadOp_due hr hs he ho hc ht)⟩

section RingCommands
variable {s t : State} {i : Nat} {skip : Bool}

theorem ringCmd_next {f : State → State} (hp : s.ump.porN = true) (ha : abandoning (s.ring (ringSel s)) = false) (h : f s = t) :
    ringCmd f s = .next t := by rw [ringCmd, ha, if_neg Bool.false_ne_true, powered_next hp h]

theorem ringCmd_busy {f : State → State} (ha : abandoning (s.ring (ringSel s)) = true) :
    ringCmd f s = .fault (.portProtocol "MAR_RING_CMD") := if_pos ha

theorem not_abandoning_of_normal {g : Ring} (h : g.mode = .normal) : abandoning g = false := by simp [abandoning, h]

theorem ringClear_sel : (ringClear s).ring (ringSel s) = { s.ring (ringSel s) with cmdErr := false } := updRing_ring_self ..

theorem bindOp_ok (h : bindOk s = true) : bindOp s =
    lookNow (ringSel s) (queuePub (ringSel s) [.record 0 0]
      (countRing ((updRing (ringSel s) boundRing s).ring (ringSel s)).ctx (· + 1) (updRing (ringSel s) boundRing s))) := if_pos h

/-- Nothing stands in the way of a pin onto an empty seat of a ring without one. -/
theorem pinOp_free (h : pinOk s i = true) (hi : (s.seat i).ring = none) (hr : (s.ring (ringSel s)).seat = none) :
    pinOp i s = policy (updRing (ringSel s) (fun g => { g with pin := some i }) (ringClear s)) := by
  have hseat : ((updRing (ringSel s) (fun g => { g with pin := some i }) (ringClear s)).seat i).ring = none := hi
  have hring : ((updRing (ringSel s) (fun g => { g with pin := some i }) (ringClear s)).ring (ringSel s)).seat = none := by
    rw [updRing_ring_self, ringClear_sel]
    exact hr
  simp only [pinOp, if_pos h, hseat, hring]

theorem unpinOp_pinned (h : ringCmdOk s = true) (hb : (s.ring (ringSel s)).st ≠ .unbound)
    (hp : (s.ring (ringSel s)).pin.isSome = true) :
    unpinOp s = policy (settle (ringSel s) (updRing (ringSel s) (fun g => { g with pin := none }) (ringClear s))) := by
  simp [unpinOp, h, hb, hp]

theorem updateOp_bound (h : ringCmdOk s = true) (hb : (s.ring (ringSel s)).st ≠ .unbound) :
    updateOp s = policy (settle (ringSel s) (updRing (ringSel s) loadPolicyRegs (ringClear s))) := by simp [updateOp, h, hb]

theorem unbindOp_empty (h : ringCmdOk s = true) (hb : (s.ring (ringSel s)).st ≠ .unbound)
    (he : (s.ring (ringSel s)).begun = (s.ring (ringSel s)).head) (hr : ringRunning s (s.ring (ringSel s)) = false)
    (hs : (s.ring (ringSel s)).seat = none) : unbindOp s =
      policy (countRing (s.ring (ringSel s)).ctx (· - 1) (forgetReads (ringSel s) (fun _ => true)
        (updRing (ringSel s) (fun g => { Ring.reset with
          regBase := g.regBase, regCmpl := g.regCmpl, regCfg := g.regCfg, regStartSeq := g.regStartSeq, regEnq := g.regEnq,
          head := g.head, begun := g.begun, fetch := g.fetch, recHead := g.recHead, lastDoorbell := g.lastDoorbell,
          knockRun := g.knockRun, storm := g.storm }) s))) := by
  simp [unbindOp, h, hb, he, hr, hs]

/-- RESTART of a STOPPED ring: what the reason asks for, and the ring goes on. -/
theorem restartOp_stopped (h : ringCmdOk s = true) (hs : (s.ring (ringSel s)).st = .stopped)
    (hm : (s.ring (ringSel s)).mode = .normal) : restartOp skip s = ringGoesOn (ringSel s)
      (if (s.ring (ringSel s)).reason ≤ 7 then
        (if skip then skipLatched (ringSel s) (ringClear s)
          else updRing (ringSel s) (fun g => { g with fetch := g.latched }) (ringClear s))
      else if (s.ring (ringSel s)).reason == 10 then queuePub (ringSel s) [recordStep (s.ring (ringSel s))]
        (updRing (ringSel s) (fun g => { g with st := .idle }) (ringClear s))
      else ringClear s) := by
  simp [restartOp, h, hs, hm]

theorem abandonOp_stopped (h : ringCmdOk s = true) (hs : (s.ring (ringSel s)).st = .stopped)
    (hm : (s.ring (ringSel s)).mode = .normal) : abandonOp s =
      policy (settle (ringSel s) (forgetReads (ringSel s) (fun _ => true)
        (updRing (ringSel s) (fun g => { g with
          mode := .abandon (2 ^ g.log2), latchPending := false, cache := [], reads := [], raws := [],
          fetch := g.begun, sawFree := false })
          (logRec .nothing { LogRec.zero with
            cls := 2, code := eRingAbandoned, island := islMar, ctx := (s.ring (ringSel s)).ctx, ring := ringSel s,
            count := (s.ring (ringSel s)).begun } (ringClear s))))) := by
  simp [abandonOp, h, hs, hm]

theorem bindOp_refused (h : bindOk s = false) : bindOp s = ringRefuse s := by simp [bindOp, h]
theorem pinOp_refused (h : pinOk s i = false) : pinOp i s = ringRefuse s := by simp [pinOp, h]
theorem unbindOp_unbound (h : (s.ring (ringSel s)).st = .unbound) : unbindOp s = ringRefuse s := by simp [unbindOp, h]
theorem unpinOp_unbound (h : (s.ring (ringSel s)).st = .unbound) : unpinOp s = ringRefuse s := by simp [unpinOp, h]
theorem updateOp_unbound (h : (s.ring (ringSel s)).st = .unbound) : updateOp s = ringRefuse s := by simp [updateOp, h]
theorem abandonOp_notStopped (h : (s.ring (ringSel s)).st ≠ .stopped) : abandonOp s = ringRefuse s := by simp [abandonOp, h]
theorem restartOp_notStopped (h : (s.ring (ringSel s)).st ≠ .stopped) : restartOp skip s = ringRefuse s := by simp [restartOp, h]

/-- Every ring command goes through `ringCmd`. -/
theorem exec_ringCommand {c : Instr} (hc : c ∈ [Instr.bind, .unbind, .restart skip, .abandon, .pin i, .unpin, .update]) :
    ∃ f, exec c s = ringCmd f s := by
  simp only [List.mem_cons, List.not_mem_nil, or_false] at hc
  rcases hc with rfl | rfl | rfl | rfl | rfl | rfl | rfl
  exacts [⟨bindOp, rfl⟩, ⟨unbindOp, rfl⟩, ⟨restartOp skip, rfl⟩, ⟨abandonOp, rfl⟩, ⟨pinOp i, rfl⟩, ⟨unpinOp, rfl⟩, ⟨updateOp, rfl⟩]

end RingCommands

/-- Settles O24: each command by its operation, with its conditions met and with them failed. -/
theorem ringCommandsTakeEffect : Obligations.RingCommandsTakeEffect := by
  refine ⟨fun s hp ha h => ringCmd_next hp ha (bindOp_ok h), fun i s hp ha h hi hr => ringCmd_next hp ha (pinOp_free h hi hr),
    fun s hp ha h hb hpin => ringCmd_next hp ha (unpinOp_pinned h hb hpin),
    fun s hp ha h hb => ringCmd_next hp ha (updateOp_bound h hb), fun s => rfl,
    fun s hp ha h hb he hr hs => ringCmd_next hp ha (unbindOp_empty h hb he hr hs), fun skip s hp h hs hm hr => ?latched,
    fun s hp h hs hm => ringCmd_next hp (not_abandoning_of_normal hm) (abandonOp_stopped h hs hm), fun i skip s ha c hc => ?busy,
    fun skip s hp h hs hm => ⟨fun hr => ?kept, fun hr => ?record⟩, fun s hp ha => ?refused⟩
  case latched =>
    refine ringCmd_next hp (not_abandoning_of_normal hm) ?_
    rw [restartOp_stopped h hs hm, if_pos hr]
  case busy =>
    obtain ⟨f, hf⟩ := exec_ringCommand (s := s) hc
    exact hf.trans (ringCmd_busy ha)
  case kept =>
    refine ringCmd_next hp (not_abandoning_of_normal hm) ?_
    rw [restartOp_stopped h hs hm]
    rcases hr with hr | hr <;> simp [hr]
  case record =>
    refine ringCmd_next hp (not_abandoning_of_normal hm) ?_
    rw [restartOp_stopped h hs hm]
    simp [hr]
  case refused =>
    exact ⟨fun h => ringCmd_next hp ha (bindOp_refused h), fun i h => ringCmd_next hp ha (pinOp_refused h),
      fun h => ⟨ringCmd_next hp ha (unbindOp_unbound h), ringCmd_next hp ha (unpinOp_unbound h),
        ringCmd_next hp ha (updateOp_unbound h)⟩,
      fun h => ⟨ringCmd_next hp ha (abandonOp_notStopped h), fun _ => ringCmd_next hp ha (restartOp_notStopped h)⟩, rfl⟩

section Timers
variable {s : State} {r : Nat} {c : Count} {posted : List (Nat × Count × List W64)} {w : Work} {t0 t : Nat}

theorem irqHoldoffEndOp_due (hd : (s.ring r).irqDue = true)
    (ht : (s.ring r).irqLast.getD 0 + (s.ring r).irqHoldoff * usTu ≤ s.now) : irqHoldoffEndOp r s = ringIrq r s := by
  simp [irqHoldoffEndOp, hd, ht]

/-- An entry whose timeout has expired. -/
theorem entryTimeoutOp_expired (hw : s.work? (.entry r c) = some w) (h0 : w.timer = some t0) (ht : entryTimeoutTu w = some t)
    (hd : w.done = false) (hn : t0 + t ≤ s.now) (hr : s.ump.rst ≠ .dead) :
    ((shortCycles s (graphNodes s posted) ⟨r, c, w.words, some w⟩).bind (latestWait s) = none →
      entryTimeoutOp r c posted s =
        let s1 := updWork (.entry r c) (fun w => { w with timer := none }) s
        failSeat (.entry r c) 8 eEntryTimeout (logRec (.ring r) (ownerRec (.entry r c) s1
          { LogRec.zero with cls := 2, code := eEntryTimeout, island := islMar, tag := enTag w.words }) s1)) ∧
    (∀ y v p, (shortCycles s (graphNodes s posted) ⟨r, c, w.words, some w⟩).bind (latestWait s) = some (y, v, p) →
      entryTimeoutOp r c posted s = resolveDeadlock s (graphNodes s posted) ⟨r, c, w.words, some w⟩ (.entry r c) y v p) := by
  have hgo : ¬ (w.done || decide (s.now < t0 + t) || s.ump.rst == .dead) = true := by
    simp [hd, hn, hr]
  constructor
  · intro hb
    simp only [entryTimeoutOp, hw, h0, ht, if_neg hgo, hb]
  · intro y v p hb
    simp only [entryTimeoutOp, hw, h0, ht, if_neg hgo, hb]

end Timers

/-- Settles O25: the hold-off by its operation, the timeout by whether the entry lies on a cycle. -/
theorem ringTimersExpire : Obligations.RingTimersExpire :=
  ⟨fun _ _ hd ht => congrArg Host.Outcome.next (irqHoldoffEndOp_due hd ht),
    fun _ _ _ _ _ _ _ hw h0 ht hd hn hr hb => congrArg Host.Outcome.next ((entryTimeoutOp_expired hw h0 ht hd hn hr).1 hb),
    fun _ _ _ _ _ _ _ y v p hw h0 ht hd hn hr hb =>
      congrArg Host.Outcome.next ((entryTimeoutOp_expired hw h0 ht hd hn hr).2 y v p hb)⟩

section Cores
variable {s : State} {k seat next : Nat} {p : Prog}

theorem coreTakeSeatOp_best (hu : computeUp s = true) (hk : k < s.build.coxCores) (hi : (s.core k).st = .idle)
    (hs : (s.core k).seats = []) (hb : best (readyBefore s) (readySeats s) = some seat) : coreTakeSeatOp k s =
      takeSeatAndSettle k seat (updCore k (fun c => { c with seats := [seat], st := .exec, stall := .none, since := s.now }) s) := by
  simp [coreTakeSeatOp, hu, Nat.not_le.2 hk, hi, hs, hb]

theorem updProg_prog_other (f : Prog → Prog) (h : next ≠ seat) : (updProg seat f s).prog? next = s.prog? next :=
  congrArg Seat.prog (updSeat_seat_other _ h)

/-- A core whose slice is used up goes to the next seat of its queue. -/
theorem sliceYieldOp_next {rest : List Nat} (hu : computeUp s = true) (hk : k < s.build.coxCores) (hx : (s.core k).st = .exec)
    (hs : (s.core k).seats = seat :: next :: rest) (hp : s.prog? seat = some p) (hd : sliceLen s ≤ p.sliceWords) :
    sliceYieldOp k s = updProg next (fun p => { p with park := .none, sliceWords := 0 })
      (updCore k (fun c => { c with seats := next :: rest ++ [seat], since := s.now })
        (updProg seat (fun p => { p with park := .slice, sliceWords := 0 }) s)) := by
  have hrun : running s k = some (seat, p) := by simp [running, hs, hp]
  have hdue : sliceDue s k p = true := by simp [sliceDue, hd, hs]
  simp [sliceYieldOp, hu, hx, Nat.not_le.2 hk, hrun, hdue, yieldCore, hs]

theorem seatResumeOp_fewest (hp : s.prog? seat = some p) (hu : computeUp s = true) (hr : p.released = true)
    (hw : (s.seat seat).st = .wait)
    (hb : best (fun a b => (s.core a).seats.length < (s.core b).seats.length) (List.range s.build.coxCores) = some k) :
    seatResumeOp seat s = updCore k (fun c => { c with
        seats := c.seats ++ [seat], st := if c.seats.isEmpty then .exec else c.st,
        since := if c.seats.isEmpty then s.now else c.since })
      (moveSeat seat (fun x => { x with st := .run })
        (updProg seat (fun p => { p with park := .none, released := false, sliceWords := 0 }) s)) := by
  simp [seatResumeOp, hp, hu, hr, hw, hb]

end Cores

/-- Settles O26: the three operations under their conditions, and what they leave. -/
theorem coresTakeYieldAndResumeSeats : Obligations.CoresTakeYieldAndResumeSeats := by
  refine ⟨fun k seat s hu hk hi hs hb => congrArg Host.Outcome.next (coreTakeSeatOp_best hu hk hi hs hb),
    fun k seat next rest p s hu hk hx hs hp hd hne =>
      ⟨_, congrArg Host.Outcome.next (sliceYieldOp_next hu hk hx hs hp hd), ?yield⟩,
    fun seat k p s hp hu hr hw hb => ⟨_, congrArg Host.Outcome.next (seatResumeOp_fewest hp hu hr hw hb), ?resume⟩⟩
  case yield =>
    refine ⟨congrArg Core.seats (updCore_core_self ..), ?_, fun q hq => ?_, rfl, rfl, rfl, rfl, rfl⟩
    · rw [updProg_prog_other _ hne.symm]
      exact (updProg_prog seat _).trans (congrArg _ hp)
    · rw [updProg_prog]
      exact congrArg _ ((updProg_prog_other _ hne).trans hq)
  case resume =>
    rw [moveSeat_eq]
    refine ⟨congrArg Core.seats (updCore_core_self ..), ?_, ?_, rfl, rfl, rfl, rfl⟩
    · exact congrArg Seat.st (updSeat_seat_self ..)
    · exact (congrArg Seat.prog (updSeat_seat_self ..)).trans ((updProg_prog seat _).trans (congrArg _ hp))

end Sys2Proof.Machine

/-! The course commands (R156 to R159): each with its checks passed, and by its first failing check. -/
namespace Sys2Proof.Machine

section Courses
variable {s s1 s2 : State} {h : W32} {m : MemRead} {v i : Nat} {old : Option W32} {c : Course}

/-- The state in which Rack has read the body that RCK_CRS_ARG names. -/
def bodyRead (s : State) : State :=
  ownRead islRck (objOf s (argBody s)).base (objOf s (argBody s)).owner (objOf s (argBody s)).size s

/-- The size of a body is that of one word at least and of no more than 2^24 - 1. -/
def bodySizeOk (n : Nat) : Prop := n % 32 = 0 ∧ 0 < n ∧ n / 32 < 16777216

theorem bodySize_good {n : Nat} (hz : bodySizeOk n) : ¬ (n % 32 != 0 || n == 0 || decide (16777215 < n / 32)) = true := by
  obtain ⟨hw, h0, hl⟩ := hz
  have hl' : ¬ 16777215 < n / 32 := by omega
  simp [hw, Nat.ne_of_gt h0, hl']

theorem bodySize_bad {n : Nat} (hz : n % 32 ≠ 0 ∨ n = 0 ∨ 16777216 ≤ n / 32) :
    (n % 32 != 0 || n == 0 || decide (16777215 < n / 32)) = true := by
  have hz' : (n % 32 ≠ 0 ∨ n = 0) ∨ 16777215 < n / 32 := by omega
  simpa using hz'

theorem installBody_badSize (hz : (objOf s (argBody s)).size % 32 ≠ 0 ∨ (objOf s (argBody s)).size = 0 ∨
    16777216 ≤ (objOf s (argBody s)).size / 32) : installBody h v old m s = crsInvalid 0 h s := by
  unfold installBody
  dsimp only
  rw [if_pos (bodySize_bad hz)]

theorem installBody_badWord (hz : bodySizeOk (objOf s (argBody s)).size) (he : m.err = .ok)
    (hw : firstBadWord s.build ((objOf s (argBody s)).size / 32) 0 (bodyWords m (objOf s (argBody s)).size) = some i) :
    installBody h v old m s = crsInvalid i h (bodyRead s) := by
  unfold installBody
  dsimp only
  rw [if_neg (bodySize_good hz), he]
  simp only [hw]
  rfl

theorem installBody_good (hz : bodySizeOk (objOf s (argBody s)).size) (he : m.err = .ok)
    (hw : firstBadWord s.build ((objOf s (argBody s)).size / 32) 0 (bodyWords m (objOf s (argBody s)).size) = none) :
    installBody h v old m s = putVersion h v old (objOf s (argBody s)).size (bodyRead s) := by
  unfold installBody
  dsimp only
  rw [if_neg (bodySize_good hz), he]
  simp only [hw]
  rfl

/-- A version's descriptor, with the lines of its body out of every buffer (R154, R158). -/
def versionWritten (h : W32) (v : Nat) (s s1 : State) : State :=
  writeDescriptor h ⟨true, false, argBody s, v, (objOf s (argBody s)).size / 32, argLayout s⟩
    (dropLines (fun _ => true) (objOf s (argBody s)).base (objOf s (argBody s)).size s1)

theorem putVersion_new (ha : refAddOp none (argBody s) 1 (bodyRead s) = .ok s1) :
    putVersion h v none (objOf s (argBody s)).size (bodyRead s) = crsStatus 0 h (versionWritten h v s s1) := by
  have ha' : refAddOp none (argBody (bodyRead s)) 1 (bodyRead s) = .ok s1 := ha
  simp only [putVersion, ha']
  rfl

theorem putVersion_next {b : W32} (ha : refAddOp none (argBody s) 1 (bodyRead s) = .ok s1)
    (hd : refSubOp none b 1 (versionWritten h v s s1) = .ok s2) :
    putVersion h v (some b) (objOf s (argBody s)).size (bodyRead s) = crsStatus 0 h s2 := by
  have ha' : refAddOp none (argBody (bodyRead s)) 1 (bodyRead s) = .ok s1 := ha
  have hd' : refSubOp none b 1 (writeDescriptor h ⟨true, false, argBody (bodyRead s), v, (objOf s (argBody s)).size / 32,
      argLayout (bodyRead s)⟩ (dropLines (fun _ => true) (objOf (bodyRead s) (argBody (bodyRead s))).base
        (objOf s (argBody s)).size s1)) = .ok s2 := hd
  simp only [putVersion, ha', hd']

/-! ### RECORD, PATCH, RETIRE and QUERY -/

theorem courseRecordOp_installs (hr : inReset s = false) (hb : blank s = false) (hs : objStale s h = false)
    (ha : objStale s (argBody s) = false) (hc : (s.rack.courses.get (hIdx h)).isCourse = false) (hl : (objOf s h).st = .live)
    (hz : (objOf s h).size = 64) (hf : bodyFits s h = true) : courseRecordOp h m s = installBody h 1 none m s := by
  simp [courseRecordOp, hr, hb, hs, ha, hc, hl, hz, hf]

theorem coursePatchOp_installs (hr : inReset s = false) (hb : blank s = false) (hs : objStale s h = false)
    (ha : objStale s (argBody s) = false) (hcs : c = s.rack.courses.get (hIdx h)) (hc : c.isCourse = true) (ht : c.retired = false)
    (hv : c.version < 65535) (hf : bodyFits s h = true) :
    coursePatchOp h m s = installBody h (c.version + 1) (some c.body) m s := by
  subst hcs
  simp [coursePatchOp, hr, hb, hs, ha, hc, ht, Nat.not_le.2 hv, hf]

theorem courseRetireOp_retires (hb : blank s = false) (hs : objStale s h = false) (hcs : c = s.rack.courses.get (hIdx h))
    (hc : c.isCourse = true) (ht : c.retired = false)
    (hd : refSubOp none c.body 1 (writeDescriptor h { c with retired := true } s) = .ok s1) :
    courseRetireOp h s = crsStatus 0 h s1 := by
  subst hcs
  rw [hc] at hd
  simp [courseRetireOp, hb, hs, hc, ht, hd]

theorem courseQueryOp_reports (hb : blank s = false) (hs : objStale s h = false)
    (hc : (s.rack.courses.get (hIdx h)).isCourse = true) : courseQueryOp h s = crsStatus 0 h s := by
  simp [courseQueryOp, hb, hs, hc]

theorem courseCommand_stale {c : Instr} (hi : c ∈ [Instr.courseRecord h m, .coursePatch h m, .courseRetire h, .courseQuery h])
    (hp : s.ump.porN = true) (hr : inReset s = false) (hb : blank s = false) (hs : objStale s h = true) :
    exec c s = .next (crsStatus 1 h s) := by
  simp only [List.mem_cons, List.not_mem_nil, or_false] at hi
  rcases hi with rfl | rfl | rfl | rfl
  · exact powered_next hp (by simp [courseRecordOp, hr, hb, hs])
  · exact powered_next hp (by simp [coursePatchOp, hr, hb, hs])
  · exact powered_next hp (by simp [courseRetireOp, hb, hs])
  · exact powered_next hp (by simp [courseQueryOp, hb, hs])

theorem courseCommand_notRecorded {c : Instr} (hi : c ∈ [Instr.coursePatch h m, .courseRetire h, .courseQuery h])
    (hp : s.ump.porN = true) (hr : inReset s = false) (hb : blank s = false) (hs : objStale s h = false)
    (hc : (s.rack.courses.get (hIdx h)).isCourse = false) : exec c s = .next (crsStatus 2 h s) := by
  simp only [List.mem_cons, List.not_mem_nil, or_false] at hi
  rcases hi with rfl | rfl | rfl
  · exact powered_next hp (by simp [coursePatchOp, hr, hb, hs, hc])
  · exact powered_next hp (by simp [courseRetireOp, hb, hs, hc])
  · exact powered_next hp (by simp [courseQueryOp, hb, hs, hc])

theorem courseRecordOp_recorded (hr : inReset s = false) (hb : blank s = false) (hs : objStale s h = false)
    (ha : objStale s (argBody s) = false) (hc : (s.rack.courses.get (hIdx h)).isCourse = true) :
    courseRecordOp h m s = crsStatus 2 h s := by simp [courseRecordOp, hr, hb, hs, ha, hc]

theorem courseCommand_retired {c : Instr} (hi : c ∈ [Instr.coursePatch h m, .courseRetire h]) (hp : s.ump.porN = true)
    (hr : inReset s = false) (hb : blank s = false) (hs : objStale s h = false)
    (hc : (s.rack.courses.get (hIdx h)).isCourse = true) (ht : (s.rack.courses.get (hIdx h)).retired = true) :
    exec c s = .next (crsStatus 5 h s) := by
  simp only [List.mem_cons, List.not_mem_nil, or_false] at hi
  rcases hi with rfl | rfl
  · exact powered_next hp (by simp [coursePatchOp, hr, hb, hs, hc, ht])
  · exact powered_next hp (by simp [courseRetireOp, hb, hs, hc, ht])

end Courses

/-- Settles O39: RECORD and PATCH install the body they have read, RETIRE and QUERY by their operations. -/
theorem courseCommandsActWhenTheirChecksPass : Obligations.CourseCommandsActWhenTheirChecksPass := by
  refine ⟨?record, ?patch, fun h c s s1 hp hb hs hcs hc ht hd => powered_next hp (courseRetireOp_retires hb hs hcs hc ht hd),
    fun h s hp hb hs hc => powered_next hp (courseQueryOp_reports hb hs hc)⟩
  case record =>
    rintro h m _ s s1 hp hr hb hs ha hc hl hz hf he rfl h32 h0 hmax hw hadd
    exact powered_next hp ((courseRecordOp_installs hr hb hs ha hc hl hz hf).trans
      ((installBody_good ⟨h32, h0, hmax⟩ he hw).trans (putVersion_new hadd)))
  case patch =>
    rintro h m _ c s s1 s2 hp hr hb hs ha hcs hc ht hv hf he rfl h32 h0 hmax hw hadd hsub
    exact powered_next hp ((coursePatchOp_installs hr hb hs ha hcs hc ht hv hf).trans
      ((installBody_good ⟨h32, h0, hmax⟩ he hw).trans (putVersion_next hadd hsub)))

/-- Settles O40: each command by its first failing check. -/
theorem courseCommandsReportTheirFailures : Obligations.CourseCommandsReportTheirFailures := by
  refine ⟨fun h m c s hi hp hr hb hs => courseCommand_stale hi hp hr hb hs,
    fun h m c s hi hp hr hb hs hc => courseCommand_notRecorded hi hp hr hb hs hc,
    fun h m s hp hr hb hs ha hc => powered_next hp (courseRecordOp_recorded hr hb hs ha hc),
    fun h m c s hi hp hr hb hs hc ht => courseCommand_retired hi hp hr hb hs hc ht, ?body, fun k h s => ⟨_, _, rfl⟩⟩
  rintro h m _ i s hp hr hb hs ha hc hl hz hf he rfl
  have hin := courseRecordOp_installs (m := m) hr hb hs ha hc hl hz hf
  exact ⟨fun hbad => powered_next hp (hin.trans (installBody_badSize hbad)),
    fun h32 h0 hmax hw => powered_next hp (hin.trans (installBody_badWord ⟨h32, h0, hmax⟩ he hw))⟩

end Sys2Proof.Machine

/-! Commands at their engines: presented, caught, finished and reported on; active places and pre-emption (R184, R192 to R205). -/
namespace Sys2Proof.Machine

section Present
variable {s s0 : State} {c e : Nat} {p : Piece} {w : List W64}

theorem presentOp_built (hu : computeUp s0 = true) (hc : c < s0.build.clusters) (he : e < s0.build.engines) :
    presentOp c e s0 =
      presentOne c e (each (claimsBefore (settleVacated s0) c e) (fun s i => presentOne c i s) (settleVacated s0)) := by
  simp [presentOp, hu, Nat.not_le.2 hc, Nat.not_le.2 he]

theorem presentOne_selected (hm : mayPresent (s.eng c e) = true) (hs : selectCmd s c e = some (p, w))
    (hp : pacePermits s c e = true) : presentOne c e s = presentCmd c e p w s := by
  simp [presentOne, hm, hs, hp]

/-- A command that claims no counter, is not late and was not held back by Stroke. -/
theorem presentCmd_plain (hw : 48 ≤ hWaitCtr w) (hl : alignLate s p = false) (hf : pacedFrom s p = none) :
    presentCmd c e p w s = settleRow c (moveEng c e (fun g => { g with
        presented := some ⟨p.id, w, p.first, p.msg, 0, false, s.now⟩, st := if g.st == .run then .runPresent else .present })
      (paceTake c e (updPiece c e p.id (fun q => { q with
        first := q.first + 1, fetched := q.fetched.filter (fun x => x.1 != q.first),
        chainRun := if hHoldBoundary w then q.chainRun + 1 else 0, waitSince := none, started := true, pacedSince := none }) s))) := by
  have hclaim : ¬ (decide (hWaitCtr w < 48) && hWaitKind w) = true := by simp [Nat.not_lt.2 hw]
  simp only [presentCmd, if_neg hclaim, hl, hf, paceCounted]
  rfl

end Present

section CatchFinish
variable {s s0 : State} {c e : Nat} {r : RunCmd} {err : Bool}

theorem execCatchCmd_presented (hb : engBuilt s c e = true) (hr : inReset s = false) (hst : (s.eng c e).st = .present)
    (hp : (s.eng c e).presented = some r) (hf : r.fill = false) : execCatchCmd c e s =
      .next (settleRow c (moveEng c e (fun g => { g with
        st := .run, presented := none, running := some { r with since := s.now }, errSeen := none,
        chain := if hHoldBoundary r.words then some r.piece else none })
      (noteCatch c e r (updPiece c e r.piece (fun p => { p with
        caught := p.caught + 1, lastCatch := some s.now, unsafeCaught := p.unsafeCaught || !(hReplaySafe r.words) }) s)))) := by
  simp only [execCatchCmd, hb, hr, hst, hp, hf]
  rfl

theorem execCatchCmd_none (hb : engBuilt s c e = true) (hr : inReset s = false) (hp : (s.eng c e).presented = none) :
    execCatchCmd c e s = .fault (.portProtocol "eng_cmd") := by
  simp [execCatchCmd, hb, hr, hp]

theorem execFinish_none (hb : engBuilt s c e = true) (hr : inReset s = false)
    (hn : ((presentFirst c e s).eng c e).running = none) : execFinish c e err s = .fault (.portProtocol "eng_fin") := by
  simp [execFinish, hb, hr, hn]

/-- A Finish without an error, of a command no error was reported of. -/
theorem execFinish_ok (hb : engBuilt s c e = true) (hr : inReset s = false) (h0 : s0 = presentFirst c e s)
    (hn : (s0.eng c e).running = some r) (hf : r.fill = false) (hx : (s0.eng c e).errSeen = none) :
    execFinish c e false s = .next (settleRow c (rampDown c e (moveEng c e (afterFinish s0.now)
      (updPiece c e r.piece (fun p => { p with finished := p.finished + 1 }) (finishPost c r (noteFinish c e r false s0)))))) := by
  subst h0
  simp [execFinish, hb, hr, hn, hf, hx]

/-- The state in which a Finish with an error that no report came before has logged it (R198). -/
def finishLogged (c e : Nat) (r : RunCmd) (s : State) : State :=
  logRec (pieceWhy s r.msg 1) { pieceRec s c e r.msg 1 eEngineReport with tag := cmdTag r.msg r.words } s

/-- A Finish with an error drops the rest of its piece with `x`, from the state `s1` in which that error is logged. -/
def finishFailed (c e : Nat) (r : RunCmd) (x : Nat × BitVec 16) (now : Nat) (s1 : State) : State :=
  settleRow c (rampDown c e (updPiece c e r.piece (fun p => { p with err := if p.err.isSome then p.err else some x })
    (cutPiece c e r.piece (some x) (moveEng c e (afterFinish now)
      (updPiece c e r.piece (fun p => { p with finished := p.finished + 1 }) (noteFinish c e r true s1))))))

theorem execFinish_reported {x : Nat × BitVec 16} (hb : engBuilt s c e = true) (hr : inReset s = false)
    (h0 : s0 = presentFirst c e s) (hn : (s0.eng c e).running = some r) (hf : r.fill = false)
    (hx : (s0.eng c e).errSeen = some x) : execFinish c e true s = .next (finishFailed c e r x s0.now s0) := by
  subst h0
  simp [execFinish, finishFailed, hb, hr, hn, hf, hx]

theorem execFinish_bare (hb : engBuilt s c e = true) (hr : inReset s = false) (h0 : s0 = presentFirst c e s)
    (hn : (s0.eng c e).running = some r) (hf : r.fill = false) (hx : (s0.eng c e).errSeen = none) :
    execFinish c e true s = .next (finishFailed c e r (1, eEngineReport) s0.now (finishLogged c e r s0)) := by
  subst h0
  simp [execFinish, finishFailed, finishLogged, hb, hr, hn, hf, hx]

end CatchFinish

section Reports
variable {s t : State} {c e k : Nat} {code : BitVec 16} {info : W32}

theorem ownerRec_code (o : Owner) (s : State) (l : LogRec) : (ownerRec o s l).code = l.code := by
  unfold ownerRec
  split
  · rfl
  · split <;> rfl

theorem pieceRec_code (m : LaunchMsg) (cls : Nat) : (pieceRec s c e m cls code).code = code := by
  unfold pieceRec
  dsimp only
  split
  · exact ownerRec_code ..
  · rfl

/-- The record of a report whose code engines may use, of the running command. -/
theorem engineRec_running {r : RunCmd} (hn : (s.eng c e).running = some r) (hc : engineCode k code = code) :
    engineRec s c e k code info =
      { pieceRec s c e r.msg k code with tag := cmdTag r.msg r.words, info := info.toNat } := by
  simp only [engineRec, hn, hc, beq_self_eq_true, if_true]

theorem execEngineErrorReport_low {cls : BitVec 3} {r : RunCmd} (hb : engBuilt s c e = true) (hr : inReset s = false)
    (h1 : 1 ≤ cls.toNat) (h3 : cls.toNat ≤ 3) (hn : (s.eng c e).running = some r) (hc : engineCode cls.toNat code = code) :
    execEngineErrorReport c e cls code info s = .next (logRec (pieceWhy s r.msg cls.toNat)
      { pieceRec s c e r.msg cls.toNat code with tag := cmdTag r.msg r.words, info := info.toNat }
      (noteReport c e cls.toNat code s)) := by
  have hlo : ¬ cls.toNat < 1 := by omega
  have hhi : ¬ 5 < cls.toNat := by omega
  have h4 : (cls.toNat == 4) = false := beq_false_of_ne (by omega)
  have h5 : (cls.toNat == 5) = false := beq_false_of_ne (by omega)
  simp only [execEngineErrorReport, hb, hr, hlo, hhi, h4, h5, hn, engineRec_running hn hc, pieceRec_code]
  simp

theorem execEngineErrorReport_class4 (hb : engBuilt s c e = true) : execEngineErrorReport c e 4 code info s =
    .next (raise4 (engineRec s c e 4 code info) (noteReport c e 4 (engineRec s c e 4 code info).code s)) := by
  simp only [execEngineErrorReport, hb]
  rfl

theorem execEngineErrorReport_class5 (hb : engBuilt s c e = true) : execEngineErrorReport c e 5 code info s =
    .next (raise5 (engineRec s c e 5 code info) (noteReport c e 5 (engineRec s c e 5 code info).code s)) := by
  simp only [execEngineErrorReport, hb]
  rfl

theorem poisonObj_fab (i : Nat) (s : State) : (poisonObj i s).fab = s.fab := by
  unfold poisonObj
  dsimp only
  split <;> rfl

/-- Poison marks objects and pages, no Rowlock. -/
theorem poisonMark_fab (addr : Nat) (s : State) : (poisonMark addr s).fab = s.fab := by
  have hhit : ∀ l : List (Nat × Obj), (each l (fun s p => poisonObj p.1 s) s).fab = s.fab := fun l =>
    each_induct (P := fun t => t.fab = s.fab) l _ s (fun t p h => (poisonObj_fab p.1 t).trans h) rfl
  unfold poisonMark
  dsimp only
  split
  · split
    · exact (poisonObj_fab _ _).trans (hhit _)
    · exact hhit _
  · exact hhit _

/-- The engine's channel after a report of its error. -/
theorem noteReport_eng : (noteReport c e k code s).eng c e = { s.eng c e with
    errSeen := if (s.eng c e).errSeen.isSome || (s.eng c e).running.isNone then (s.eng c e).errSeen else some (k, code) } := by
  have hupd : ∀ g : Engine → Engine, (updEng c e g s).eng c e = g (s.eng c e) := fun g => updEng_eng_self c e g s
  unfold noteReport
  dsimp only
  split
  · exact (congrArg (fun f : Fabric => (f.rows.get c).engines.get e) (poisonMark_fab ..)).trans (hupd _)
  · exact hupd _

theorem noteReport_noPoison (hc : code ≠ ePoisonedObject) :
    noteReport c e k code s = { s with fab := (noteReport c e k code s).fab } := by
  have hp : (code == ePoisonedObject) = false := beq_false_of_ne hc
  simp only [noteReport, hp]
  rfl

end Reports

/-- Settles O43: PRESENT by what it selects, CATCH and FINISH by the engine's channel, the reports by their class. -/
theorem commandsArePresentedCaughtAndFinished : Obligations.CommandsArePresentedCaughtAndFinished := by
  refine ⟨?present, fun c e r s hb hr hst hp hf => execCatchCmd_presented hb hr hst hp hf,
    fun c e r s s0 hb hr h0 hn hf hx => execFinish_ok hb hr h0 hn hf hx,
    fun c e cls code info r s hb hr h1 h3 hn hc => execEngineErrorReport_low hb hr h1 h3 hn hc,
    fun c e k code s hn => ⟨?seen, noteReport_noPoison⟩, fun c e s hb hr hp => execCatchCmd_none hb hr hp,
    fun c e err s hb hr hn => execFinish_none hb hr hn, ?failed, ?high⟩
  case present =>
    rintro c e p w s0 s hu hc he rfl hm hs hp hw hl hf
    refine congrArg Host.Outcome.next ((presentOp_built hu hc he).trans ?_)
    exact (presentOne_selected hm hs hp).trans (presentCmd_plain hw hl hf)
  case seen =>
    rw [noteReport_eng, Option.isNone_eq_false_iff.2 hn, Bool.or_false]
  case failed =>
    rintro c e r s s0 s1 x hb hr h0 hn hf hx rfl
    cases x with
    | some y => exact execFinish_reported hb hr h0 hn hf hx.symm
    | none => exact execFinish_bare hb hr h0 hn hf hx.symm
  case high =>
    rintro c e code info s r hb
    constructor
    · rintro rfl
      exact execEngineErrorReport_class4 hb
    · rintro rfl
      exact execEngineErrorReport_class5 hb

section Yields
variable {s : State} {c e n : Nat} {p q : Piece}

theorem pieceReportOp_oldest {q : Report} {rest : List Report} (hu : computeUp s = true) (hr : (s.row c).reports = q :: rest) :
    (q.origin = 1 → pieceReportOp c s = slideReport c q (updRow c (fun r => { r with reports := rest }) s)) ∧
    (q.origin ≠ 1 → pieceReportOp c s = programReport q (updRow c (fun r => { r with reports := rest }) s)) := by
  constructor <;> intro ho <;> simp [pieceReportOp, hu, hr, ho]

theorem activeYieldOp_gives (hu : computeUp s = true) (h4 : 4 ≤ (activePieces (s.eng c e)).length)
    (hp : ((s.eng c e).pieces.find? fun p => p.active && (s.eng c e).chain != some p.id &&
      p.waitSince.any fun t => 2 * usTu ≤ s.now - t) = some p)
    (hq : ((s.eng c e).pieces.find? fun q => !q.active && q.msg.seat != p.msg.seat && !(seatActive (s.eng c e) q.msg.seat)) = some q) :
    activeYieldOp c e s = settleRow c (activatePiece c e q
      (updPiece c e p.id (fun p => { p with active := false, gaveUp := true, waitSince := none }) s)) := by
  have hgo : ¬ (!computeUp s || decide ((activePieces (s.eng c e)).length < 4)) = true := by simp [hu, h4]
  simp only [activeYieldOp, hp, if_neg hgo, hq]

theorem execPreAckRise_asked (hb : engBuilt s c e = true) (hr : inReset s = false) (hq : (s.eng c e).preReq = true)
    (ha : (s.eng c e).preAck = false) (hn : (s.eng c e).running = none) : execPreAckRise c e s =
      .next (moveEng c e (fun g => { g with preReq := false, preAck := true, st := .unpreempt, preSince := s.now }) s) := by
  simp [execPreAckRise, hb, hr, hq, ha, hn]

theorem execPreAckRise_unasked (hb : engBuilt s c e = true) (hr : inReset s = false) (hq : (s.eng c e).preReq = false) :
    execPreAckRise c e s = .fault (.portProtocol "eng_pre_ack") := by
  simp [execPreAckRise, hb, hr, hq]

theorem execPreAckFall_acked (hb : engBuilt s c e = true) (hr : inReset s = false) (ha : (s.eng c e).preAck = true)
    (hq : (s.eng c e).preReq = false) : execPreAckFall c e s =
      .next (settleRow c (moveEng c e (fun g => { g with preAck := false, st := .idle }) s)) := by
  simp [execPreAckFall, hb, hr, hq, ha]

theorem execPreAckFall_unacked (hb : engBuilt s c e = true) (hr : inReset s = false) (ha : (s.eng c e).preAck = false) :
    execPreAckFall c e s = .fault (.portProtocol "eng_pre_ack") := by
  simp [execPreAckFall, hb, hr, ha]

theorem moveEng_eng_self (f : Engine → Engine) : (moveEng c e f s).eng c e = f (s.eng c e) :=
  (congrArg (fun b : Fabric => (b.rows.get c).engines.get e) (moveEng_fab c e f)).trans (updEng_eng_self c e f s)

theorem moveEng_eng_other (f : Engine → Engine) {i : Nat} (h : i ≠ e) : (moveEng c e f s).eng c i = s.eng c i :=
  (congrArg (fun b : Fabric => (b.rows.get c).engines.get i) (moveEng_fab c e f)).trans (updEng_eng_other f h)

theorem moveEng_row_other (f : Engine → Engine) {d : Nat} (h : d ≠ c) : (moveEng c e f s).row d = s.row d :=
  (congrArg (fun b : Fabric => b.rows.get d) (moveEng_fab c e f)).trans (updRow_row_other _ h)

/-- A channel's move changes its Rowlock and the hang rings. -/
theorem moveEng_rows (f : Engine → Engine) : moveEng c e f s =
    { s with fab := { s.fab with rows := (moveEng c e f s).fab.rows }, ump := { s.ump with hang := (moveEng c e f s).ump.hang } } := by
  rw [moveEng_eq]
  rfl

/-- A piece whose first command's time has come: of a crew's start, or of its member's stagger. -/
theorem atStart_of_due (hp : p ∈ (s.eng c e).pieces) (h0 : p.first = 0) (hd : dueAt s p ≤ s.now) :
    (p.startAt.isSome = true → p.offset = 0 → atStart s c e false = true) ∧ (0 < p.offset → atStart s c e true = true) := by
  constructor
  · intro hs ho
    exact List.any_eq_true.2 ⟨p, hp, by simp [h0, hs, ho, hd]⟩
  · intro ho
    exact List.any_eq_true.2 ⟨p, hp, by simp [h0, ho, hd]⟩

theorem execHoldComplete_vacate {h : Nat × HoldSlot} {j : SaveJob} (hc : c < s.build.clusters) (hu : computeUp s = true)
    (hh : ((s.row c).holds.find? fun h => h.1 == n) = some h) (hd : h.2.complete = true)
    (hj : (s.sld.jobs.find? fun j => j.kind != .restore && !j.failed && j.holdId == n && j.ctx == h.2.ctx &&
      j.clusters.any fun x => x.cluster == c && x.st == .hold) = some j) (hk : j.kind = .vacate) :
    execHoldComplete c n s = .next (captureCluster j c s) := by
  obtain ⟨i, x⟩ := h
  have hx : x.complete = true := hd
  simp only [execHoldComplete, if_neg (Nat.not_le.2 hc), holdCompleteOp, hu, hh, hj, hx, hk]
  rfl

end Yields

/-- Settles O44: each operation under its conditions. -/
theorem reportsYieldsStartsAndPreemption : Obligations.ReportsYieldsStartsAndPreemption := by
  refine ⟨?report, fun c e p q s hu h4 hp hq => congrArg Host.Outcome.next (activeYieldOp_gives hu h4 hp hq),
    fun c e s hb hr hq ha hn => ⟨_, execPreAckRise_asked hb hr hq ha hn, moveEng_eng_self _, fun f => moveEng_eng_other _,
      fun d => moveEng_row_other _, moveEng_rows _⟩,
    fun c e s hb hr ha hq => execPreAckFall_acked hb hr ha hq,
    fun c e s hb hr ha => ⟨fun hq => execPreAckRise_unasked hb hr hq, execPreAckFall_unacked hb hr ha⟩,
    fun c e p s hp h0 hd => ⟨fun hs ho => ?start, fun ho => ?stagger⟩,
    fun c n h j s hc hu hh hd hj hk => execHoldComplete_vacate hc hu hh hd hj hk⟩
  case report =>
    rintro c q rest s _ hu hr rfl
    obtain ⟨hslide, hprog⟩ := pieceReportOp_oldest hu hr
    exact ⟨fun ho => congrArg Host.Outcome.next (hslide ho), fun ho => congrArg Host.Outcome.next (hprog ho)⟩
  case start => exact congrArg Host.Outcome.next (if_pos ((atStart_of_due hp h0 hd).1 hs ho))
  case stagger => exact congrArg Host.Outcome.next (if_pos ((atStart_of_due hp h0 hd).2 ho))

end Sys2Proof.Machine

/-! Stakeboat's watches and the crossing (R213 to R221, R233 to R240). -/
namespace Sys2Proof.Machine

section Watches
variable {s : State} {e i t : Nat} {ok : Bool}

theorem porN_of_computeUp (hu : computeUp s = true) : s.ump.porN = true := (Bool.and_eq_true_iff.1 hu).2

theorem notDead_of_computeUp (hu : computeUp s = true) : s.ump.rst ≠ .dead :=
  bne_iff_ne.1 (Bool.and_eq_true_iff.1 (Bool.and_eq_true_iff.1 hu).1).2

theorem execMwResponse_answer (hb : watchBuilt s e = true) (hd : s.ump.rst ≠ .dead) (ho : (s.stb.watch.get e).owed = false)
    (hr : inReset s = false) :
    ((s.stb.watch.get e).st = .arming → execMwResponse e ok s = .next (armed e ok (rspEv islStb 6 e .ok s))) ∧
    ((s.stb.watch.get e).st = .disarming → execMwResponse e ok s = .next (disarmed e (rspEv islStb 6 e .ok s))) := by
  constructor <;> intro hst <;> simp [execMwResponse, hb, hd, ho, hr, hst]

theorem execNotice_up (hb : watchBuilt s e = true) (hu : computeUp s = true) :
    execNotice e s = .next (dirtyEntry (ergCount 14 1 {} s) e) := by simp [execNotice, hb, hu]

theorem noticeLostOp_up (hu : computeUp s = true) : noticeLostOp s =
    dirtyAll (updStb (fun b => { b with noticesLost := satAdd 64 b.noticesLost 1 }) s) := if_pos hu

theorem pollReadOp_due (hst : (s.stb.waiters.get i).st = .polled) (ht : (s.stb.waiters.get i).timedOut = false)
    (hu : computeUp s = true)
    (hd : max (max 100 (fld s.stb.cfg 0 16) * 4) (16 * (polledWaiters s).length) ≤ s.now - (s.stb.waiters.get i).lastPoll) :
    pollReadOp i s = readFor i false (updWaiter i (fun w => { w with lastPoll := s.now }) s) := by
  simp only [pollReadOp, hst, ht, hu, hd]
  rfl

theorem lingerExpiryOp_due (hl : (s.stb.watch.get e).linger = some t) (hst : (s.stb.watch.get e).st = .armed)
    (hu : computeUp s = true) (hd : t + fld s.stb.cfg 16 8 * usTu ≤ s.now) : lingerExpiryOp e s = disarm e s := by
  simp [lingerExpiryOp, hl, hst, hu, hd]

end Watches

/-- Settles O46: each operation under its conditions. -/
theorem watchCommandsAct : Obligations.WatchCommandsAct := by
  refine ⟨fun e ok s hb hd ho hr => execMwResponse_answer hb hd ho hr, fun e s hb hu => execNotice_up hb hu,
    fun s hu => powered_next (porN_of_computeUp hu) (noticeLostOp_up hu),
    fun i s hst ht hu hd => congrArg Host.Outcome.next (pollReadOp_due hst ht hu hd),
    fun e t s hl hst hu hd => congrArg Host.Outcome.next (lingerExpiryOp_due hl hst hu hd), fun e ok s hb => ?lacking⟩
  have hn : (!watchBuilt s e) = true := by rw [hb]; rfl
  exact ⟨if_pos hn, if_pos hn⟩

section Crossing
variable {s t : State} {kind : Nat} {msg : List W64} {src dst : BitVec 16} {seq : W32} {o : OutRec}

/-- A message of its row's kind that may transfer now. -/
theorem crossTake_taken {go : State → State} (hb : s.build.hasCrossing = true) (hk : fld (wordAt msg 0) 0 4 = kind)
    (hl : msg.length = 4) (hu : computeUp s = true) : crossTake kind msg s go = .next (go (crossHang 0x03 msg s)) := by
  simp [crossTake, hb, hk, hl, hu]

/-- A received SIGNAL, counted and traced (R235). -/
def signalNoted (src : BitVec 16) (msg : List W64) (s : State) : State :=
  wakeEv islXng 8 false (some (w16 (fld (wordAt msg 0) 48 16)))
    [w64 (src.toNat + put (fld (wordAt msg 0) 8 8) 16 8 + putb (bit (wordAt msg 0) 4) 24 +
      put (w32 (fld (wordAt msg 1) 0 32)).toNat 32 32)]
    (updStb (fun b => { b with received := satAdd 64 b.received 1 }) s)

theorem crossingSignalOp_badValue (hv : bit (wordAt msg 3) 63 = true) : crossingSignalOp src msg s =
    sendReject src (fld (wordAt msg 0) 8 8) (w32 (fld (wordAt msg 1) 0 32)) eCrossingRejected (signalNoted src msg s) := by
  simp [crossingSignalOp, signalNoted, hv]

theorem crossingSignalOp_good (hv : bit (wordAt msg 3) 63 = false) (ha : fld (wordAt msg 2) 0 56 % 8 = 0)
    (hc : ctxLive s (w16 (fld (wordAt msg 0) 48 16)) = true) : crossingSignalOp src msg s =
    issueAt opMaxu (fld (wordAt msg 2) 0 56) (w16 (fld (wordAt msg 0) 48 16)) (wordAt msg 3) 0
      (.remote src (fld (wordAt msg 0) 8 8) (w32 (fld (wordAt msg 1) 0 32)) (w16 (fld (wordAt msg 0) 48 16)) (wordAt msg 3)) islStb
      (signalNoted src msg s) := by
  simp [crossingSignalOp, signalNoted, hv, ha, hc]

theorem crossingAckOp_present (hi : fld (wordAt msg 0) 8 8 = s.ump.incarn % 256) : crossingAckOp src msg s =
    each (s.stb.outs.filter fun o => o.dst == src &&
      (o.seq - w32 (fld (wordAt msg 2) 0 32)).toNat ≤ (w32 (fld (wordAt msg 1) 0 32) - w32 (fld (wordAt msg 2) 0 32)).toNat)
      (fun s o => dropRecord o s) s := by
  simp [crossingAckOp, hi]

theorem crossingAckOp_other (hi : fld (wordAt msg 0) 8 8 ≠ s.ump.incarn % 256) : crossingAckOp src msg s = s := by
  simp [crossingAckOp, hi]

theorem crossingRejectOp_named (hi : fld (wordAt msg 0) 8 8 = s.ump.incarn % 256)
    (ho : (s.stb.outs.find? fun o => o.dst == src && o.seq == w32 (fld (wordAt msg 1) 0 32)) = some o) :
    crossingRejectOp src msg s = failRecord o eCrossingRejected (fld (wordAt msg 1) 32 16)
      (updStb (fun b => { b with rejected := satAdd 64 b.rejected 1 }) s) := by
  simp [crossingRejectOp, hi, ho]

theorem ackFlushOp_due {incarn : BitVec 8} {r : RxRun}
    (hr : (s.stb.runs.find? fun x => x.src == src && x.incarn == incarn.toNat) = some r) (hu : computeUp s = true)
    (hd : usTu ≤ s.now - r.since) : ackFlushOp src incarn s = sendAck r s := by
  simp [ackFlushOp, hr, hu, hd]

theorem resendOp_due (ho : (s.stb.outs.find? fun o => o.dst == dst && o.seq == seq) = some o) (hu : computeUp s = true)
    (hs : o.sentOnce = true) (hd : max 10 (fld s.stb.xngCfg 16 16) * usTu ≤ s.now - o.lastSent) :
    resendOp dst seq s = sendSignal o true s := by
  simp only [resendOp, ho, hu, hs, hd]
  rfl

theorem giveUpOp_due (ho : (s.stb.outs.find? fun o => o.dst == dst && o.seq == seq) = some o) (hu : computeUp s = true)
    (hs : o.sentOnce = true) (hd : max 1 (fld s.stb.xngCfg 32 16) * msTu ≤ s.now - o.firstSent) :
    giveUpOp dst seq s = failRecord o eCrossingLost 0 s := by
  simp only [giveUpOp, ho, hu, hs, hd]
  rfl

theorem execLinkDown_lost (hb : s.build.hasCrossing = true) (hk : s.stb.linkOk = true) (hd : s.ump.rst ≠ .dead) :
    execLinkDown s = .next (logRec .nothing { LogRec.zero with code := eLinkLost, island := islXng }
      (updStb (fun b => { b with
        linkOk := false, link := .hold, linkAt := s.now, txq := []
        owedAcks := b.txq.filter (fun m => fld (wordAt m.2 0) 0 4 == 2 || fld (wordAt m.2 0) 0 4 == 3) ++ b.owedAcks }) s)) := by
  simp [execLinkDown, linkDownOp, hb, hk, hd]

theorem linkResetOp_due (hk : s.stb.link = .hold) (hu : computeUp s = true)
    (hd : fld s.stb.xngCfg 48 16 * usTu ≤ s.now - s.stb.linkAt) :
    linkResetOp s = crossHang 0x04 [crossWord0 s 4 0 (chipId s), 0, 0, 0] (updStb (fun b => { b with
      link := .resetSent, txq := b.txq ++ [(chipId s, [crossWord0 s 4 0 (chipId s), 0, 0, 0])] }) s) := by
  simp [linkResetOp, hk, hu, hd]

theorem execLinkUp_taken (hb : s.build.hasCrossing = true) (hk : s.stb.link ≠ .hold) (hp : s.ump.porN = true)
    (hd : s.ump.rst ≠ .dead) : execLinkUp s = .next (linkUpOp s) := by
  simp [execLinkUp, powered, hb, hk, hp, hd]

theorem linkUpOp_quiet (h : s.stb.link ≠ .resetSent ∨ computeUp s = false) :
    linkUpOp s = { s with stb := { s.stb with linkOk := true, link := .up } } := by
  rcases h with h | h <;> simp [linkUpOp, h, updStb]

theorem linkUpOp_resends (hk : s.stb.link = .resetSent) (hu : computeUp s = true)
    (ht : t = each (streamOrder { s with stb := { s.stb with linkOk := true, link := .up } }) (fun s o => sendSignal o o.sentOnce s)
      { s with stb := { s.stb with linkOk := true, link := .up } }) :
    linkUpOp s = each t.stb.owedAcks (fun s a => sendAnswer a.1 a.2 s) (updStb (fun b => { b with owedAcks := [] }) t) := by
  subst ht
  simp [linkUpOp, hk, hu, updStb]

theorem execLinkUp_off (hb : s.build.hasCrossing = true) (hk : s.stb.link ≠ .hold)
    (h : s.ump.porN = false ∨ s.ump.rst = .dead) : execLinkUp s = .next s := by
  rcases h with h | h <;> simp [execLinkUp, powered, hb, hk, h]

theorem execLinkUp_held (hb : s.build.hasCrossing = true) (hk : s.stb.link = .hold) :
    execLinkUp s = .fault (.portProtocol "cx_link_ok") := by
  simp [execLinkUp, hb, hk]

/-- A message's arrival changes the hang rings alone. -/
theorem crossHang_frame (c : Nat) (m : List W64) (s : State) :
    crossHang c m s = { s with ump := { s.ump with hang := (crossHang c m s).ump.hang } } := by
  unfold crossHang
  exact hangEv_eq ..

theorem signalNoted_stb : (signalNoted src msg s).stb = { s.stb with received := satAdd 64 s.stb.received 1 } := wakeEv_stb ..

theorem signalNoted_ports : (signalNoted src msg s).ports = s.ports := wakeEv_ports ..

end Crossing

/-- Settles O47: each message by its operation on the state that has noted it, the link by its state. -/
theorem crossingCommandsAct : Obligations.CrossingCommandsAct := by
  refine ⟨?messages, fun src incarn r s hr hu hd => congrArg Host.Outcome.next (ackFlushOp_due hr hu hd),
    fun dst seq o s ho hu hs => ⟨fun hd => congrArg Host.Outcome.next (resendOp_due ho hu hs hd),
      fun hd => congrArg Host.Outcome.next (giveUpOp_due ho hu hs hd)⟩,
    fun s hb hk hd => execLinkDown_lost hb hk hd, fun s hk hu hd => congrArg Host.Outcome.next (linkResetOp_due hk hu hd),
    fun s hb hk => ⟨fun hp hd h => ?quiet, ?resends, fun h => execLinkUp_off hb hk h⟩,
    fun s hb hk => execLinkUp_held hb hk, fun src msg s hu hb hk hl hv ha hc => ?good⟩
  case messages =>
    rintro src msg s _ hb hl hu rfl
    exact ⟨fun hk hv => ⟨_, (crossTake_taken hb hk hl hu).trans (congrArg Host.Outcome.next (crossingSignalOp_badValue hv)), rfl⟩,
      fun hk hi => (crossTake_taken hb hk hl hu).trans (congrArg Host.Outcome.next (crossingAckOp_present hi)),
      fun hk hi => (crossTake_taken hb hk hl hu).trans (congrArg Host.Outcome.next (crossingAckOp_other hi)),
      fun o hk hi ho => (crossTake_taken hb hk hl hu).trans (congrArg Host.Outcome.next (crossingRejectOp_named hi ho))⟩
  case quiet => exact (execLinkUp_taken hb hk hp hd).trans (congrArg Host.Outcome.next (linkUpOp_quiet h))
  case resends =>
    rintro s1 s2 hr hu rfl h2
    exact (execLinkUp_taken hb hk (porN_of_computeUp hu) (notDead_of_computeUp hu)).trans
      (congrArg Host.Outcome.next (linkUpOp_resends hr hu h2))
  case good =>
    have hc' : ctxLive (crossHang 0x03 msg s) (w16 (fld (wordAt msg 0) 48 16)) = true := by
      rw [crossHang_frame]
      exact hc
    have hstb : (crossHang 0x03 msg s).stb = s.stb := by rw [crossHang_frame]
    have hports : (crossHang 0x03 msg s).ports = s.ports := by rw [crossHang_frame]
    refine ⟨_, (crossTake_taken hb hk hl hu).trans (congrArg Host.Outcome.next (crossingSignalOp_good hv ha hc')), ?_⟩
    beta_reduce
    rw [issueAt_stb, issueAt_ports, signalNoted_stb, signalNoted_ports, hstb, hports]
    exact ⟨rfl, rfl, rfl, rfl, _, rfl, rfl, rfl, rfl, rfl⟩

end Sys2Proof.Machine

/-! Loop commands, requests, results and gates (R249 to R256, R274). -/
namespace Sys2Proof.Machine

section LoopCommands
variable {s t : State} {l o : Nat} {desc : MemRead} {clear : Bool}

theorem loopCmd_free {f : State → State} (hs : (s.loop (selLoop s)).starting = false) (h : f s = t) : loopCmd f s = .next t := by
  rw [loopCmd, hs, if_neg Bool.false_ne_true, h]

theorem loopCmd_busy {f : State → State} (hs : (s.loop (selLoop s)).starting = true) :
    loopCmd f s = .fault (.portProtocol "HEA_LOOP_CMD") := if_pos hs

/-- The state in which Heat has read the selected loop's descriptor. -/
def descRead (s : State) : State := ownRead islHea (fld (s.loop (selLoop s)).desc 6 50 * 64) 0xFFFF 2048 s

theorem descRead_eq : ownRead islHea (fld (s.loop (selLoop s)).desc 6 50 * 64) 0xFFFF 2048 s = descRead s := rfl

theorem descRead_now : (descRead s).now = s.now := rfl

/-- The checks of R249 on a descriptor for START, after Heat has read it. -/
def startFails (desc : MemRead) (s : State) : Option Nat :=
  firstFail (startChecks (descRead s) (selLoop s) desc.bytes ++
    modelChecks (descRead s) (startedLoop s.now (s.loop (selLoop s)) desc.bytes).models
      (startedLoop s.now (s.loop (selLoop s)) desc.bytes).shapes)

/-- START may act: the loop is built and stopped, or failed where it clears. -/
def StartAllowed (clear : Bool) (s : State) : Prop :=
  loopBuilt s (selLoop s) = true ∧ computeUp s = true ∧ blank s = false ∧
    ((s.loop (selLoop s)).st = .stopped ∨ (clear = true ∧ (s.loop (selLoop s)).st = .failed))

theorem StartAllowed.st_ok (h : StartAllowed clear s) :
    (blank s || !((s.loop (selLoop s)).st == .stopped || (clear && (s.loop (selLoop s)).st == .failed))) = false := by
  obtain ⟨-, -, hb, hst⟩ := h
  rcases hst with hst | ⟨hc, hst⟩ <;> simp [*]

theorem startLoop_failed (h : StartAllowed clear s) (he : desc.err = .ok) (hf : startFails desc s = some o) :
    startLoop clear desc s = loopRefuse (selLoop s) o (descRead s) := by
  have hgo := h.st_ok
  obtain ⟨hl, hu, -, -⟩ := h
  unfold startFails at hf
  unfold startLoop
  dsimp only
  rw [if_neg (by simp [hl, hu]), if_neg (by rw [hgo]; exact Bool.false_ne_true), he, descRead_eq]
  dsimp only
  rw [descRead_now, hf]

/-- The loop that START with clear = 1 makes: it runs once its sequence table is written (R250). -/
def clearingLoop (x : Loop) : Loop := { x with st := .stopped, starting := true, seqs := Tab.const SeqEnt.reset }

theorem startLoop_passed (h : StartAllowed clear s) (he : desc.err = .ok) (hf : startFails desc s = none) :
    startLoop clear desc s =
      if clear then
        addIntent (selLoop s) { kind := .clear, writes := [] } (updLoop (selLoop s)
          (fun _ => clearingLoop (startedLoop s.now (s.loop (selLoop s)) desc.bytes))
          (dropGates (selLoop s) (takeWeights (startedLoop s.now (s.loop (selLoop s)) desc.bytes).models (descRead s))))
      else updLoop (selLoop s) (fun _ => startedLoop s.now (s.loop (selLoop s)) desc.bytes)
        (takeWeights (startedLoop s.now (s.loop (selLoop s)) desc.bytes).models (descRead s)) := by
  have hgo := h.st_ok
  obtain ⟨hl, hu, -, -⟩ := h
  unfold startFails at hf
  unfold startLoop
  dsimp only
  rw [if_neg (by simp [hl, hu]), if_neg (by rw [hgo]; exact Bool.false_ne_true), he, descRead_eq]
  dsimp only
  rw [descRead_now, hf]
  unfold clearingLoop
  rfl

theorem startLoop_refused (hl : loopBuilt s (selLoop s) = true) (hu : computeUp s = true)
    (hs : (s.loop (selLoop s)).st ≠ .stopped) (hc : clear = true → (s.loop (selLoop s)).st ≠ .failed) :
    startLoop clear desc s = loopRefuse (selLoop s) 0 s := by
  cases clear with
  | false => simp [startLoop, hl, hu, hs]
  | true => simp [startLoop, hl, hu, hs, hc rfl]

theorem reloadOp_refused (hl : loopBuilt s (selLoop s) = true) (hu : computeUp s = true)
    (hr : (s.loop (selLoop s)).st ≠ .running) (hd : (s.loop (selLoop s)).st ≠ .draining) :
    reloadOp desc s = loopRefuse (selLoop s) 0 s := by simp [reloadOp, hl, hu, hr, hd]

theorem reloadOp_taken {m : Tab Model} {h : Tab Shape} (hl : loopBuilt s (selLoop s) = true) (hu : computeUp s = true)
    (hb : blank s = false) (hst : (s.loop (selLoop s)).st = .running ∨ (s.loop (selLoop s)).st = .draining)
    (he : desc.err = .ok) (hm : m = descTab Model.reset (descModel desc.bytes) 8)
    (hh : h = descTab Shape.reset (descShape desc.bytes) 16) (hf : firstFail (modelChecks (descRead s) m h) = none) :
    reloadOp desc s = reloadResidency (selLoop s) (s.loop (selLoop s)).models m (updLoop (selLoop s)
      (fun x => { x with models := m, shapes := h, cmdErr := false, badOffset := 0 })
      (dropWeights (selLoop s) (takeWeights m (descRead s)))) := by
  have hgo : (blank s || !((s.loop (selLoop s)).st == .running || (s.loop (selLoop s)).st == .draining)) = false := by
    rcases hst with hst | hst <;> simp [hb, hst]
  subst hm hh
  unfold reloadOp
  dsimp only
  rw [if_neg (by simp [hl, hu]), if_neg (by rw [hgo]; exact Bool.false_ne_true), he, descRead_eq]
  dsimp only
  rw [hf]

/-- A command with a condition on the loop's state alone. -/
theorem simpleLoopCmd_taken {ok : LoopSt → Bool} {f : Loop → Loop} (hl : loopBuilt s (selLoop s) = true) (hu : computeUp s = true)
    (hb : blank s = false) (hok : ok (s.loop (selLoop s)).st = true) : simpleLoopCmd ok f s =
      checkLoop (selLoop s) (updLoop (selLoop s) (fun g => { f g with cmdErr := false, badOffset := 0 }) s) := by
  simp [simpleLoopCmd, hl, hu, hb, hok]

theorem simpleLoopCmd_refused {ok : LoopSt → Bool} {f : Loop → Loop} (hl : loopBuilt s (selLoop s) = true) (hu : computeUp s = true)
    (hok : ok (s.loop (selLoop s)).st = false) : simpleLoopCmd ok f s = loopRefuse (selLoop s) 0 s := by
  simp [simpleLoopCmd, hl, hu, hok]

/-- Every loop command goes through `loopCmd`. -/
theorem exec_loopCommand {c : Instr} (hc : c ∈ [Instr.loopStart desc, .loopStartClear desc, .loopStop, .loopDrain, .reload desc]) :
    ∃ f, exec c s = loopCmd f s := by
  simp only [List.mem_cons, List.not_mem_nil, or_false] at hc
  rcases hc with rfl | rfl | rfl | rfl | rfl
  exacts [⟨startLoop false desc, rfl⟩, ⟨startLoop true desc, rfl⟩, ⟨stopLoopOp, rfl⟩, ⟨drainLoopOp, rfl⟩, ⟨reloadOp desc, rfl⟩]

end LoopCommands

/-- Settles O48: START by the descriptor it reads, the other commands by the loop's state. -/
theorem loopCommandsFollowTheLoopState : Obligations.LoopCommandsFollowTheLoopState := by
  rintro _ _ s _ rfl rfl hl hu hb rfl
  refine ⟨fun hs => ⟨fun desc x he hx hf => ⟨fun hst => ?start, fun y hst hy => ?clear⟩, fun desc o hst he hf => ?fails,
    fun desc => ⟨fun hst => ?notStopped, fun h1 h2 => ?notFailed, fun hr hd => loopCmd_free hs (reloadOp_refused hl hu hr hd)⟩,
    fun hst => ?stop, fun hst => ?drain, fun hr hd => ⟨?stopRefused, ?drainRefused⟩,
    fun desc m h hst he hm hh hf => loopCmd_free hs (reloadOp_taken hl hu hb hst he hm hh hf)⟩, fun hs desc c hc => ?busy⟩
  case start =>
    subst hx
    exact loopCmd_free hs ((startLoop_passed ⟨hl, hu, hb, .inl hst⟩ he hf).trans (if_neg Bool.false_ne_true))
  case clear =>
    subst hx hy
    exact loopCmd_free hs ((startLoop_passed ⟨hl, hu, hb, hst.imp_right fun h => ⟨rfl, h⟩⟩ he hf).trans (if_pos rfl))
  case fails => exact loopCmd_free hs (startLoop_failed ⟨hl, hu, hb, .inl hst⟩ he hf)
  case notStopped => exact loopCmd_free hs (startLoop_refused hl hu hst fun h => absurd h Bool.false_ne_true)
  case notFailed => exact loopCmd_free hs (startLoop_refused hl hu h1 fun _ => h2)
  case stop => exact loopCmd_free hs (simpleLoopCmd_taken hl hu hb (by rcases hst with h | h <;> rw [h] <;> rfl))
  case drain => exact loopCmd_free hs (simpleLoopCmd_taken hl hu hb (by rw [hst]; rfl))
  case stopRefused => exact loopCmd_free hs (simpleLoopCmd_refused hl hu (by simp [hr, hd]))
  case drainRefused => exact loopCmd_free hs (simpleLoopCmd_refused hl hu (by simp [hr]))
  case busy =>
    obtain ⟨f, hf⟩ := exec_loopCommand (s := s) hc
    exact hf.trans (loopCmd_busy hs)

section Requests
variable {s s1 : State} {l r i : Nat} {w : List W64} {second : Bool} {v : W32}

theorem rqDoorbellOp_built (hl : loopBuilt s (selLoop s) = true) (hb : blank s = false) :
    rqDoorbellOp r s = readRequest (selLoop s) r false (updLoop (selLoop s) (fun g => { g with
      reqs := g.reqs.upd r fun q => { q with lastLook := s.now, again := q.reading } }) s) := by
  simp [rqDoorbellOp, hl, hb]

theorem resultConsumedOp_built (hl : loopBuilt s (selLoop s) = true) (hb : blank s = false) :
    resultConsumedOp r v s = updLoop (selLoop s) (fun g => { g with ress := g.ress.upd r fun x =>
      if (v - x.consumed).toNat ≤ (x.written - x.consumed).toNat then { x with consumed := v } else x }) s := by
  simp [resultConsumedOp, hl, hb]

theorem requestPollOp_due (hl : loopBuilt s l = true) (hr : r < 16) (hd : ((s.loop l).reqs.get r).lastLook + 50 * usTu ≤ s.now) :
    requestPollOp l r s = readRequest l r false s := by simp [requestPollOp, hl, hr, hd]

/-- A good record is acted on by the row of its kind. -/
theorem actRequest_good {cancel : Bool} {go : List W64 → State → State} {at_ : Nat} (hl : loopLive (s.loop l) = true)
    (hu : computeUp s = true) (hr : ((s.loop l).reqs.get r).rec_ = some (w, second, at_)) (hi : requestIntact w = true)
    (hb : requestBad (s.loop l) ((s.loop l).reqs.get r) w = false) (hc : (rqKind w == 2) = cancel) :
    actRequest cancel go l r s = go w s := by
  simp [actRequest, hl, hu, hr, hi, hb, hc]

theorem rqRingRestartOp_built {bits : BitVec 16} (hl : loopBuilt s (selLoop s) = true) : rqRingRestartOp bits s =
    each ((List.range 16).filter fun r => bits.getLsbD r && ((s.loop (selLoop s)).reqs.get r).stopped)
      (fun s' r => readRequest (selLoop s) r false
        (updLoop (selLoop s) (fun g => { g with reqs := g.reqs.upd r fun q => { q with stopped := false } }) s')) s := by
  simp [rqRingRestartOp, hl]

theorem gateReleaseOp_met {obs : W64} (hd : (s.stb.gateDone.find? fun g => g.1 == l && g.2.1 == i) = some (l, i, .ok, obs))
    (hu : computeUp s = true) (hg : ((s.loop l).seqs.get i).st = .gated) (ho : bit obs 63 = false) :
    gateReleaseOp l i s = writeEntry l i (updSeq l i (fun e => { e with st := .prefill, waiter := none })
      (updStb (fun b => { b with gateDone := b.gateDone.filter fun g => !(g.1 == l && g.2.1 == i) }) s)) := by
  simp [gateReleaseOp, hd, hu, hg, ho]

theorem gateRetryOp_due (hg : ((s.loop l).seqs.get i).st = .gated) (hw : ((s.loop l).seqs.get i).waiter = none)
    (hd : (s.stb.gateDone.any fun g => g.1 == l && g.2.1 == i) = false) (ht : ((s.loop l).seqs.get i).retryAt ≤ s.now)
    (hu : computeUp s = true) : gateRetryOp l i s = startGate l i s := by
  simp only [gateRetryOp, hg, hw, hd, ht, hu]
  rfl

end Requests

/-- Settles O49: each operation under its conditions. -/
theorem requestsResultsAndGates : Obligations.RequestsResultsAndGates := by
  refine ⟨?rings, fun l r s hl hr hd => congrArg Host.Outcome.next (requestPollOp_due hl hr hd),
    fun l r at_ w second s hl hu hr hi hb => ⟨fun hk => ?new, fun hk => ?cancel⟩, ?restart,
    ?release, fun l i s hg hw hd ht hu => congrArg Host.Outcome.next (gateRetryOp_due hg hw hd ht hu)⟩
  case rings =>
    rintro _ ring s rfl hl hb
    refine ⟨congrArg Host.Outcome.next (rqDoorbellOp_built hl hb), fun v =>
      ⟨_, congrArg Host.Outcome.next (resultConsumedOp_built hl hb), fun h => ?_, fun h => ?_, fun k => updLoop_loop_other _, rfl⟩⟩
    all_goals rw [updLoop_loop_self, tab_get_upd, if_pos rfl]
    · rw [if_pos h]
    · rw [if_neg h]
  case new => exact congrArg Host.Outcome.next (actRequest_good hl hu hr hi hb (beq_false_of_ne hk))
  case cancel => exact congrArg Host.Outcome.next (actRequest_good hl hu hr hi hb (beq_iff_eq.2 hk))
  case restart =>
    rintro _ bits s rfl hl
    exact congrArg Host.Outcome.next (rqRingRestartOp_built hl)
  case release =>
    rintro l i obs s _ hd hu hg ho rfl
    exact congrArg Host.Outcome.next (gateReleaseOp_met hd hu hg ho)

end Sys2Proof.Machine

/-! Heats from state to state, and what Heat and Judge do beside them (R259 to R273, R276, R277). -/
namespace Sys2Proof.Machine

section Heats
variable {s : State} {l k : Nat} {w : Work}

theorem heatPlaceOp_up (hu : computeUp s = true) (hh : s.build.hasHeat = true) (hb : blank s = false) : heatPlaceOp s =
    let s1 := settleOwed (settlePoison s)
    let s2 := retryCompose (purgeRestored (each (s1.heat.loops.cells.map Prod.fst) (fun s l => dueIrqs l s) s1))
    let s3 := updHeat (fun h => { h with lastPlace := s.now }) s2
    place (s3.bhs.reruns.foldl tryRerun s3) := by
  simp [heatPlaceOp, hu, hh, hb]

theorem heatSaveDoneOp_over (hu : heatUp s l = true) (hw : s.work? (.heat l k) = some w) (hf : w.failed = none)
    (hst : (s.hslot l k).st = .save) (hj : (s.sld.jobs.any fun j => j.who == .heat l k) = false) :
    heatSaveDoneOp l k s = enterSwitch l k s := by
  unfold heatSaveDoneOp
  simp only [hu, hw, hf, hst, hj]
  rfl

/-- No member has left: the shape stays. -/
theorem heatGrowDoneOp_kept (hu : heatUp s l = true) (hw : s.work? (.heat l k) = some w) (hf : w.failed = none)
    (hst : (s.hslot l k).st = .grow) (hn : (s.hslot l k).waiting = false) (hp : s.prog? (s.hslot l k).seat = none)
    (he : ((dropUngrown l k s).hslot l k).members.isEmpty = false)
    (hl : ((dropUngrown l k s).hslot l k).members.length = (s.hslot l k).members.length) :
    heatGrowDoneOp l k s = writeParams l k (dropUngrown l k s) := by
  unfold heatGrowDoneOp
  simp only [hu, hw, hf, hst, hn, hp, he, hl]
  rfl

theorem heatTimeoutOp_due (hu : heatUp s l = true) (hw : s.work? (.heat l k) = some w) (hf : w.failed = none)
    (hst : (s.hslot l k).st = .compose ∨ (s.hslot l k).st = .grow ∨ (s.hslot l k).st = .run ∨ (s.hslot l k).st = .judge)
    (ht : (s.loop l).timeout ≠ 0) (hd : (s.hslot l k).began + (s.loop l).timeout * 64 * usTu ≤ s.now) :
    heatTimeoutOp l k s = heatError l k 1 eHeatTimeout s := by
  have hon : ((s.hslot l k).st == .compose || (s.hslot l k).st == .grow || (s.hslot l k).st == .run ||
      (s.hslot l k).st == .judge) = true := by
    simpa [or_assoc] using hst
  simp [heatTimeoutOp, hu, hw, hf, hon, ht, Nat.not_lt.2 hd]

theorem heatJudgeDoneOp_good {d : Nat × Nat × Option (BitVec 16) × List JudgeResult} (hu : heatUp s l = true)
    (hw : s.work? (.heat l k) = some w) (hf : w.failed = none)
    (hd : (s.judge.done.find? fun d => d.1 == l && d.2.1 == k) = some d) (he : d.2.2.1 = none) (hst : (s.hslot l k).st = .judge) :
    heatJudgeDoneOp l k s = sendOutcome l k (updHSlot l k (fun h => { h with members := giveResults h.members d.2.2.2 })
      { s with judge := { s.judge with done := s.judge.done.filter fun d => !(d.1 == l && d.2.1 == k) } }) := by
  obtain ⟨a, b, e, rs⟩ := d
  have he' : e = none := he
  unfold heatJudgeDoneOp
  simp only [hd, hu, hw, hf, he', hst]
  rfl

theorem heatSwitchDoneOp_over {mine : List Pin} {s1 : State} (hu : heatUp s l = true) (hst : (s.hslot l k).st = .switch)
    (ho : courseOver s l k = true)
    (h1 : s1 = updLoop l (fun g => { g with residue := g.residue + (s.hslot l k).time }) (updHSlot l k (fun h => { h with time := 0 }) s))
    (hm : mine = (heatPins s1 l k).filter (fun p => p.course == (s.hslot l k).course && p.version == (s.hslot l k).version)) :
    heatSwitchDoneOp l k s = enterCompose l k (holdModel l k
      (vacateCrew (s.hslot l k).epoch l (s.hslot l k).crew (s.hslot l k).seat
        (updWork (.heat l k) (fun w => { w with pins := w.pins.filter fun p => !(mine.contains p) })
          (each mine (dropPin (heatDropRec s1 l k)) s1)))) := by
  subst hm h1
  unfold heatSwitchDoneOp
  dsimp only
  rw [if_neg (by simp [hu, hst, ho])]

/-- A run is over: with nothing sampled the heat has its outcome, else its requests go to Judge. -/
theorem heatRunDoneOp_over {s1 : State} (hu : heatUp s l = true) (hst : (s.hslot l k).st = .run) (ho : courseOver s l k = true)
    (h1 : s1 = vacateCrew (s.hslot l k).epoch l (s.hslot l k).crew (s.hslot l k).seat s) :
    (sampledOf (s.hslot l k) = [] → heatRunDoneOp l k s = sendOutcome l k s1) ∧
    (sampledOf (s.hslot l k) ≠ [] → heatRunDoneOp l k s = startPlan (.heatRequests l k) islHea 63
      [lineWrites (s.loop l).ctx (judgeAddr s l k) ((sampledOf (s.hslot l k)).flatMap (requestWords s1 l k))]
      (moveHSlot l k (fun h => { h with st := .judge, since := s.now, waiting := true }) s1)) := by
  subst h1
  unfold heatRunDoneOp
  dsimp only
  rw [if_neg (by simp [hu, hst, ho])]
  exact ⟨fun h => if_pos (List.isEmpty_iff.2 h), fun h => if_neg (mt List.isEmpty_iff.1 h)⟩

theorem heatCommitOp_acked (hu : heatUp s l = true) (hst : (s.hslot l k).st = .commit) (ha : (s.hslot l k).acked = true)
    (hn : (s.hslot l k).waiting = false) : heatCommitOp l k s = tryFill l (commitHeat l k s) := by
  simp [heatCommitOp, hu, hst, ha, hn]

end Heats

/-- Settles O50: each operation under its conditions. -/
theorem heatsGoFromStateToState : Obligations.HeatsGoFromStateToState := by
  refine ⟨fun s hu hh hb => congrArg Host.Outcome.next (heatPlaceOp_up hu hh hb),
    fun l k w s hu hw hf => ⟨fun hst hj => congrArg Host.Outcome.next (heatSaveDoneOp_over hu hw hf hst hj),
      fun hst hn hp he hl => congrArg Host.Outcome.next (heatGrowDoneOp_kept hu hw hf hst hn hp he hl),
      fun hst ht hd => congrArg Host.Outcome.next (heatTimeoutOp_due hu hw hf hst ht hd), ?judged⟩,
    fun l k s hu => ⟨fun hst ho mine s1 h1 hm => congrArg Host.Outcome.next (heatSwitchDoneOp_over hu hst ho h1 hm),
      fun hst ho hs => congrArg Host.Outcome.next ((heatRunDoneOp_over hu hst ho rfl).1 hs),
      fun hst ha hn => congrArg Host.Outcome.next (heatCommitOp_acked hu hst ha hn), ?sampled⟩⟩
  case judged =>
    rintro _ d hd he rfl hst
    exact congrArg Host.Outcome.next (heatJudgeDoneOp_good hu hw hf hd he hst)
  case sampled =>
    rintro _ s1 hst ho rfl hne h1
    exact congrArg Host.Outcome.next ((heatRunDoneOp_over hu hst ho h1).2 hne)

section Accounting
variable {s : State} {l i l2 : Nat} {x : AcctItem} {rest : List AcctItem}

/-- The loop that an accounting item may belong to (R269). -/
def itemLoop (s : State) (x : AcctItem) : Option (Nat × Loop) :=
  s.heat.loops.cells.find? fun g => g.2.ctx == x.ctx && (g.2.st != .stopped || loopInFlight g.2 != 0)

theorem accountingItemOp_context (hi : s.fab.items = x :: rest) (hu : computeUp s = true) (hn : itemLoop s x = none) :
    accountingItemOp s = charge x.ctx x.tu { s with fab := { s.fab with items := rest } } := by
  unfold itemLoop at hn
  unfold accountingItemOp
  simp only [hi, hu, hn]
  rfl

/-- No heat of the loop is in flight: its residue takes the time. -/
theorem accountingItemOp_residue {g : Loop} (hi : s.fab.items = x :: rest) (hu : computeUp s = true)
    (hg : itemLoop s x = some (l, g)) (hf : ∀ k, (g.slots.get k).st = .free) : accountingItemOp s =
      updLoop l (fun g => { g with residue := g.residue + x.tu }) { s with fab := { s.fab with items := rest } } := by
  have hnone : ((List.range 8).find? fun k => (g.slots.get k).st != .free &&
      (crewClusters s (g.slots.get k).epoch (g.slots.get k).crew).contains x.cluster) = none := by
    simp [hf]
  unfold itemLoop at hg
  unfold accountingItemOp
  simp only [hi, hu, hg]
  rw [if_neg (by decide), hnone]

theorem accountingPeriodOp_due {s1 : State} (hh : s.build.hasHeat = true) (hu : computeUp s = true)
    (hd : s.heat.lastPeriod + max 10 (fld s.heat.cfg 0 16) * usTu ≤ s.now)
    (h1 : s1 = each (s.mar.slots.cells.filter fun p => p.2.st != .free) (fun s p =>
      updHeat (fun h => { h with shares := h.shares.upd p.1 fun x => { x with weight := p.2.weight.toNat } }) s)
      (updHeat (fun h => { h with lastPeriod := s.now }) s)) :
    accountingPeriodOp s = each (s1.heat.loops.cells.map Prod.fst) (fun s l => dueIrqs l s)
      (updHeat (fun h => { h with floor := nextFloor s1 }) s1) := by
  have hgo : ¬ (!s.build.hasHeat || !computeUp s ||
      decide (s.now < s.heat.lastPeriod + max 10 (fld s.heat.cfg 0 16) * usTu)) = true := by
    simp [hh, hu, Nat.not_lt.2 hd]
  subst h1
  unfold accountingPeriodOp
  dsimp only
  rw [if_neg hgo]

/-! ### Spills (R262) -/

/-- The sequences of a loop that have starved for its wait, the longest first. -/
def starvedSeqs (s : State) (l : Nat) : List (Nat × SeqEnt) :=
  sortBy (fun a b => a.2.starvedSince.getD 0 < b.2.starvedSince.getD 0) ((liveSeqs (s.loop l)).filter fun p =>
    p.2.st == .decode && p.2.kvWait && p.2.starvedSince.any fun t => t + (s.loop l).kvWaitMs * msTu ≤ s.now)

theorem kvSpillOp_live (hu : computeUp (settlePoison s) = true) (hl : loopLive ((settlePoison s).loop l) = true)
    (hr : loopRecovers (settlePoison s) l = false) : kvSpillOp l s = tryFill l (spillStarved l (settlePoison s)) := by
  simp [kvSpillOp, hu, hl, hr]

theorem spillStarved_chosen (h0 : (s.loop l).kvWaitMs ≠ 0) (hd : (s.loop l).lastSpill + (s.loop l).kvWaitMs * msTu ≤ s.now)
    (hc : (starvedSeqs s l).findSome? (spillChoice s l) = some (l2, i)) :
    spillStarved l s = startSpill l2 i (updLoop l (fun g => { g with lastSpill := s.now }) s) := by
  unfold starvedSeqs at hc
  unfold spillStarved
  dsimp only
  rw [if_neg (by simp [h0, Nat.not_lt.2 hd]), hc]

/-- Nothing is spilled: the loop never spills, one was spilled within its wait, or no sequence finds one to spill. -/
theorem spillStarved_none (h : (s.loop l).kvWaitMs = 0 ∨ s.now < (s.loop l).lastSpill + (s.loop l).kvWaitMs * msTu ∨
    ∀ q ∈ liveSeqs (s.loop l), q.2.starvedSince = none ∨ spillChoice s l q = none) : spillStarved l s = s := by
  have hc (hq : ∀ q ∈ liveSeqs (s.loop l), q.2.starvedSince = none ∨ spillChoice s l q = none) :
      (starvedSeqs s l).findSome? (spillChoice s l) = none := by
    refine List.findSome?_eq_none_iff.2 fun q hm => ?_
    obtain ⟨hlive, hstarved⟩ := List.mem_filter.1 (mem_of_sortBy hm)
    rcases hq q hlive with hn | hn
    · simp [hn] at hstarved
    · exact hn
  unfold starvedSeqs at hc
  unfold spillStarved
  dsimp only
  rcases h with h | h | h
  · rw [if_pos (by simp [h])]
  · rw [if_pos (by simp [h])]
  · rw [hc h, ite_self]

/-- A spill that finds room in the tier area (R315). -/
theorem startSpill_room {t : Nat} {tab : PageTab} {as : List Nat} {homes : List PageEnt} (ht : t = hIdx ((s.loop l).seqs.get i).kv)
    (hb : tab = s.mem.tabs.get t) (ha : tierRoom s (pageBytes (s.mem.pools.get tab.pool)) tab.pages.length (tierUsed s) = some as)
    (hh : homes = (tab.pages.zip as).map (fun x => { x.1 with tier := some x.2 })) :
    startSpill l i s = movePages s.mem.nextId t homes
      (updSeq l i (fun e => { e with st := .spilled, kvWait := false, starvedSince := none }) (setSpilled t true
        (updMem (fun m => { m with
          nextId := m.nextId + 1
          moves := m.moves ++ [⟨m.nextId, .spill, t, l, i, homes, tab.pages, 0, none, false, s.now⟩] }) s.nextFree))) := by
  subst hh hb ht
  unfold startSpill
  dsimp only
  rw [ha]
  rfl

end Accounting

section JudgeWork
variable {s : State} {j : JudgeJob} {rest : List JudgeJob}

theorem judgeJobAcceptOp_front (hu : computeUp s = true) (hw : s.judge.waiting = j :: rest)
    (ho : ∀ q ∈ s.judge.waiting, jobOrphan s q = false) (hl : s.judge.jobs.length < 16) : judgeJobAcceptOp s =
      judgeAccepted j (updJudge (fun g => { g with waiting := rest, jobs := g.jobs ++ [{ j with since := s.now }] }) s) := by
  have hnone : s.judge.waiting.filter (jobOrphan s) = [] := List.filter_eq_nil_iff.2 fun q hq => by simp [ho q hq]
  unfold judgeJobAcceptOp
  rw [if_neg (by simp [hu]), hnone]
  simp only [List.foldl_nil, hw]
  exact if_neg (Nat.not_le.2 hl)

theorem judgeRequestOp_work (hu : computeUp s = true)
    (hj : ((abandonJobs s).judge.jobs.find? fun j => j.err.isNone && j.at_ < j.n) = some j) (ho : j.out = 0) :
    (j.started = true → judgeRequestOp s = workRequest j (abandonJobs s)) ∧
    (∀ j1 : JudgeJob, j.started = false →
      j1 = { j with started := true, seed := (abandonJobs s).fresh, got := [], wide := [], since := (abandonJobs s).now } →
      judgeRequestOp s = workRequest j1 (updJJob j.id (fun _ => j1) (abandonJobs s).nextFree)) := by
  unfold judgeRequestOp
  rw [if_neg (by simp [hu])]
  dsimp only
  rw [hj]
  dsimp only
  rw [if_neg (by simp [ho])]
  refine ⟨fun hs => if_pos hs, ?_⟩
  rintro _ hs rfl
  exact if_neg (by simp [hs])

end JudgeWork

/-- Settles O51: each operation under its conditions. -/
theorem accountingSpillingAndJudgeWork : Obligations.AccountingSpillingAndJudgeWork := by
  refine ⟨fun x rest s hi hu => ⟨fun hn => congrArg Host.Outcome.next (accountingItemOp_context hi hu hn),
      fun l g hg hf => ⟨_, congrArg Host.Outcome.next (accountingItemOp_residue hi hu hg hf), rfl⟩⟩,
    fun s hh hu hd s1 h1 => congrArg Host.Outcome.next (accountingPeriodOp_due hh hu hd h1), ?spill,
    fun j rest s hu hw ho hl => congrArg Host.Outcome.next (judgeJobAcceptOp_front hu hw ho hl), ?work, ?begin⟩
  case spill =>
    rintro l s _ rfl hu hl hr
    have hlive := kvSpillOp_live hu hl hr
    refine ⟨fun l2 i s2 h0 hd hc h2 => ?_, fun hn => congrArg Host.Outcome.next (hlive.trans (by rw [spillStarved_none hn]))⟩
    have hspill : kvSpillOp l s = tryFill l (startSpill l2 i s2) := by rw [hlive, spillStarved_chosen h0 hd hc, h2]
    exact ⟨congrArg Host.Outcome.next hspill, fun t tab as homes ht hb ha hh =>
      congrArg Host.Outcome.next (hspill.trans (by rw [startSpill_room ht hb ha hh]))⟩
  case work =>
    rintro j s _ hu rfl hj ho hs
    exact congrArg Host.Outcome.next ((judgeRequestOp_work hu hj ho).1 hs)
  case begin =>
    rintro j j1 s _ hu rfl hj ho hs h1
    exact congrArg Host.Outcome.next ((judgeRequestOp_work hu hj ho).2 j1 hs h1)

end Sys2Proof.Machine

/-! Pools, copy pieces, maps and restores (R307, R309, R317 to R322, R328, R332). -/
namespace Sys2Proof.Machine

section Pools
variable {s : State} {d : W64} {q : Nat} {p : Pool}

/-- A pool that is not enabled, with the fields written (R309). -/
def poolWritten (d : W64) (s : State) : State := updMem (fun m => { m with pools := m.pools.upd (poolSel s) (poolWrite d) }) s

theorem poolEnableOp_empty (hq : poolSel s < s.build.kvPools) (he : (s.mem.pools.get (poolSel s)).enabled = false)
    (hp : p = (poolWritten d s).mem.pools.get (poolSel s)) (h : fld p.cfg 0 16 = 0 ∨ pageTokens p = 0 ∨ perStack p = 0) :
    poolEnableOp d s = poolRefuse (poolWritten d s) := by
  subst hp
  have hbad : (fld ((poolWritten d s).mem.pools.get (poolSel s)).cfg 0 16 == 0 ||
      pageTokens ((poolWritten d s).mem.pools.get (poolSel s)) == 0 ||
      perStack ((poolWritten d s).mem.pools.get (poolSel s)) == 0) = true := by
    simpa [or_assoc] using h
  unfold poolEnableOp
  dsimp only
  rw [if_neg (by simp [hq, he])]
  exact if_pos hbad

theorem poolEnableOp_sized (hq : poolSel s < s.build.kvPools) (he : (s.mem.pools.get (poolSel s)).enabled = false)
    (hp : p = (poolWritten d s).mem.pools.get (poolSel s)) (h0 : fld p.cfg 0 16 ≠ 0) (ht : pageTokens p ≠ 0) (hs : perStack p ≠ 0) :
    (poolBlocks (poolWritten d s) p = none → poolEnableOp d s = poolRefuse (poolWritten d s)) ∧
    (∀ bases, poolBlocks (poolWritten d s) p = some bases →
      poolEnableOp d s = pagesFreed (updMem (fun m => { m with pools := m.pools.upd (poolSel s) fun p =>
        { p with enabled := true, cmdErr := false, bases := bases, quarantine := [] } }) (poolWritten d s).nextFree)) := by
  subst hp
  have hgood : ¬ (fld ((poolWritten d s).mem.pools.get (poolSel s)).cfg 0 16 == 0 ||
      pageTokens ((poolWritten d s).mem.pools.get (poolSel s)) == 0 ||
      perStack ((poolWritten d s).mem.pools.get (poolSel s)) == 0) = true := by
    simp [h0, ht, hs]
  unfold poolWritten at *
  unfold poolEnableOp
  dsimp only
  rw [if_neg (by simp [hq, he]), if_neg hgood]
  constructor
  · intro hb
    rw [hb]
  · intro bases hb
    rw [hb]

theorem poolDisableOp_held (hq : poolSel s < s.build.kvPools) (he : (s.mem.pools.get (poolSel s)).enabled = true)
    (ht : (s.mem.tabs.cells.any fun t => t.2.isTable && t.2.pool == poolSel s) = true) : poolDisableOp d s = poolRefuse s := by
  unfold poolDisableOp
  dsimp only
  rw [if_neg (Nat.not_le.2 hq), if_neg (by simp [he]), if_pos ht]

theorem poolDisableOp_free (hq : poolSel s < s.build.kvPools) (he : (s.mem.pools.get (poolSel s)).enabled = true)
    (ht : (s.mem.tabs.cells.any fun t => t.2.isTable && t.2.pool == poolSel s) = false) : poolDisableOp d s =
      updMem (fun m => { m with pools := m.pools.upd (poolSel s) fun p =>
        { p with enabled := false, cmdErr := false, bases := [], quarantine := [] } }) s := by
  unfold poolDisableOp
  dsimp only
  rw [if_neg (Nat.not_le.2 hq), if_neg (by simp [he]), if_neg (by simp [ht])]

end Pools

section Maps
variable {s : State} {m : MemRead} {c : Nat}

/-- A copy piece of a partition without a budget (R307). -/
theorem copyPieceLaunchOp_open {p : CopyPiece} (hu : computeUp s = true) (hp : nextPiece s = some p)
    (ht : treeRefuses s p.tree = false) (hm : partMode s p.part = 0) :
    copyPieceLaunchOp s = enterTree p.tree p.msg (updSld (fun d => { d with
      pieces := d.pieces.map fun x => if x.id == p.id then { x with launched := true } else x })
      (updMem (fun m => { m with lastPart := p.part, parts := m.parts.upd p.part fun x => { x with tokens := x.tokens } })
        (refillPart p.part s))) := by
  simp [copyPieceLaunchOp, hu, hp, ht, hm]

/-- The state in which Slide has read the selected slot's map. -/
def mapRead (m : MemRead) (s : State) : State :=
  ownRead islSld (fld (s.map (sldSlot s)).map 6 50 * 64) (s.slot (sldSlot s)).ctxId (64 + 16 * (mapRegions m.bytes).length) s

theorem mapRegisterOp_read (hb : blank s = false) (hu : computeUp s = true) (hx : (s.slot (sldSlot s)).st ≠ .free)
    (he : m.err = .ok) (hl : mapRegions m.bytes ≠ []) :
    (∀ i, firstBadRegion (mapRead m s) (sldSlot s) [] (mapRegions m.bytes) = some i →
      mapRegisterOp m s = mapRefuse i (mapRead m s)) ∧
    (firstBadRegion (mapRead m s) (sldSlot s) [] (mapRegions m.bytes) = none →
      mapRegisterOp m s = startHandles (sldSlot s) (mapHandles ((mapRead m s).slot (sldSlot s)).ctxId (mapRegions m.bytes))
        (updMap (sldSlot s) (fun c => { c with cmdErr := false, badRegion := 0, regions := mapRegions m.bytes })
          (updSld (fun d => { d with
            handles := each (mapHandles ((mapRead m s).slot (sldSlot s)).ctxId (mapRegions m.bytes))
              (fun t h => t.set h.1 (some (sldSlot s))) d.handles }) (mapRead m s)))) := by
  have hgo : ¬ (blank s || !computeUp s || (s.slot (sldSlot s)).st == .free) = true := by simp [hb, hu, hx]
  unfold mapRead
  unfold mapRegisterOp
  dsimp only
  rw [if_neg hgo, he]
  dsimp only
  rw [if_neg (mt List.isEmpty_iff.1 hl)]
  constructor
  · intro i hi
    rw [hi]
  · intro hi
    rw [hi]
    rfl

theorem unregisterOp_dropped (hb : blank s = false) (hu : computeUp s = true) (hx : (s.slot (sldSlot s)).st ≠ .free)
    (hh : slotHeld s (sldSlot s) = false) :
    unregisterOp s = unregisterMap (sldSlot s) (updMap (sldSlot s) (fun c => { c with cmdErr := false, badRegion := 0 }) s) := by
  simp [unregisterOp, hb, hu, hx, hh]

theorem unregisterOp_refused (h : (s.slot (sldSlot s)).st = .free ∨ slotHeld s (sldSlot s) = true) :
    unregisterOp s = mapRefuse 0 s := by
  rcases h with h | h <;> simp [unregisterOp, h]

theorem execMapRegister_free {t : State} (hn : (s.map (sldSlot s)).busy = 0) (hp : s.ump.porN = true) (h : mapRegisterOp m s = t) :
    execMapRegister m s = .next t := by
  rw [execMapRegister, hn, powered_next hp h]
  rfl

theorem execUnregister_free {t : State} (hn : (s.map (sldSlot s)).busy = 0) (hp : s.ump.porN = true) (h : unregisterOp s = t) :
    execUnregister s = .next t := by
  rw [execUnregister, hn, powered_next hp h]
  rfl

/-! ### Restores (R328) -/

/-- The Rowlock of a cluster that a restore without saved state claims: counters at 0, the context resident. -/
def restoreClaims (c : Nat) (j : SaveJob) (s : State) : State :=
  becomeResident c j.ctx (updRow c (fun r => { r with sync := each (List.range 48) (fun t i => t.set i 0) (Tab.const 0) }) s)

theorem restoreBeginOp_empty {j : SaveJob} {x : ClJob} (hu : computeUp s = true) (hr : (s.row c).resident = none)
    (hj : (s.sld.jobs.find? fun j => j.kind == .restore && !j.failed && j.clusters.any fun x => x.cluster == c && x.st == .waitRow) =
      some j)
    (hx : (j.clusters.find? fun x => x.cluster == c) = some x) (hv : x.valid = false) :
    (∀ k, restoreHold (restoreClaims c j s) j c = some k →
      restoreBeginOp c s = settleRow c (clusterDone j.id c (releaseHold j c k (restoreClaims c j s)))) ∧
    (restoreHold (restoreClaims c j s) j c = none →
      restoreBeginOp c s = settleRow c (clusterDone j.id c (restoreClaims c j s))) := by
  have hgo : ¬ (!computeUp s || (s.row c).resident.isSome) = true := by simp [hu, hr]
  unfold restoreClaims
  unfold restoreBeginOp
  rw [if_neg hgo, hj]
  dsimp only
  rw [hx]
  dsimp only
  rw [hv]
  constructor
  · intro k hk
    simp only [Bool.false_eq_true, if_false, List.isEmpty_nil, if_true]
    rw [hk]
  · intro hk
    simp only [Bool.false_eq_true, if_false, List.isEmpty_nil, if_true]
    rw [hk]

end Maps

/-- Settles O52: each command by its operation, with its conditions met and with them failed. -/
theorem memoryCommandsAct : Obligations.MemoryCommandsAct := by
  refine ⟨?enable, ?disable, fun p s hu hp ht hm => congrArg Host.Outcome.next (copyPieceLaunchOp_open hu hp ht hm), ?register,
    ?unregister, fun m s hn => ⟨if_pos (bne_iff_ne.2 hn), if_pos (bne_iff_ne.2 hn)⟩, ?restore⟩
  case enable =>
    rintro d _ p s _ hp rfl hq he rfl hpool
    refine ⟨fun h => powered_next hp (poolEnableOp_empty hq he hpool h), fun h0 ht hs => ?_⟩
    obtain ⟨hnone, hsome⟩ := poolEnableOp_sized hq he hpool h0 ht hs
    exact ⟨fun hb => powered_next hp (hnone hb), fun bases hb => powered_next hp (hsome bases hb)⟩
  case disable =>
    rintro d _ s hp rfl hq he
    refine ⟨fun ht => powered_next hp (poolDisableOp_held hq he ht),
      fun ht => ⟨_, powered_next hp (poolDisableOp_free hq he ht), ?_, fun r hr => ?_, rfl⟩⟩
    · exact (tab_get_upd ..).trans (if_pos rfl)
    · exact (tab_get_upd ..).trans (if_neg hr)
  case register =>
    rintro m _ _ s _ rfl hn hb hu hx he rfl hl rfl
    obtain ⟨hbad, hgood⟩ := mapRegisterOp_read hb hu hx he hl
    exact ⟨fun i hi => execMapRegister_free hn (porN_of_computeUp hu) (hbad i hi),
      fun hi => execMapRegister_free hn (porN_of_computeUp hu) (hgood hi)⟩
  case unregister =>
    rintro _ s rfl hn
    exact ⟨fun hb hu hx hh => execUnregister_free hn (porN_of_computeUp hu) (unregisterOp_dropped hb hu hx hh),
      fun hp h => execUnregister_free hn hp (unregisterOp_refused h)⟩
  case restore =>
    rintro c j x s _ hc hu hr hj hx hv rfl
    obtain ⟨hsome, hnone⟩ := restoreBeginOp_empty hu hr hj hx hv
    have he : ∀ t, restoreBeginOp c s = t → exec (.restoreBegin c) s = .next t := fun t h =>
      (if_neg (Nat.not_le.2 hc)).trans (congrArg Host.Outcome.next h)
    refine he _ ?_
    split
    · exact hsome _ ‹_›
    · exact hnone ‹_›

end Sys2Proof.Machine

/-! Stroke (R336 to R346): enabling, periods, telemetry and alert lines, and O53 from them. -/
namespace Sys2Proof.Machine

section StrokeOn
variable {s : State} {d : W64}

@[simp] theorem alertOf_setAlert_same (b : Bool) (a : Alert) (k : Stk) : alertOf b (setAlert b a k) = a := by
  cases b <;> rfl

theorem stkOn_parts (h : stkOn s = true) : s.build.hasStroke = true ∧ computeUp s = true := by
  rw [stkOn, Bool.and_eq_true, Bool.and_eq_true] at h
  exact ⟨h.1.2, h.2⟩

theorem strokeEnableOp_entered (hb : s.build.hasStroke = true) (hc : bit s.stk.cfg 0 = false) (hu : computeUp s = true) :
    strokeEnableOp d s = stkEnter true (updStk (fun k => { k with cfg := (d ||| 1) &&& stkMask }) s) := by
  simp [strokeEnableOp, hb, hc, hu]

theorem strokeEnableOp_again (hb : s.build.hasStroke = true) (hc : bit s.stk.cfg 0 = true) :
    strokeEnableOp d s = updStk (fun k => { k with cfg := (d ||| 1) &&& stkMask }) (settleBuckets s) := by
  simp [strokeEnableOp, hb, hc]

theorem strokeEnableOp_inReset (hb : s.build.hasStroke = true) (hc : bit s.stk.cfg 0 = false) (hu : computeUp s = false) :
    strokeEnableOp d s = updStk (fun k => { k with cfg := (d ||| 1) &&& stkMask, fullStart := true }) s := by
  simp [strokeEnableOp, hb, hc, hu, updStk]

theorem strokeDisableOp_built (hb : s.build.hasStroke = true) :
    strokeDisableOp d s = { s with stk := { s.stk with
      cfg := d &&& stkMask &&& ~~~1, stale := [], force := StkVals.none, sent := StkVals.none,
      buckets := Tab.const ⟨Q.ofNat s.stk.img.burst, Q.ofNat s.stk.img.burst, s.now⟩ } } := by
  simp [strokeDisableOp, hb, updStk]

end StrokeOn

section Periods
variable {s : State}

theorem newPeriod_emptied (t : Tab Chan) (c : Nat) : ((newPeriod t).get c).sum = 0 ∧ ((newPeriod t).get c).n = 0 := by
  obtain ⟨dflt, cells⟩ := t
  induction cells with
  | nil => exact ⟨rfl, rfl⟩
  | cons x xs ih =>
    simp only [newPeriod, Tab.get, List.map_cons, lookupCell] at ih ⊢
    split
    · exact ⟨rfl, rfl⟩
    · exact ih

theorem strokePeriodOp_off (hon : stkOn s = false) (hb : s.build.hasStroke = true) (hu : computeUp s = true)
    (hp : s.stk.period < s.now / 4000) : strokePeriodOp s =
      updStk (fun k => { k with loads := loadTotal s, period := s.now / 4000, chans := newPeriod k.chans }) s := by
  simp [strokePeriodOp, hon, hb, hu, Nat.not_le.2 hp]

/-- What a period that ends while Stroke paces leaves in Stroke. -/
theorem strokePeriodOp_on (hon : stkOn s = true) (hp : s.stk.period < s.now / 4000) :
    (strokePeriodOp s).stk.period = s.now / 4000 ∧ (strokePeriodOp s).stk.force = s.stk.sent ∧
    (strokePeriodOp s).stk.late = satAdd 64 s.stk.late (s.now / 4000 - s.stk.period - 1) ∧
    (strokePeriodOp s).stk.g = nextGain (updStk (fun k => { k with lTotal := k.loads }) (settleBuckets s)) ∧
    (strokePeriodOp s).stk.chans = newPeriod s.stk.chans := by
  obtain ⟨hb, hu⟩ := stkOn_parts hon
  unfold strokePeriodOp
  dsimp only
  rw [if_neg (by simp [hb, hu, Nat.not_le.2 hp]), if_neg (by simp [hon])]
  exact ⟨rfl, rfl, rfl, rfl, rfl⟩

end Periods

section Telemetry
variable {s : State} {ch : BitVec 4} {val : BitVec 16}

theorem telemetrySampleOp_taken {c v : Nat} (hb : s.build.hasStroke = true) (hu : computeUp s = true) (hc : c < 10) :
    telemetrySampleOp c v s = { s with stk := { s.stk with
      chans := s.stk.chans.upd c (fun x0 =>
        let x := if stkOn s then x0 else freshChan s.now x0
        { sum := x.sum + v, n := x.n + 1, last := (x.last ++ [v]).drop (x.last.length - 63), at_ := s.now }),
      stale := s.stk.stale.filter (· != c) } } := by
  unfold telemetrySampleOp
  rw [if_neg (by simp [hb, hu, Nat.not_le.2 hc])]
  rfl

theorem freshChan_same {now : Nat} {x : Chan} (h : x.at_ / 4000 = now / 4000) : freshChan now x = x :=
  if_pos (beq_iff_eq.2 h)

theorem freshChan_new {now : Nat} {x : Chan} (h : x.at_ / 4000 ≠ now / 4000) : freshChan now x = { x with sum := 0, n := 0 } :=
  if_neg (mt beq_iff_eq.1 h)

theorem telemetryStaleOp_fallen {c : Nat} (hon : stkOn s = true) (hc : c ∈ usedChans s) (hs : c ∉ s.stk.stale)
    (ht : max (s.stk.chans.get c).at_ s.stk.since + 10 * usTu ≤ s.now) :
    telemetryStaleOp c s =
      if s.stk.stale = [] then
        logRec .nothing { LogRec.zero with
          code := eTelemetryStale, island := islStk,
          info := (((usedChans s).filter fun x => !(s.stk.stale.contains x) && chanSilent s x).map fun x => 2 ^ x).foldl (· + ·) 0 }
          (updStk (fun k => { k with
            stale := k.stale ++ (usedChans s).filter fun x => !(s.stk.stale.contains x) && chanSilent s x }) s)
      else updStk (fun k => { k with
        stale := k.stale ++ (usedChans s).filter fun x => !(s.stk.stale.contains x) && chanSilent s x }) s :=
  if_neg (by simp [hon, hc, hs, chanSilent, ht])

end Telemetry

section Alerts
variable {s : State} {thermal : Bool}

/-- What an alert that begins an event changes of Stroke: its line and, unless the line is stuck, its count. -/
theorem alertBeginOp_begun (hb : s.build.hasStroke = true) (hu : computeUp s = true)
    (he : (alertOf thermal s.stk).event = false) :
    alertOf thermal (alertBeginOp thermal s).stk =
      { alertOf thermal s.stk with event := true, since := s.now, effect := true } ∧
    alertOf (!thermal) (alertBeginOp thermal s).stk = alertOf (!thermal) s.stk ∧
    (alertBeginOp thermal s).stk.thEvents =
      (if (alertOf thermal s.stk).stuck = false ∧ thermal = true then satAdd 64 s.stk.thEvents 1 else s.stk.thEvents) ∧
    (alertBeginOp thermal s).stk.ocEvents =
      (if (alertOf thermal s.stk).stuck = false ∧ thermal = false then satAdd 64 s.stk.ocEvents 1 else s.stk.ocEvents) := by
  unfold alertBeginOp
  dsimp only
  rw [if_neg (by simp [hb, hu, he])]
  cases hk : (alertOf thermal s.stk).stuck with
  | true => cases thermal <;> exact ⟨rfl, rfl, rfl, rfl⟩
  | false => cases thermal <;> exact ⟨rfl, rfl, rfl, rfl⟩

theorem alertEndOp_ended (he : (alertOf thermal s.stk).event = true) (hs : (alertOf thermal s.stk).stuck = false)
    (ht : (alertOf thermal s.stk).since + 2 * usTu ≤ s.now) :
    alertEndOp thermal s = updStk (setAlert thermal { alertOf thermal s.stk with
      event := false, low := s.now - 2 * usTu, effect := stkOn s }) (settleBuckets s) := by
  simp [alertEndOp, he, hs, Nat.not_lt.2 ht]

theorem alertEndOp_early (he : (alertOf thermal s.stk).event = true) (hs : (alertOf thermal s.stk).stuck = false)
    (ht : s.now < (alertOf thermal s.stk).since + 2 * usTu) : alertEndOp thermal s = s := by
  simp [alertEndOp, he, hs, ht]

theorem stuckAlertOp_stuck (he : (alertOf thermal s.stk).event = true) (hs : (alertOf thermal s.stk).stuck = false)
    (ht : (alertOf thermal s.stk).since + 50 * msTu < s.now) :
    stuckAlertOp thermal s =
      logRec .nothing { LogRec.zero with code := eStuckAlert, island := islStk, info := if thermal then 1 else 0 }
        (updStk (setAlert thermal { alertOf thermal s.stk with stuck := true }) s) := by
  simp [stuckAlertOp, he, hs, Nat.not_le.2 ht]

theorem alertUnstuckOp_unstuck (hs : (alertOf thermal s.stk).stuck = true) (he : (alertOf thermal s.stk).event = false)
    (ht : (alertOf thermal s.stk).low + 50 * msTu ≤ s.now) :
    alertUnstuckOp thermal s = updStk (setAlert thermal { alertOf thermal s.stk with stuck := false }) s := by
  simp [alertUnstuckOp, he, hs, Nat.not_lt.2 ht]

end Alerts

/-- Settles O53: each input of Stroke by its operation. -/
theorem strokeCommandsAct : Obligations.StrokeCommandsAct := by
  refine ⟨?enable, ?period, fun s hon hb hu hp => congrArg Host.Outcome.next (strokePeriodOp_off hon hb hu hp), ?sample, ?begin,
    ?ending, ?unstuck, ?stale⟩
  case enable =>
    intro d s hb hp
    exact ⟨fun hc hu => powered_next hp (strokeEnableOp_entered hb hc hu), fun hc => powered_next hp (strokeEnableOp_again hb hc),
      fun hc hu => powered_next hp (strokeEnableOp_inReset hb hc hu),
      _, powered_next hp (strokeDisableOp_built hb), rfl, rfl, rfl, rfl, rfl, rfl⟩
  case period =>
    intro s hon hp
    obtain ⟨hperiod, hforce, hlate, hgain, hchans⟩ := strokePeriodOp_on hon hp
    refine ⟨_, rfl, hperiod, hforce, hlate, hgain, fun c => ?_⟩
    rw [hchans]
    exact newPeriod_emptied s.stk.chans c
  case sample =>
    intro ch val s hb hu hc
    refine ⟨_, congrArg Host.Outcome.next (telemetrySampleOp_taken hb hu hc), fun h => ?_, fun hoff h => ?_, ?_, ?_,
      fun i hi => ?_, rfl⟩
    · have hsame : (if stkOn s then s.stk.chans.get ch.toNat else freshChan s.now (s.stk.chans.get ch.toNat)) =
          s.stk.chans.get ch.toNat := by
        split
        · rfl
        · exact freshChan_same (h.resolve_left ‹_›)
      simp [tab_get_upd, hsame]
    · simp [tab_get_upd, hoff, freshChan_new h]
    · simp [tab_get_upd]
    · simp
    · simp [tab_get_upd, hi]
  case begin =>
    intro thermal s hb hu he
    obtain ⟨hself, hother, hth, hoc⟩ := alertBeginOp_begun hb hu he
    refine ⟨_, rfl, hself, hother, fun hk => ⟨fun h => ?_, fun h => ?_⟩, fun hk => ?_⟩
    · subst h
      simp [hth, hoc, hk]
    · subst h
      simp [hth, hoc, hk]
    · simp [hth, hoc, hk]
  case ending =>
    intro thermal s he hs
    refine ⟨fun ht => ⟨_, congrArg Host.Outcome.next (alertEndOp_ended he hs ht), ?_⟩,
      fun ht => congrArg Host.Outcome.next (alertEndOp_early he hs ht),
      fun ht => congrArg Host.Outcome.next (stuckAlertOp_stuck he hs ht)⟩
    simp [updStk]
  case unstuck =>
    intro thermal s hs he ht
    exact ⟨_, congrArg Host.Outcome.next (alertUnstuckOp_unstuck hs he ht), alertOf_setAlert_same .., rfl⟩
  case stale =>
    rintro ch _ s hon hc ht rfl
    refine ⟨fun h0 => congrArg Host.Outcome.next ?_, fun h0 hs => congrArg Host.Outcome.next ?_⟩
    · exact (telemetryStaleOp_fallen hon hc (by simp [h0]) ht).trans (if_pos h0)
    · exact (telemetryStaleOp_fallen hon hc hs ht).trans (if_neg h0)

end Sys2Proof.Machine

/-! The time inputs (R352 to R355), Wake's streams and Erg (R360 to R373), and O54 and O55 from them. -/
namespace Sys2Proof.Machine

section Pulse
variable {s : State}

theorem tsPulseOp_merged (hp : s.ump.porN = true) (hn : newEvent s s.tkp.pulseStuck s.tkp.lastPulse = false) :
    tsPulseOp s = { s with tkp := { s.tkp with lastPulse := some s.now } } := by
  simp [tsPulseOp, hp, hn, updTkp]

/-- The time of an event of ts_pulse: when it arrived, less the delay of its path (R354). -/
def pulseTime (s : State) : Nat := s.now - fld s.tkp.cfg 22 16

/-- The state in which Timekeeper has noted the rise of ts_pulse. -/
def pulseNoted (s : State) : State := updTkp (fun t => { t with lastPulse := some s.now }) s

/-- In mode 2 a pulse ends the mode (R354). -/
def loadEnded (s : State) : State := updTkp (fun k => { k with cfg := setFld k.cfg 0 2 1 }) (pulseNoted s)

variable (hp : s.ump.porN = true) (hn : newEvent s s.tkp.pulseStuck s.tkp.lastPulse = true)
include hp hn

theorem tsPulseOp_off (hm : fld s.tkp.cfg 0 2 = 0) : tsPulseOp s = pulseNoted s := by
  simp [tsPulseOp, hp, hn, hm, pulseNoted]

theorem tsPulseOp_captured (hm : fld s.tkp.cfg 0 2 = 1 ∨ fld s.tkp.cfg 0 2 = 3) :
    tsPulseOp s = capture (pulseTime s) (pulseNoted s) := by
  rcases hm with hm | hm <;> simp [tsPulseOp, hp, hn, hm, pulseNoted, pulseTime]

theorem tsPulseOp_loaded (hm : fld s.tkp.cfg 0 2 = 2) (ht : pulseTime s ≤ s.tkp.load.toNat) :
    tsPulseOp s = timeRecs true (updTkp (fun k => { k with now := s.tkp.load.toNat + (s.now - pulseTime s), frac := 0 })
      (capture (pulseTime s) (loadEnded s))) := by
  unfold pulseTime at ht ⊢
  simp [tsPulseOp, hp, hn, hm, ht, loadEnded, pulseNoted]

theorem tsPulseOp_loadRefused (hm : fld s.tkp.cfg 0 2 = 2) (ht : s.tkp.load.toNat < pulseTime s) :
    tsPulseOp s = logRec .nothing { LogRec.zero with code := eTimeLoad, island := islTkp }
      (updTkp (fun k => { k with loadRefused := true }) (loadEnded s)) := by
  unfold pulseTime at ht
  simp [tsPulseOp, hp, hn, hm, Nat.not_le.2 ht, loadEnded, pulseNoted]

end Pulse

section Inputs
variable {s : State} {line t : Nat}

theorem newEvent_notStuck {stuck : Bool} {last : Option Nat} (h : newEvent s stuck last = true) : stuck = false := by
  simpa using (Bool.and_eq_true_iff.1 h).1

theorem stuckInputOp_stuck (hl : line ≤ 2) (ht : inputLast s line = some t) (hs : inputStuck s line = false)
    (hlong : t + 50 * msTu < s.now) :
    stuckInputOp line s =
      logRec .nothing { LogRec.zero with code := eStuckInput, island := if line = 0 then islTkp else islUmp, info := line }
        (setInput line true (some s.now) s) := by
  unfold stuckInputOp
  rw [if_neg (by simp [hs, hl]), ht]
  exact if_neg (Nat.not_le.2 hlong)

theorem inputUnstuckOp_unstuck (hl : line ≤ 2) (ht : inputLast s line = some t) (hs : inputStuck s line = true)
    (hlong : t + 50 * msTu ≤ s.now) : inputUnstuckOp line s = setInput line false none s := by
  unfold inputUnstuckOp
  rw [if_neg (by simp [hs, hl]), ht]
  exact if_neg (Nat.not_lt.2 hlong)

theorem trigInOp_merged {b : Bool} {n : Nat} (hp : s.ump.porN = true) (hb : n = if b then 2 else 1)
    (hn : newEvent s (inputStuck s n) (inputLast s n) = false) :
    trigInOp b s = setInput n (inputStuck s n) (some s.now) s := by
  subst hb
  simp only [trigInOp, hp, hn]
  rfl

theorem trigInOp_event {b : Bool} {n : Nat} (hp : s.ump.porN = true) (hb : n = if b then 2 else 1)
    (hn : newEvent s (inputStuck s n) (inputLast s n) = true) :
    trigInOp b s = if bit s.erg.freeze n then freezeStart (setInput n false (some s.now) s)
      else setInput n false (some s.now) s := by
  subst hb
  have hs := newEvent_notStuck hn
  rw [hs] at hn
  simp only [trigInOp, hp, hs, hn, Bool.true_and]
  rfl

end Inputs

/-- Settles O54: each time input by its operation, by the mode of TKP_CFG for a pulse. -/
theorem timeInputsAct : Obligations.TimeInputsAct := by
  refine ⟨?event, fun s hp hn => ⟨_, congrArg Host.Outcome.next (tsPulseOp_merged hp hn), rfl⟩, ?stuck, ?lock⟩
  case event =>
    intro s hp hn
    refine ⟨fun hm => ⟨_, congrArg Host.Outcome.next (tsPulseOp_off hp hn hm), rfl⟩,
      fun hm => congrArg Host.Outcome.next (tsPulseOp_captured hp hn hm), ?_⟩
    rintro hm _ rfl
    exact ⟨fun ht => congrArg Host.Outcome.next (tsPulseOp_loaded hp hn hm ht),
      fun ht => congrArg Host.Outcome.next (tsPulseOp_loadRefused hp hn hm ht)⟩
  case stuck =>
    intro line t s hl ht
    exact ⟨fun hs hlong => congrArg Host.Outcome.next (stuckInputOp_stuck hl ht hs hlong),
      fun hs hlong => congrArg Host.Outcome.next (inputUnstuckOp_unstuck hl ht hs hlong)⟩
  case lock =>
    exact fun s hp => ⟨_, congrArg Host.Outcome.next (if_pos hp), rfl⟩

section Streams
variable {s : State} {d : W64} {i : Nat}

theorem streamEnableOp_bad (hw : s.build.hasWake = true) (he : (s.stream (selStream s)).enabled = false)
    (hok : streamOk ((updStream (selStream s) (fun st => { st with filter := d &&& filterMask &&& ~~~1 }) s).stream
      (selStream s)) = false) :
    streamEnableOp d s = updStream (selStream s) (fun st => { st with filter := d &&& filterMask &&& ~~~1 }) s := by
  unfold streamEnableOp
  dsimp only
  rw [if_neg (by simp [hw, he]), hok]
  rfl

theorem streamEnableOp_good (hw : s.build.hasWake = true) (he : (s.stream (selStream s)).enabled = false)
    (hok : streamOk ((updStream (selStream s) (fun st => { st with filter := d &&& filterMask &&& ~~~1 }) s).stream
      (selStream s)) = true) :
    streamEnableOp d s = timeRec false (selStream s) (updStream (selStream s) (fun st => { st with
      filter := st.filter ||| 1, enabled := true, written := 0, issued := 0, consumed := 0, recs := [], lossAt := [],
      blocks := st.blocks.map fun b => { b with stale := true }
      samples := Tab.const 0
      stopped := bit d 2 && (s.erg.trigOut0 || (s.erg.frozen && decide (s.erg.freezeTime ≤ s.now))) })
        (updStream (selStream s) (fun st => { st with filter := d &&& filterMask &&& ~~~1 }) s)) := by
  unfold streamEnableOp
  dsimp only
  rw [if_neg (by simp [hw, he]), hok]
  rfl

theorem streamConsumedOp_built {n : W64} (hw : s.build.hasWake = true) :
    streamConsumedOp n s = updStream (selStream s) (fun st => { st with consumed := max st.consumed n.toNat }) s := by
  simp [streamConsumedOp, hw]

theorem traceFlushOp_due {r : TraceRec} (hi : i < 8) (hw : s.build.hasWake = true) (hu : computeUp s = true)
    (hr : (s.stream i).recs.head? = some r) (ht : r.stamp + 4 * max 100 (fld s.wake.cfg 0 16) ≤ s.now) :
    traceFlushOp i s = writeBlock i s := by
  unfold traceFlushOp
  rw [if_neg (by simp [hw, hu, hi]), hr]
  exact if_neg (Nat.not_lt.2 ht)

theorem statusLinePublishOp_enabled (hi : i < 8) (hw : s.build.hasWake = true) (hu : computeUp s = true)
    (he : (s.stream i).enabled = true) :
    statusLinePublishOp i s = updStream i (fun st => { st with lastPub := s.now })
      (issueNm true (fld (s.stream i).statusLine 6 50 * 64) 0xFFFF
        (wordsToBytes [w64 (s.stream i).written, w64 (s.stream i).lost, w64 (s.stream i).lastStamp, 0, 0, 0, 0, 0]) 64 0
        (.statusLine i) islWak s) :=
  if_neg (by simp [hw, hu, he, hi])

theorem timeRecordOp_up (hi : i < 8) (hu : computeUp s = true) : timeRecordOp i s = timeRec false i s :=
  if_neg (by simp [hu, hi])

end Streams

section Erg
variable {s : State} {d : W64}

theorem sampleIntervalOp_due {t : State} (he : s.build.hasErg = true) (hu : computeUp s = true)
    (ht : s.erg.lastSample + 400 * max 1 (fld s.erg.cfg 0 16) ≤ s.now) (ha : ergActive s = true)
    (h1 : t = updErg (fun e => { e with lastSample := s.now, intervals := e.intervals + 1 })
      (each (List.range 4) sampleHist (each (List.range 64) sampleCounter s)))
    (hr : bit t.erg.cfg 19 = false) :
    sampleIntervalOp s = each (List.range 64) publishCounter t := by
  unfold sampleIntervalOp
  dsimp only
  rw [if_neg (by simp [he, hu, Nat.not_lt.2 ht]), if_pos ha, ← h1, if_neg (by simp [hr])]

theorem freezeStartOp_built (he : s.build.hasErg = true) : freezeStartOp d s = freezeStart (freezeFields d s) := by
  simp [freezeStartOp, he]

theorem freezeEndOp_frozen (he : s.build.hasErg = true) (hf : (freezeFields d s).erg.frozen = true) :
    freezeEndOp d s = updErg (fun e => { e with frozen := false, resumeAt := s.now + 800 }) (freezeFields d s) := by
  unfold freezeEndOp
  dsimp only
  rw [if_neg (by simp [he]), if_pos hf]

theorem freezeInstantOp_begun (he : s.build.hasErg = true) (hf : s.erg.frozen = true) (h0 : s.erg.trigOut0 = false)
    (ht : s.erg.freezeTime ≤ s.now) :
    freezeInstantOp s = freezeStreams true (updErg (fun e => { e with trigOut0 := true }) s) := by
  simp [freezeInstantOp, he, hf, h0, Nat.not_lt.2 ht]

end Erg

/-- Settles O55: each row of Wake and Erg by its operation. -/
theorem traceAndCountersAct : Obligations.TraceAndCountersAct := by
  refine ⟨?enable, ?consumed, ?flush, fun s s1 he hu ht ha _ h1 h2 => congrArg Host.Outcome.next
      (sampleIntervalOp_due he hu ht ha h1 h2), ?registers, fun b n s hp hb hn => congrArg Host.Outcome.next (trigInOp_merged hp hb hn),
    fun b n s hp hb hn => ⟨fun hz => congrArg Host.Outcome.next ?_, fun hz => congrArg Host.Outcome.next ?_⟩,
    fun s he hf h0 ht => congrArg Host.Outcome.next (freezeInstantOp_begun he hf h0 ht)⟩
  case enable =>
    rintro d i s s1 hp rfl hw he rfl
    exact ⟨fun hok => powered_next hp (streamEnableOp_bad hw he hok), fun hok => powered_next hp (streamEnableOp_good hw he hok)⟩
  case consumed =>
    intro n s hp hw
    refine ⟨_, powered_next hp (streamConsumedOp_built hw), ?_, fun i hi => ?_, rfl⟩
    · exact congrArg Stream.consumed ((tab_get_upd ..).trans (if_pos rfl))
    · exact (tab_get_upd ..).trans (if_neg hi)
  case flush =>
    intro i s hi hw hu
    exact ⟨fun r hr ht => congrArg Host.Outcome.next (traceFlushOp_due hi hw hu hr ht),
      fun he => congrArg Host.Outcome.next (statusLinePublishOp_enabled hi hw hu he),
      congrArg Host.Outcome.next (timeRecordOp_up hi hu)⟩
  case registers =>
    intro d s hp he
    exact ⟨powered_next hp rfl, powered_next hp rfl, powered_next hp (freezeStartOp_built he),
      fun hf => powered_next hp (freezeEndOp_frozen he hf)⟩
  · exact (trigInOp_event hp hb hn).trans (if_neg (by simp [hz]))
  · exact (trigInOp_event hp hb hn).trans (if_pos hz)

end Sys2Proof.Machine

/-! The watchdogs (R382 to R385, R391) and the phases of a compute reset (R391 to R406), and O58 and O59 from them. -/
namespace Sys2Proof.Machine

section Watchdogs
variable {s : State}

theorem firmwareHeartbeatOp_running (h : s.rig.fwRunning = true) :
    firmwareHeartbeatOp s = { s with ump := { s.ump with lastBeat := s.now } } := if_pos h

theorem firmwareWatchdogOp_missed (h : s.rig.fwRunning = true) (hd : s.ump.rst ≠ .dead)
    (ht : s.ump.lastBeat + wdTime s 16 ≤ s.now) :
    firmwareWatchdogOp s = raise5 { LogRec.zero with code := eFirmwareHang, island := islUmp } s :=
  if_neg (by simp [h, hd, Nat.not_lt.2 ht])

theorem engineWatchdogOp_idle {c e : Nat} (hu : computeUp s = true) (hb : engBuilt s c e = true)
    (hh : engineHung s (s.eng c e) = true) (hr : (s.eng c e).running = none) (hp : (s.eng c e).presented = none) :
    engineWatchdogOp c e s =
      raise4 { LogRec.zero with code := eEngineHang, island := islRow c, engine := e, cluster := c } s := by
  unfold engineWatchdogOp
  dsimp only
  rw [if_neg (by simp [hu, hb, hh]), hr, hp]
  rfl

theorem unitWatchdogOp_hung {isl : Nat} (hu : computeUp s = true) (hh : unitHung s isl = true) :
    unitWatchdogOp isl s = raise4 { LogRec.zero with code := eUnitHang, island := isl } s :=
  if_neg (by simp [hu, hh])

theorem driverResetOp_run (hb : blank s = false) (hr : s.ump.rst = .run) :
    driverResetOp s = raise4 { LogRec.zero with code := eDriverReset, island := islUmp } s :=
  if_neg (by simp [hb, hr])

variable {port c tag : Nat} {q : Awaited} (hq : awaited s port c tag = some q) (hd : s.ump.rst ≠ .dead)
include hq hd

theorem responseWatchdogOp_lost (hl : q.late = true) (ht : q.at_ + 2 * msTu ≤ s.now) :
    responseWatchdogOp port c tag s = raise5
      { LogRec.zero with island := q.isl, ctx := q.ctx, addr := q.addr, info := port, tag := tag, code := eResponseLost } s := by
  unfold responseWatchdogOp
  rw [hq]
  dsimp only
  rw [if_neg (by simp [hd]), if_pos hl, if_pos ht]

theorem responseWatchdogOp_late (hl : q.late = false) (ht : q.at_ + msTu ≤ s.now) (hr : inReset s = false) :
    responseWatchdogOp port c tag s = raise4
      { LogRec.zero with island := q.isl, ctx := q.ctx, addr := q.addr, info := port, tag := tag, code := eResponseTimeout }
      (markLate port c tag s) := by
  unfold responseWatchdogOp
  rw [hq]
  dsimp only
  rw [if_neg (by simp [hd]), if_neg (by simp [hl]), if_neg (Nat.not_lt.2 ht), if_neg (by simp [hr])]

end Watchdogs

/-- Settles O58: each watchdog by its operation. -/
theorem errorsAndWatchdogsAct : Obligations.ErrorsAndWatchdogsAct :=
  ⟨fun _ h => ⟨⟨_, congrArg Host.Outcome.next (firmwareHeartbeatOp_running h), rfl⟩,
      fun hd ht => congrArg Host.Outcome.next (firmwareWatchdogOp_missed h hd ht)⟩,
    fun _ _ _ hu hb hh hr hp => congrArg Host.Outcome.next (engineWatchdogOp_idle hu hb hh hr hp),
    fun _ _ hu hh => congrArg Host.Outcome.next (unitWatchdogOp_hung hu hh),
    fun _ _ _ _ _ hq hd => ⟨fun hl ht => congrArg Host.Outcome.next (responseWatchdogOp_lost hq hd hl ht),
      fun hl ht hr => congrArg Host.Outcome.next (responseWatchdogOp_late hq hd hl ht hr)⟩,
    fun _ hb hr => congrArg Host.Outcome.next (driverResetOp_run hb hr)⟩

section Phases
variable {s : State} {c : Nat}

theorem quiesceDoneOp_quiet {t : State} (hr : s.ump.rst = .quiesce) (hq : quiesced s = true)
    (h1 : t = each ((List.range s.build.clusters).flatMap fun c => rowReports (s.row c)) collectOne s)
    (ht : t.ump.rst = .quiesce) :
    quiesceDoneOp s = startDump 4 t.ump.cause t.ump.detectedAt false
      (updUmp (fun u => { u with rst := .capture, capturedAt := s.now }) t) := by
  unfold quiesceDoneOp
  dsimp only
  rw [if_neg (by simp [hr, hq]), ← h1, if_neg (by simp [ht])]

theorem rowlockReportTimeoutOp_late (hc : c < s.build.clusters) (hr : s.ump.rst = .capture)
    (ht : s.ump.capturedAt + msTu ≤ s.now) (hl : c ∉ s.ump.lateRows) :
    rowlockReportTimeoutOp c s = { s with ump := { s.ump with lateRows := s.ump.lateRows ++ [c] } } :=
  if_pos (by simp [hc, hr, ht, hl])

theorem captureDoneOp_over (hr : s.ump.rst = .capture) (hd : s.ump.dumpBusy = false) :
    captureDoneOp s = requestResets (updUmp (fun u => { u with rst := .engReset }) s) :=
  if_pos (by simp [hr, hd])

theorem clusterResetLateOp_late (hq : (s.row c).rstReq = true) (ht : (s.row c).rstAt + 20 * msTu ≤ s.now)
    (hd : s.ump.rst ≠ .dead) :
    clusterResetLateOp c s = raise5 { LogRec.zero with code := eClusterReset, island := islRow c, cluster := c } s :=
  if_pos (by simp [hq, ht, hd])

theorem execClusterResetDone_asked {image : MemRead} (hc : c < s.build.clusters) (hq : (s.row c).rstReq = true)
    (hd : s.ump.rst ≠ .dead) : execClusterResetDone c image s = .next (clusterResetDoneOp c image s) := by
  simp [execClusterResetDone, Nat.not_le.2 hc, hq, hd]

/-- The state in which cluster `c` has answered its handshake. -/
def clusterAnswered (c : Nat) (s : State) : State := updRow c (fun r => { r with rstReq := false, rstDone := true }) s

theorem clusterResetDoneOp_owed {image : MemRead} (h : resetsOwed (clusterAnswered c s) = true) :
    clusterResetDoneOp c image s = clusterAnswered c s :=
  if_pos (Bool.or_eq_true_iff.2 (.inl h))

theorem clusterResetDoneOp_last {image : MemRead} (h : resetsOwed (clusterAnswered c s) = false) (hr : s.ump.rst = .engReset) :
    clusterResetDoneOp c image s = engResetDone image (clusterAnswered c s) := by
  have hgo : ¬ (resetsOwed (clusterAnswered c s) || (clusterAnswered c s).ump.rst != .engReset) = true := by
    rw [h, show (clusterAnswered c s).ump.rst = .engReset from hr]
    decide
  exact if_neg hgo

/-- CLEAR ends (R391): Stroke, Wake and Stakeboat go on, then the loops' recovery, the refetches and the rings. -/
theorem clearDoneOp_ended {s1 s2 s3 s4 : State} (hr : s.ump.rst = .clear) (hf : fencesDone s = true)
    (h1 : s1 = updUmp (fun u => { u with
      rst := .recover, incarn := (u.incarn + 1) % 256, resetUs := (s.now - u.detectedAt) / usTu,
      ends := s.now :: u.ends.take 1, hangFrozen := false }) s)
    (h2 : s2 = kickPlans (settleWatches (wakeResetEnd (stkResume { s1 with fab := Fabric.reset }))))
    (h3 : s3 = each (s2.heat.loops.cells.map Prod.fst) recoverBegin (updBhs (fun b => { b with recovering := [] }) s2))
    (h4 : s4 = each (s3.mem.moves.filter fun m => m.kind == .refetch) restartRefetch s3) :
    clearDoneOp s = policy (each (busyRings s4) (fun s r => settle r s) (pumpRecovery s4)) := by
  unfold clearDoneOp
  dsimp only
  rw [if_neg (by simp [hr, hf]), ← h1, ← h2, ← h3, ← h4]

theorem recoverDoneOp_over (hr : s.ump.rst = .recover) (hd : recoveryDone s = true) :
    recoverDoneOp s = { s with ump := { s.ump with rst := .run, recoverUs := (s.now - s.ump.detectedAt) / usTu } } :=
  if_neg (by simp [hr, hd])

theorem dumpRequestOp_loaded (hb : blank s = false) : dumpRequestOp s = startDump 0 0 s.now true s :=
  if_neg (by simp [hb])

theorem refetchStartOp_due {i : Nat} {t : State} (h1 : t = settlePoison s) (hu : computeUp t = true)
    (hf : (t.rack.objs.get i).st ≠ .free) (hp : (t.rack.objs.get i).poisoned = true) (hs : (t.rack.objs.get i).shared = true)
    (hg : (t.rack.objs.get i).golden = true) (hl : loopsBusy t i = false) (hd : t.mem.refetchDue.contains i = true)
    (hr : refetching t i = false) :
    refetchStartOp i s = beginRefetch i false
      (pauseLoops i { t with mem := { t.mem with refetchDue := t.mem.refetchDue.filter (· != i) } }) := by
  unfold refetchStartOp
  dsimp only
  rw [← h1]
  exact if_neg (by simp only [hu, hp, hs, hg, hl, hd, hr]; simpa using hf)

end Phases

/-- Settles O59: each phase's end by its operation, with its conditions met. -/
theorem resetGoesFromPhaseToPhase : Obligations.ResetGoesFromPhaseToPhase := by
  refine ⟨fun s s1 hr hq h1 ht => congrArg Host.Outcome.next (quiesceDoneOp_quiet hr hq h1 ht), ?report,
    fun s hr hd => congrArg Host.Outcome.next (captureDoneOp_over hr hd), ?answer, ?unasked, ?late, ?clear,
    fun s hr hd => ⟨_, congrArg Host.Outcome.next (recoverDoneOp_over hr hd), rfl⟩,
    fun s hb => congrArg Host.Outcome.next (dumpRequestOp_loaded hb),
    fun i s s1 h1 hu hf hp hs hg hl hd hr => congrArg Host.Outcome.next (refetchStartOp_due h1 hu hf hp hs hg hl hd hr)⟩
  case report =>
    intro c s hc hr ht hl
    exact ⟨_, (if_neg (Nat.not_le.2 hc)).trans (congrArg Host.Outcome.next (rowlockReportTimeoutOp_late hc hr ht hl)), rfl⟩
  case answer =>
    rintro c image s s1 hc hq hr rfl
    have hd : s.ump.rst ≠ .dead := by simp [hr]
    have hgo : exec (.clusterResetDone c image) s = .next (clusterResetDoneOp c image s) := execClusterResetDone_asked hc hq hd
    exact ⟨fun h => hgo.trans (congrArg Host.Outcome.next (clusterResetDoneOp_owed h)),
      fun h => hgo.trans (congrArg Host.Outcome.next (clusterResetDoneOp_last h hr))⟩
  case unasked =>
    intro c image s hc hq
    exact (if_neg (Nat.not_le.2 hc)).trans (if_pos (by simp [hq]))
  case late =>
    intro c s hc hq ht hd
    exact (if_neg (Nat.not_le.2 hc)).trans (congrArg Host.Outcome.next (clusterResetLateOp_late hq ht hd))
  case clear =>
    intro s s1 hr hf h1
    exact ⟨clearDoneOp s, rfl, fun s2 s3 s4 h2 h3 h4 => clearDoneOp_ended hr hf h1 h2 h3 h4⟩

end Sys2Proof.Machine

/-! Rigger's commands (R412 to R432), and O60 from them. -/
namespace Sys2Proof.Machine

section Rigger
variable {s : State} {image : MemRead} {im : Image}

@[simp] theorem readImage_build (a : Nat) : (readImage a image s).build = s.build := rfl
@[simp] theorem readImage_rig (a : Nat) : (readImage a image s).rig = s.rig := rfl

theorem rigRefuse_result (n : Nat) : rigRefuse n s = { s with rig := { s.rig with result := n } } := rfl

section Load
variable (hu : rigUp s = true)
include hu

theorem loadOp_untested (ht : s.rig.testDone = false) : loadOp image s = rigRefuse 10 s := by
  unfold loadOp
  rw [if_neg (by simp [hu]), if_pos (by simp [ht])]

theorem loadOp_notBlank (hb : s.rig.st ≠ .blank) : loadOp image s = rigRefuse 10 s := by
  unfold loadOp
  rw [if_neg (by simp [hu]), if_pos (by simp [hb])]

theorem loadOp_noTable (ht : s.rig.testDone = true) (hb : s.rig.st = .blank) (ho : s.rack.objBase = 0) :
    loadOp image s = rigRefuse 13 s := by
  unfold loadOp
  rw [if_neg (by simp [hu]), if_neg (by simp [ht, hb]), if_pos ho]

theorem loadOp_read (ht : s.rig.testDone = true) (hb : s.rig.st = .blank) (ho : s.rack.objBase ≠ 0) (he : image.err ≠ .target) :
    (∀ b, checkImage s.build true image = some b → loadOp image s = rigBad b (readImage (stageBase s) image s)) ∧
    (checkImage s.build true image = none → loadOp image s = applyImage image.bytes 0
      (updMem (fun m => { m with tabs := Tab.const PageTab.reset })
        (updRack (fun k => { k with objs := Tab.const Obj.reset, courses := Tab.const Course.reset })
          (readImage (stageBase s) image s)))) := by
  unfold loadOp
  dsimp only
  rw [if_neg (by simp [hu]), if_neg (by simp [ht, hb]), if_neg ho, if_neg (by simp [he]), readImage_build]
  constructor
  · intro b hc
    rw [hc]
  · intro hc
    rw [hc]

end Load

section Stage
variable (hu : rigUp s = true)
include hu

theorem stageOp_locked (hl : swapLocked s = true) : stageOp image s = rigRefuse 9 s := by
  unfold stageOp
  rw [if_neg (by simp [hu]), if_pos hl]

theorem stageOp_notApplied (hl : swapLocked s = false) (hs : s.rig.st ≠ .applied) : stageOp image s = rigRefuse 10 s := by
  unfold stageOp
  rw [if_neg (by simp [hu]), if_neg (by simp [hl]), if_pos (by simp [hs])]

theorem stageOp_staged {t : State} (hl : swapLocked s = false) (hs : s.rig.st = .applied) (he : image.err ≠ .target)
    (h1 : t = readImage (stageBase s) image s) (hc : checkImage s.build true image = none)
    (hi : im = imageOf s.build (stageBase s) image.bytes) (hf : sameSection t image.bytes 1 = true)
    (hd : sameSection t image.bytes 5 = true) (hx : shapeUndefined t im = false) :
    stageOp image s = updRig (fun r => { r with st := .staged, result := 0, badSection := 0, badOffset := 0, staged := some im }) t := by
  have hb : t.build = s.build := by rw [h1, readImage_build]
  have ha : stageBase t = stageBase s := by rw [h1, stageBase, readImage_rig, stageBase]
  unfold stageOp
  dsimp only
  rw [if_neg (by simp [hu]), if_neg (by simp [hl]), if_neg (by simp [hs]), if_neg (by simp [he]), ← h1, hb, ha, hc, ← hi]
  dsimp only
  rw [if_neg (by simp [hf, hd]), if_neg (by simp [hx])]

end Stage

section Swap
variable (hu : rigUp s = true)
include hu

theorem swapOp_notStaged (hs : s.rig.st ≠ .staged) : swapOp s = rigRefuse 10 s := by
  unfold swapOp
  rw [if_neg (by simp [hu])]
  split
  · contradiction
  · rfl

theorem rigCancelOp_notStaged (hs : s.rig.st ≠ .staged) : rigCancelOp s = rigRefuse 10 s := by
  simp [rigCancelOp, hu, hs]

theorem swapOp_locked (hs : s.rig.st = .staged) (hi : s.rig.staged = some im) (hl : swapLocked s = true) :
    swapOp s = rigRefuse 9 s := by
  simp [swapOp, hu, hs, hi, hl]

theorem swapOp_switched (hs : s.rig.st = .staged) (hi : s.rig.staged = some im) (hl : swapLocked s = false) :
    swapOp s = endResidencies s.rig.now im (updRig (fun r => { r with
      st := .switched, result := 0, badSection := 0, badOffset := 0, old := some r.now, now := im, staged := none,
      epoch := (r.epoch + 1) % 2 ^ 32, switchedAt := s.now }) s) := by
  simp [swapOp, hu, hs, hi, hl]

theorem rigCancelOp_staged (hs : s.rig.st = .staged) :
    rigCancelOp s = updRig (fun r => { r with st := .applied, result := 0, badSection := 0, badOffset := 0, staged := none }) s := by
  simp [rigCancelOp, hu, hs]

end Swap

theorem swapOldDrainedOp_drained (hu : computeUp s = true) (hs : s.rig.st = .switched) (he : oldEntries s = false)
    (hh : oldHeats s = false) (hc : oldCopies s = false) : swapOldDrainedOp s = updRig (fun r => { r with st := .retiring }) s :=
  if_pos (by simp [hu, hs, he, hh, hc])

theorem swapRetiredOp_drained (hu : computeUp s = true) (hs : s.rig.st = .retiring) (ht : oldTrees s = false)
    (hp : oldPieces s = false) :
    swapRetiredOp s = updRig (fun r => { r with st := .applied, old := none, image := w64 r.now.base }) s :=
  if_pos (by simp [hu, hs, ht, hp])

section Apply
variable (hu : rigUp s = true)
include hu

theorem applyQuiescedOp_notApplied (hs : s.rig.st ≠ .applied) : applyQuiescedOp image s = rigRefuse 10 s := by
  unfold applyQuiescedOp
  rw [if_neg (by simp [hu]), if_pos (by simp [hs])]

theorem applyQuiescedOp_locked (hs : s.rig.st = .applied) (hl : s.rig.lock = true) : applyQuiescedOp image s = rigRefuse 9 s := by
  unfold applyQuiescedOp
  rw [if_neg (by simp [hu]), if_neg (by simp [hs]), if_pos hl]

theorem applyQuiescedOp_busy (hs : s.rig.st = .applied) (hl : s.rig.lock = false) (hq : blockQuiet s = false) :
    applyQuiescedOp image s = rigRefuse 8 s := by
  unfold applyQuiescedOp
  rw [if_neg (by simp [hu]), if_neg (by simp [hs]), if_neg (by simp [hl]), if_pos (by simp [hq])]

/-- A good image that APPLY_QUIESCED takes: the seats are disabled first (R428). -/
def quiescedApplied (image : MemRead) (s : State) : State :=
  applyImage image.bytes (s.rig.epoch + 1) (endResidencies s.rig.now (imageOf s.build 0 image.bytes)
    (readImage (stageBase s) image (updMar (fun m => { m with seatEnable := 0 }) s)))

theorem applyQuiescedOp_applied (hs : s.rig.st = .applied) (hl : s.rig.lock = false) (hq : blockQuiet s = true)
    (he : image.err ≠ .target) (hc : checkImage s.build true image = none) :
    applyQuiescedOp image s =
      if sameSection s image.bytes 5 then quiescedApplied image s else discardMaps (quiescedApplied image s) := by
  unfold quiescedApplied
  unfold applyQuiescedOp
  dsimp only
  rw [if_neg (by simp [hu]), if_neg (by simp [hs]), if_neg (by simp [hl]), if_neg (by simp [hq]), if_neg (by simp [he]), hc]

end Apply

end Rigger

section Seats
variable {s : State} {d : W64}

theorem lockOp_powered (hp : s.ump.porN = true) :
    lockOp d s = { s with rig := { s.rig with
      lock := s.rig.lock || bit d 0, swapOk := if s.rig.lock then s.rig.swapOk else bit d 1 } } :=
  if_neg (by simp [hp])

/-- A seat that loses its enable drains the ring that holds it (R431). -/
def drainSeat (s : State) (i : Nat) : State :=
  match (s.seat i).ring with
  | some r => drainRing r s
  | none => s

/-- The bits of MAR_SEAT_ENABLE after a write of `d`: with no image applied or self-test failed none rises (R419). -/
def seatBits (d : W64) (s : State) : W64 :=
  (if s.rig.st ≠ .blank ∧ s.rig.testPass = true then d else d &&& s.mar.seatEnable) &&& w64 (2 ^ s.build.seats - 1)

theorem seatEnableOp_powered (hp : s.ump.porN = true) :
    seatEnableOp d s = policy (each
      ((List.range s.build.seats).filter fun i => bit s.mar.seatEnable i && !(bit (seatBits d s) i)) drainSeat
      (updMar (fun m => { m with seatEnable := seatBits d s }) s)) := by
  have hv : (if s.rig.st != .blank && s.rig.testPass then d else d &&& s.mar.seatEnable) &&& w64 (2 ^ s.build.seats - 1) =
      seatBits d s := by simp [seatBits]
  unfold seatEnableOp
  dsimp only
  rw [if_neg (by simp [hp]), hv]
  rfl

@[simp] theorem bit_zero (i : Nat) : bit 0 i = false := by simp [bit]

/-- With every seat disabled no ring is drained. -/
theorem seatEnableOp_fresh (hp : s.ump.porN = true) (h0 : s.mar.seatEnable = 0) :
    seatEnableOp d s = policy (updMar (fun m => { m with seatEnable := seatBits d s }) s) := by
  rw [seatEnableOp_powered hp, h0]
  simp only [bit_zero, Bool.false_and, List.filter_false]
  rfl

theorem seatBits_held (h : s.rig.st = .blank ∨ s.rig.testPass = false) (h0 : s.mar.seatEnable = 0) : seatBits d s = 0 := by
  rcases h with h | h <;> simp [seatBits, h, h0]

theorem seatBits_allowed (hs : s.rig.st ≠ .blank) (ht : s.rig.testPass = true) :
    seatBits d s = d &&& w64 (2 ^ s.build.seats - 1) := by
  simp [seatBits, hs, ht]

end Seats

/-- Settles O60: each command by Rigger's state, its refusals in the order of their checks. -/
theorem riggerCommandsFollowItsState : Obligations.RiggerCommandsFollowItsState := by
  refine ⟨?load, ?wrongState, ?stage, ?swap, ?drained, ?apply, ?lock, fun n s => rigRefuse_result n, ?seats, ?refused, ?held, ?allowed⟩
  case load =>
    rintro image s s1 hu ht hb ho he rfl
    obtain ⟨hbad, hgood⟩ := loadOp_read hu ht hb ho he
    exact ⟨fun b hc => congrArg Host.Outcome.next (hbad b hc), fun hc => congrArg Host.Outcome.next (hgood hc)⟩
  case wrongState =>
    intro image s hu
    exact ⟨fun hb => congrArg Host.Outcome.next (loadOp_notBlank hu hb),
      fun hl hs => congrArg Host.Outcome.next (stageOp_notApplied hu hl hs),
      fun hs => ⟨congrArg Host.Outcome.next (swapOp_notStaged hu hs), congrArg Host.Outcome.next (rigCancelOp_notStaged hu hs)⟩,
      fun hs => congrArg Host.Outcome.next (applyQuiescedOp_notApplied hu hs)⟩
  case stage =>
    intro image im s s1 hu hl hs he h1 hc hi hf hd hx
    exact ⟨_, congrArg Host.Outcome.next (stageOp_staged hu hl hs he h1 hc hi hf hd hx), rfl⟩
  case swap =>
    intro im s hu hs hi
    exact ⟨fun hl => congrArg Host.Outcome.next (swapOp_switched hu hs hi hl),
      fun hl => congrArg Host.Outcome.next (swapOp_locked hu hs hi hl),
      _, congrArg Host.Outcome.next (rigCancelOp_staged hu hs), rfl⟩
  case drained =>
    intro s hu
    exact ⟨fun hs he hh hc => ⟨_, congrArg Host.Outcome.next (swapOldDrainedOp_drained hu hs he hh hc), rfl⟩,
      fun hs ht hp => ⟨_, congrArg Host.Outcome.next (swapRetiredOp_drained hu hs ht hp), rfl⟩⟩
  case apply =>
    rintro image s _ hu hs hl hq he hc rfl _ rfl
    exact congrArg Host.Outcome.next (applyQuiescedOp_applied hu hs hl hq he hc)
  case lock =>
    exact fun d s hp => ⟨_, congrArg Host.Outcome.next (lockOp_powered hp), rfl, rfl, rfl⟩
  case seats =>
    rintro d _ s hp rfl
    exact congrArg Host.Outcome.next (seatEnableOp_powered hp)
  case refused =>
    intro image s hu
    exact ⟨fun ht => congrArg Host.Outcome.next (loadOp_untested hu ht),
      fun ht hb ho => congrArg Host.Outcome.next (loadOp_noTable hu ht hb ho),
      fun hl => congrArg Host.Outcome.next (stageOp_locked hu hl),
      fun hs hl => congrArg Host.Outcome.next (applyQuiescedOp_locked hu hs hl),
      fun hs hl hq => congrArg Host.Outcome.next (applyQuiescedOp_busy hu hs hl hq)⟩
  case held =>
    intro d s hp h h0
    exact congrArg Host.Outcome.next ((seatEnableOp_fresh hp h0).trans (by rw [seatBits_held h h0]))
  case allowed =>
    intro d s hp hs ht h0
    exact congrArg Host.Outcome.next ((seatEnableOp_fresh hp h0).trans (by rw [seatBits_allowed hs ht]))

end Sys2Proof.Machine
